-- ==== Sys2Proof/Word.lean ====
section
/-!
DEFINITION. The words of the machine: the widths the manual gives its storage (00 R4, 05 R117, 07 R171), and the
sorted lists by which the state holds sparse data. Nothing here computes an instruction's effect.
-/
namespace Sys2Proof

/-- One byte of storage (00 R4). -/
abbrev Byte := BitVec 8

/-- One halfword of code (03 R60). -/
abbrev Half := BitVec 16

/-- A 64-bit register (05 R117, R122). -/
abbrev Word := BitVec 64

/-- One 32-bit lane of a vector register, or one accumulator element (07 R171, 10 R238). -/
abbrev Lane := BitVec 32

/-- A vector register or latch: 64 lanes, lane 0 first (07 R171). -/
abbrev Row := List Lane

/-- A sparse table: pairs of a key and a value, in rising key. -/
abbrev SMap (α : Type) := List (Nat × α)

/-- Bytes at local addresses, HBM offsets or host addresses: pairs in rising address that list no zero byte. -/
abbrev Memory := List (Nat × Byte)

/-- A 320-bit two's-complement total of a conservation monitor, in units of 2 to the power -149 (21 R453). -/
abbrev Total := Int

end Sys2Proof
end

