-- ==== Sys2Proof/Syntax.lean ====
section
/-!
DEFINITION. The instructions: one constructor for every row of the opcode table, 249 words of the seven streams and 92
events that happen in the module as one whole step each (file 95), with the types of their fields and of what an
event brings in from outside.
-/
namespace Sys2Proof

/-- The seven streams (01 R17), with the codes of 03 R73. -/
inductive Stream where
  | C | V | M | L | S | A | F
  deriving DecidableEq, Repr

/-- The code of a stream (03 R73). -/
def Stream.code : Stream → Nat
  | .C => 0 | .V => 1 | .M => 2 | .L => 3 | .S => 4 | .A => 5 | .F => 6

/-- The stream of a code; codes above 6 name none, and the callers never pass one. -/
def Stream.ofCode : Nat → Stream
  | 0 => .C | 1 => .V | 2 => .M | 3 => .L | 4 => .S | 5 => .A | _ => .F

/-- The element type of a vector word, in the order of its code ty (03 R79, 06 R149). -/
inductive VTy where
  | f32 | bf16 | f16 | i32
  deriving DecidableEq, Repr

/-- The code of an element type. -/
def VTy.code : VTy → Nat
  | .f32 => 0 | .bf16 => 1 | .f16 => 2 | .i32 => 3

/-- The element type of a two-bit code. -/
def VTy.ofCode : Nat → VTy
  | 0 => .f32 | 1 => .bf16 | 2 => .f16 | _ => .i32

/-- The rounding modes, in the order of the field rnd (06 R154). -/
inductive Rnd where
  | ne | tz | pinf | minf
  deriving DecidableEq, Repr

/-- The code of a rounding mode. -/
def Rnd.code : Rnd → Nat
  | .ne => 0 | .tz => 1 | .pinf => 2 | .minf => 3

/-- The rounding mode of a two-bit code. -/
def Rnd.ofCode : Nat → Rnd
  | 0 => .ne | 1 => .tz | 2 => .pinf | _ => .minf

/-- The immediate forms of VLIM, in the order of its field kind (07 R183). -/
inductive Kind where
  | zx | sx | hi | f16
  deriving DecidableEq, Repr

/-- The code of an immediate form. -/
def Kind.code : Kind → Nat
  | .zx => 0 | .sx => 1 | .hi => 2 | .f16 => 3

/-- The immediate form of a two-bit code. -/
def Kind.ofCode : Nat → Kind
  | 0 => .zx | 1 => .sx | 2 => .hi | _ => .f16

/-- The scopes of 00 R8, in the order of the field scp; `bad` is the code 7, which no word may carry (03 R77). -/
inductive Scope where
  | thread | tile | quad | die | module | fabric | system | bad
  deriving DecidableEq, Repr

/-- The code of a scope. -/
def Scope.code : Scope → Nat
  | .thread => 0 | .tile => 1 | .quad => 2 | .die => 3 | .module => 4 | .fabric => 5 | .system => 6 | .bad => 7

/-- The scope of a three-bit code. -/
def Scope.ofCode : Nat → Scope
  | 0 => .thread | 1 => .tile | 2 => .quad | 3 => .die | 4 => .module | 5 => .fabric | 6 => .system | _ => .bad

/-- The declared uses of a relaxed far access (03 R78, 14 R340); `bad` stands for the codes 101 to 111. -/
inductive FUse where
  | unpaired | commutative | nonordering | quantum | speculative | bad (n : Nat)
  deriving DecidableEq, Repr

/-- The code of a declared use. -/
def FUse.code : FUse → Nat
  | .unpaired => 0 | .commutative => 1 | .nonordering => 2 | .quantum => 3 | .speculative => 4 | .bad n => n

/-- The declared use of a three-bit code. -/
def FUse.ofCode : Nat → FUse
  | 0 => .unpaired | 1 => .commutative | 2 => .nonordering | 3 => .quantum | 4 => .speculative | n => .bad n

/-- The ordering of a far access: relaxed with a use, or an acquire, a release or both at a scope (03 R78). -/
inductive Order where
  | rlx (use : FUse)
  | acq (scope : Scope)
  | rel (scope : Scope)
  | acqrel (scope : Scope)
  deriving DecidableEq, Repr

/-- The five-bit code of an ordering. -/
def Order.code : Order → Nat
  | .rlx u => u.code
  | .acq s => 8 + s.code
  | .rel s => 16 + s.code
  | .acqrel s => 24 + s.code

/-- The ordering of a five-bit code. -/
def Order.ofCode (n : Nat) : Order :=
  match n / 8 with
  | 0 => .rlx (FUse.ofCode n)
  | 1 => .acq (Scope.ofCode (n % 8))
  | 2 => .rel (Scope.ofCode (n % 8))
  | _ => .acqrel (Scope.ofCode (n % 8))

/-- The operations of FAMO, in the order of the field op (03 R77, 12 R321). -/
inductive FOp where
  | add | swap | cas | band | bor | bxor | min | max
  deriving DecidableEq, Repr

/-- The code of a far atomic operation. -/
def FOp.code : FOp → Nat
  | .add => 0 | .swap => 1 | .cas => 2 | .band => 3 | .bor => 4 | .bxor => 5 | .min => 6 | .max => 7

/-- The far atomic operation of a three-bit code. -/
def FOp.ofCode : Nat → FOp
  | 0 => .add | 1 => .swap | 2 => .cas | 3 => .band | 4 => .bor | 5 => .bxor | 6 => .min | _ => .max

/-- The formats a matrix nest accepts (10 R256). -/
inductive MFmt where
  | bf16 | f16 | q8 | q4
  deriving DecidableEq, Repr

/-- The code of a nest format. -/
def MFmt.code : MFmt → Nat
  | .bf16 => 0 | .f16 => 1 | .q8 => 2 | .q4 => 3

/-- The nest format of a code below 4. -/
def MFmt.ofCode : Nat → MFmt
  | 0 => .bf16 | 1 => .f16 | 2 => .q8 | _ => .q4

/-- The operations of a scatter-accumulate window (08 R210). -/
inductive AOp where
  | add | min | max | bor
  deriving DecidableEq, Repr

/-- The code of a window operation. -/
def AOp.code : AOp → Nat
  | .add => 0 | .min => 1 | .max => 2 | .bor => 3

/-- The window operation of a two-bit code. -/
def AOp.ofCode : Nat → AOp
  | 0 => .add | 1 => .min | 2 => .max | _ => .bor

/-- The element types of a window (08 R210); `bad` is the code 3, which no word may carry. -/
inductive ATy where
  | f32 | i32 | bf16 | bad
  deriving DecidableEq, Repr

/-- The code of a window element type. -/
def ATy.code : ATy → Nat
  | .f32 => 0 | .i32 => 1 | .bf16 => 2 | .bad => 3

/-- The window element type of a two-bit code. -/
def ATy.ofCode : Nat → ATy
  | 0 => .f32 | 1 => .i32 | 2 => .bf16 | _ => .bad

/-- The token field of an engine word: the other stream's code, and whether the word pushes and pops (03 R73). -/
structure Tok where
  chan : Nat := 0
  push : Bool := false
  pop : Bool := false
  deriving DecidableEq, Repr

/-- The five-bit code of a token field. -/
def Tok.code (t : Tok) : Nat := t.chan * 4 + t.push.toNat * 2 + t.pop.toNat

/-- The token field of a five-bit code. -/
def Tok.ofCode (n : Nat) : Tok := { chan := n / 4, push := n / 2 % 2 == 1, pop := n % 2 == 1 }

/-- The host's answer to an ATS translation request (16 R354, R355): refused, or a range with permissions. -/
structure XlatAnswer where
  refused : Bool := false
  base : Nat := 0
  size : Nat := 4096
  target : Nat := 0
  r : Bool := false
  w : Bool := false
  deriving DecidableEq, Repr

/-- The response codes of a page-request group (16 R360). -/
inductive PrgCode where
  | success | invalid | failure
  deriving DecidableEq, Repr

/-- One beat of the fabric with its side band (17 R381), the partitions that it comes from and is for, and what tells which
launch it belongs to: `lone` says that a thread or unit of a single-module launch sent it, and `group` holds the generation of
the process group of the multi-module launch that did, none for a unit that serves no launch (R383). -/
structure Beat where
  dmod : Nat := 0
  smod : Nat := 0
  kind : Nat := 0
  vc : Nat := 0
  poison : Bool := false
  flag : Word := 0
  authentic : Bool := true
  spart : Nat := 0
  dpart : Nat := 0
  lone : Bool := false
  group : Option Nat := none
  payload : List Byte := []
  deriving DecidableEq, Repr

/-- A chunk head or a chunk line of a collective (17 R387, R388). -/
structure ChunkBeat where
  smod : Nat := 0
  flow : Nat := 0
  pch : Nat := 0
  gen : Nat := 0
  seq : Nat := 0
  head : Bool := true
  lo : Nat := 0
  hi : Nat := 0
  line : Nat := 0
  num : Nat := 0
  bytes : List Byte := []
  poison : Bool := false
  deriving DecidableEq, Repr

/-- The configuration of a partition (23 R464, R509). -/
structure PartCfg where
  quads : List Nat := []
  hbmBase : Nat := 0
  hbmSize : Nat := 1
  flowLo : Nat := 0
  flowHi : Nat := 0
  flowNe : Nat := 0
  flowAb : Nat := 0
  granary : Nat := 0
  pool : Nat := 1
  tickns : Nat := 1000
  stall : Nat := 1
  age : Nat := 10
  hentry : Nat := 0
  deriving DecidableEq, Repr

/-- One stage of the boot chain as it is offered to its loader (25 R497). -/
structure BootStage where
  image : List Byte := []
  vendorKey : List Byte := []
  signature : List Byte := []
  version : Nat := 0
  deriving DecidableEq, Repr

/-- What a module reset meets: the stages, the fused harvest record, the window base the host assigns, the module
number, the row-repair map of each HBM stack as the rows that it uses and has, the route and window tables that firmware
writes, and whether the physical steps of bring-up succeed (25 R497, R504, R506; 16 R356; 17 R382). -/
structure BootInput where
  stages : List BootStage := []
  offTiles : List Nat := []
  offQuads : List Nat := []
  window : Nat := 0
  module : Nat := 0
  repair : List (Nat × Nat) := []
  routes : List (Nat × Nat) := []
  windows : List (Nat × Nat) := []
  master : Option Nat := none
  stacksTrained : Bool := true
  deriving DecidableEq, Repr

/-- What an event names and brings in: which unit it happens in (`a` to `e`, as the event's meaning says) and, for an
event from outside the module, what comes in. -/
structure EvArg where
  a : Nat := 0
  b : Nat := 0
  c : Nat := 0
  d : Nat := 0
  e : Nat := 0
  flag : Bool := false
  v : Word := 0
  offset : Int := 0
  code : PrgCode := .success
  xlat : XlatAnswer := {}
  beat : Beat := {}
  chunk : ChunkBeat := {}
  cfg : PartCfg := {}
  boot : BootInput := {}
  bytes : List Byte := []
  more : List Byte := []
  nums : List Nat := []
  pairs : List (Nat × Nat) := []
  badIde : Bool := false
  deriving DecidableEq, Repr

/-- The one inductive of instructions: every word of the seven streams, those with fields first, then every event. A
word's arguments are its fields; an event has none in the table, and what it names and brings in stands in the field
`arg` of the state. -/
inductive Instr where
  /-- BR (R138), stream C. -/
  | br (p t : Nat)
  /-- CALL (R138), stream C. -/
  | call (p t : Nat)
  /-- ADDI (R129), stream C. -/
  | addiCompact (g : Nat) (imm : BitVec 5)
  /-- TRIG (R147), stream C. -/
  | trig (n : Nat)
  /-- JOIN (R102), stream C. -/
  | join (mask : Nat)
  /-- BAR (R115), stream C. -/
  | bar (n : Nat)
  /-- BARA (R115), stream C. -/
  | bara (n : Nat)
  /-- BARW (R115), stream C. -/
  | barw (n : Nat)
  /-- GIVE (R106), stream C. -/
  | give (s : Nat)
  /-- TAKE (R106), stream C. -/
  | take (s : Nat)
  /-- ADD (R127), stream C. -/
  | add (d a b : Nat)
  /-- SUB (R127), stream C. -/
  | sub (d a b : Nat)
  /-- MUL (R127), stream C. -/
  | mul (d a b : Nat)
  /-- MULH (R127), stream C. -/
  | mulh (d a b : Nat)
  /-- MULHU (R127), stream C. -/
  | mulhu (d a b : Nat)
  /-- DIV (R130), stream C. -/
  | div (d a b : Nat)
  /-- DIVU (R130), stream C. -/
  | divu (d a b : Nat)
  /-- REM (R130), stream C. -/
  | rem (d a b : Nat)
  /-- REMU (R130), stream C. -/
  | remu (d a b : Nat)
  /-- AND (R127), stream C. -/
  | and (d a b : Nat)
  /-- OR (R127), stream C. -/
  | or (d a b : Nat)
  /-- XOR (R127), stream C. -/
  | xor (d a b : Nat)
  /-- ANDN (R127), stream C. -/
  | andn (d a b : Nat)
  /-- SHL (R127), stream C. -/
  | shl (d a b : Nat)
  /-- SHR (R127), stream C. -/
  | shr (d a b : Nat)
  /-- SAR (R127), stream C. -/
  | sar (d a b : Nat)
  /-- MIN (R127), stream C. -/
  | min (d a b : Nat)
  /-- MAX (R127), stream C. -/
  | max (d a b : Nat)
  /-- MINU (R127), stream C. -/
  | minu (d a b : Nat)
  /-- MAXU (R127), stream C. -/
  | maxu (d a b : Nat)
  /-- ROL (R127), stream C. -/
  | rol (d a b : Nat)
  /-- ROR (R127), stream C. -/
  | ror (d a b : Nat)
  /-- CLZ (R127), stream C. -/
  | clz (d a : Nat)
  /-- POPC (R127), stream C. -/
  | popc (d a : Nat)
  /-- SEXTW (R127), stream C. -/
  | sextw (d a : Nat)
  /-- ZEXTW (R127), stream C. -/
  | zextw (d a : Nat)
  /-- CMP.EQ (R133), stream C. -/
  | cmpEq (p a b : Nat)
  /-- CMP.NE (R133), stream C. -/
  | cmpNe (p a b : Nat)
  /-- CMP.LT (R133), stream C. -/
  | cmpLt (p a b : Nat)
  /-- CMP.LE (R133), stream C. -/
  | cmpLe (p a b : Nat)
  /-- CMP.LTU (R133), stream C. -/
  | cmpLtu (p a b : Nat)
  /-- CMP.LEU (R133), stream C. -/
  | cmpLeu (p a b : Nat)
  /-- PAND (R134), stream C. -/
  | pand (d a b : Nat)
  /-- POR (R134), stream C. -/
  | por (d a b : Nat)
  /-- PXOR (R134), stream C. -/
  | pxor (d a b : Nat)
  /-- PANDN (R134), stream C. -/
  | pandn (d a b : Nat)
  /-- PNOT (R134), stream C. -/
  | pnot (d a : Nat)
  /-- TAG.LOOK (R206), stream C. -/
  | tagLook (d a : Nat)
  /-- TAG.SET (R206), stream C. -/
  | tagSet (d a b : Nat)
  /-- TAG.CLR (R206), stream C. -/
  | tagClr (d a : Nat)
  /-- TAG.CLR (R206), stream C. -/
  | tagClrAll (d : Nat)
  /-- HND.DEF (R231), stream C. -/
  | hndDef (d a b : Nat)
  /-- HND.RELAY (R232), stream C. -/
  | hndRelay (d a b : Nat)
  /-- HND.QRY (R233), stream C. -/
  | hndQry (d a item : Nat)
  /-- HND.DROP (R234), stream C. -/
  | hndDrop (d a : Nat)
  /-- PAGE.REQ (R362), stream C. -/
  | pageReq (d a b : Nat)
  /-- MIGRATE (R370), stream C. -/
  | migrate (d a b : Nat)
  /-- MON.ARM (R458), stream C. -/
  | monArm (d a b : Nat)
  /-- MON.REF (R458), stream C. -/
  | monRef (d a b : Nat)
  /-- MON.RD (R459), stream C. -/
  | monRd (d b : Nat)
  /-- MON.OFF (R458), stream C. -/
  | monOff (d b : Nat)
  /-- NODE.POST (R473), stream C. -/
  | nodePost (d a b : Nat)
  /-- NODE.DONE (R473), stream C. -/
  | nodeDone (d a : Nat)
  /-- FRZ.RD (R432), stream C. -/
  | frzRd (d h b : Nat)
  /-- FRZ.WR (R432), stream C. -/
  | frzWr (d h b : Nat)
  /-- FRZ.RES (R433), stream C. -/
  | frzRes (d h : Nat)
  /-- FRZ.KILL (R434), stream C. -/
  | frzKill (d h : Nat)
  /-- FRZ.ARR (R435), stream C. -/
  | frzArr (d h b : Nat)
  /-- FRZ.ESC (R436), stream C. -/
  | frzEsc (d h : Nat)
  /-- SEL (R135), stream C. -/
  | sel (d p a b : Nat)
  /-- ADDI (R128), stream C. -/
  | addi (d a : Nat) (imm : BitVec 12)
  /-- ANDI (R128), stream C. -/
  | andi (d a : Nat) (imm : BitVec 12)
  /-- ORI (R128), stream C. -/
  | ori (d a : Nat) (imm : BitVec 12)
  /-- XORI (R128), stream C. -/
  | xori (d a : Nat) (imm : BitVec 12)
  /-- SHLI (R128), stream C. -/
  | shli (d a n : Nat)
  /-- SHRI (R128), stream C. -/
  | shri (d a n : Nat)
  /-- SARI (R128), stream C. -/
  | sari (d a n : Nat)
  /-- MULI (R128), stream C. -/
  | muli (d a : Nat) (imm : BitVec 12)
  /-- LUI (R131), stream C. -/
  | lui (d : Nat) (imm : BitVec 18)
  /-- CMPI.EQ (R133), stream C. -/
  | cmpiEq (p a : Nat) (imm : BitVec 12)
  /-- CMPI.NE (R133), stream C. -/
  | cmpiNe (p a : Nat) (imm : BitVec 12)
  /-- CMPI.LT (R133), stream C. -/
  | cmpiLt (p a : Nat) (imm : BitVec 12)
  /-- CMPI.LE (R133), stream C. -/
  | cmpiLe (p a : Nat) (imm : BitVec 12)
  /-- CMPI.LTU (R133), stream C. -/
  | cmpiLtu (p a : Nat) (imm : BitVec 12)
  /-- CMPI.LEU (R133), stream C. -/
  | cmpiLeu (p a : Nat) (imm : BitVec 12)
  /-- ADDPC (R132), stream C. -/
  | addpc (d : Nat) (imm : BitVec 12)
  /-- PBR (R136), stream C. -/
  | pbr (t : Nat) (disp : BitVec 22)
  /-- PBRR (R137), stream C. -/
  | pbrr (t a : Nat) (imm : BitVec 12)
  /-- LD.B (R140), stream C. -/
  | ldB (d a cls : Nat) (off : BitVec 8)
  /-- LD.H (R140), stream C. -/
  | ldH (d a cls : Nat) (off : BitVec 8)
  /-- LD.W (R140), stream C. -/
  | ldW (d a cls : Nat) (off : BitVec 8)
  /-- LD.D (R140), stream C. -/
  | ldD (d a cls : Nat) (off : BitVec 8)
  /-- LDU.B (R140), stream C. -/
  | lduB (d a cls : Nat) (off : BitVec 8)
  /-- LDU.H (R140), stream C. -/
  | lduH (d a cls : Nat) (off : BitVec 8)
  /-- LDU.W (R140), stream C. -/
  | lduW (d a cls : Nat) (off : BitVec 8)
  /-- ST.B (R140), stream C. -/
  | stB (d a cls : Nat) (off : BitVec 8)
  /-- ST.H (R140), stream C. -/
  | stH (d a cls : Nat) (off : BitVec 8)
  /-- ST.W (R140), stream C. -/
  | stW (d a cls : Nat) (off : BitVec 8)
  /-- ST.D (R140), stream C. -/
  | stD (d a cls : Nat) (off : BitVec 8)
  /-- FLD.W (R319), stream C. -/
  | fldW (d a cls : Nat) (ord : Order) (nr : Nat)
  /-- FLD.D (R319), stream C. -/
  | fldD (d a cls : Nat) (ord : Order) (nr : Nat)
  /-- FST.W (R320), stream C. -/
  | fstW (d a cls : Nat) (ord : Order)
  /-- FST.D (R320), stream C. -/
  | fstD (d a cls : Nat) (ord : Order)
  /-- FAMO.W (R321), stream C. -/
  | famoW (d a cls : Nat) (ord : Order) (op : FOp)
  /-- FAMO.D (R321), stream C. -/
  | famoD (d a cls : Nat) (ord : Order) (op : FOp)
  /-- FENCE.C (R331), stream C. -/
  | fenceC (mask : Nat)
  /-- FENCE.S (R337), stream C. -/
  | fenceS (s : Scope)
  /-- ENQ (R100), stream C. -/
  | enq (s off : Nat) (one : Bool)
  /-- FORK (R101), stream C. -/
  | fork (a mask : Nat)
  /-- SRR (R126), stream C. -/
  | srr (d n : Nat)
  /-- SRW (R126), stream C. -/
  | srw (n a : Nat)
  /-- TRAP (R148), stream C. -/
  | trap (code : Nat)
  /-- VADD.t (R176), stream V. -/
  | vadd (ty : VTy) (wb : Bool) (d a b : Nat)
  /-- VSUB.t (R176), stream V. -/
  | vsub (ty : VTy) (wb : Bool) (d a b : Nat)
  /-- VMUL.t (R176), stream V. -/
  | vmul (ty : VTy) (wb : Bool) (d a b : Nat)
  /-- VMIN.t (R176), stream V. -/
  | vmin (ty : VTy) (wb : Bool) (d a b : Nat)
  /-- VMAX.t (R176), stream V. -/
  | vmax (ty : VTy) (wb : Bool) (d a b : Nat)
  /-- VABS.t (R176), stream V. -/
  | vabs (ty : VTy) (wb : Bool) (d a : Nat)
  /-- VNEG.t (R176), stream V. -/
  | vneg (ty : VTy) (wb : Bool) (d a : Nat)
  /-- VCPSGN.t (R176), stream V. -/
  | vcpsgn (ty : VTy) (wb : Bool) (d a b : Nat)
  /-- VRINT.t (R176), stream V. -/
  | vrint (ty : VTy) (wb : Bool) (d a : Nat)
  /-- VDIV.t (R176), stream V. -/
  | vdiv (ty : VTy) (wb : Bool) (d a b : Nat)
  /-- VSQRT.t (R176), stream V. -/
  | vsqrt (ty : VTy) (wb : Bool) (d a : Nat)
  /-- VRCP.t (R178), stream V. -/
  | vrcp (ty : VTy) (wb : Bool) (d a : Nat)
  /-- VRSQ.t (R178), stream V. -/
  | vrsq (ty : VTy) (wb : Bool) (d a : Nat)
  /-- VEXP2.t (R178), stream V. -/
  | vexp2 (ty : VTy) (wb : Bool) (d a : Nat)
  /-- VLOG2.t (R178), stream V. -/
  | vlog2 (ty : VTy) (wb : Bool) (d a : Nat)
  /-- VTANH.t (R178), stream V. -/
  | vtanh (ty : VTy) (wb : Bool) (d a : Nat)
  /-- VADD.I32 (R180), stream V. -/
  | vaddI32 (wb : Bool) (d a b : Nat)
  /-- VSUB.I32 (R180), stream V. -/
  | vsubI32 (wb : Bool) (d a b : Nat)
  /-- VMUL.I32 (R180), stream V. -/
  | vmulI32 (wb : Bool) (d a b : Nat)
  /-- VMIN.I32 (R180), stream V. -/
  | vminI32 (wb : Bool) (d a b : Nat)
  /-- VMAX.I32 (R180), stream V. -/
  | vmaxI32 (wb : Bool) (d a b : Nat)
  /-- VABS.I32 (R180), stream V. -/
  | vabsI32 (wb : Bool) (d a : Nat)
  /-- VNEG.I32 (R180), stream V. -/
  | vnegI32 (wb : Bool) (d a : Nat)
  /-- VMULH.I32 (R180), stream V. -/
  | vmulh (wb : Bool) (d a b : Nat)
  /-- VAND.I32 (R180), stream V. -/
  | vand (wb : Bool) (d a b : Nat)
  /-- VOR.I32 (R180), stream V. -/
  | vor (wb : Bool) (d a b : Nat)
  /-- VXOR.I32 (R180), stream V. -/
  | vxor (wb : Bool) (d a b : Nat)
  /-- VANDN.I32 (R180), stream V. -/
  | vandn (wb : Bool) (d a b : Nat)
  /-- VSHL.I32 (R180), stream V. -/
  | vshl (wb : Bool) (d a b : Nat)
  /-- VSHR.I32 (R180), stream V. -/
  | vshr (wb : Bool) (d a b : Nat)
  /-- VSAR.I32 (R180), stream V. -/
  | vsar (wb : Bool) (d a b : Nat)
  /-- VMINU.I32 (R180), stream V. -/
  | vminu (wb : Bool) (d a b : Nat)
  /-- VMAXU.I32 (R180), stream V. -/
  | vmaxu (wb : Bool) (d a b : Nat)
  /-- VADDS.I32 (R180), stream V. -/
  | vadds (wb : Bool) (d a b : Nat)
  /-- VSUBS.I32 (R180), stream V. -/
  | vsubs (wb : Bool) (d a b : Nat)
  /-- VCLZ.I32 (R180), stream V. -/
  | vclz (wb : Bool) (d a : Nat)
  /-- VPOPC.I32 (R180), stream V. -/
  | vpopc (wb : Bool) (d a : Nat)
  /-- VMULHU.I32 (R180), stream V. -/
  | vmulhu (wb : Bool) (d a b : Nat)
  /-- VRSUM.t (R186), stream V. -/
  | vrsum (ty : VTy) (wb : Bool) (d a b : Nat)
  /-- VRMAX.t (R186), stream V. -/
  | vrmax (ty : VTy) (wb : Bool) (d a b : Nat)
  /-- VRMIN.t (R186), stream V. -/
  | vrmin (ty : VTy) (wb : Bool) (d a b : Nat)
  /-- VSCAN.t (R186), stream V. -/
  | vscan (ty : VTy) (wb : Bool) (d a b : Nat)
  /-- VSCMX.t (R186), stream V. -/
  | vscmx (ty : VTy) (wb : Bool) (d a b : Nat)
  /-- VPERM.t (R187), stream V. -/
  | vperm (ty : VTy) (wb : Bool) (d a b : Nat)
  /-- VBCAST.t (R187), stream V. -/
  | vbcast (ty : VTy) (wb : Bool) (d a n : Nat)
  /-- VROT.t (R187), stream V. -/
  | vrot (ty : VTy) (wb : Bool) (d a n : Nat)
  /-- VZIP.t (R187), stream V. -/
  | vzip (ty : VTy) (wb : Bool) (d a b : Nat)
  /-- VUNZIP.t (R187), stream V. -/
  | vunzip (ty : VTy) (wb : Bool) (d a b : Nat)
  /-- VMOV.F32 (R187), stream V. -/
  | vmov (wb : Bool) (d a : Nat)
  /-- VFMA.F32 (R177), stream V. -/
  | vfmaF32 (wb : Bool) (d a b c : Nat)
  /-- VFMA.BF16 (R177), stream V. -/
  | vfmaBf16 (wb : Bool) (d a b c : Nat)
  /-- VFMA.F16 (R177), stream V. -/
  | vfmaF16 (wb : Bool) (d a b c : Nat)
  /-- VFMS.F32 (R177), stream V. -/
  | vfmsF32 (wb : Bool) (d a b c : Nat)
  /-- VFMS.BF16 (R177), stream V. -/
  | vfmsBf16 (wb : Bool) (d a b c : Nat)
  /-- VFMS.F16 (R177), stream V. -/
  | vfmsF16 (wb : Bool) (d a b c : Nat)
  /-- VFNMA.F32 (R177), stream V. -/
  | vfnmaF32 (wb : Bool) (d a b c : Nat)
  /-- VFNMA.BF16 (R177), stream V. -/
  | vfnmaBf16 (wb : Bool) (d a b c : Nat)
  /-- VFNMA.F16 (R177), stream V. -/
  | vfnmaF16 (wb : Bool) (d a b c : Nat)
  /-- VFNMS.F32 (R177), stream V. -/
  | vfnmsF32 (wb : Bool) (d a b c : Nat)
  /-- VFNMS.BF16 (R177), stream V. -/
  | vfnmsBf16 (wb : Bool) (d a b c : Nat)
  /-- VFNMS.F16 (R177), stream V. -/
  | vfnmsF16 (wb : Bool) (d a b c : Nat)
  /-- VSACC (R181), stream V. -/
  | vsacc (wb : Bool) (d a b c : Nat)
  /-- VSEL (R185), stream V. -/
  | vsel (wb : Bool) (d p a b : Nat)
  /-- VCMP.EQ.t (R184), stream V. -/
  | vcmpEq (ty : VTy) (p a b : Nat)
  /-- VCMP.NE.t (R184), stream V. -/
  | vcmpNe (ty : VTy) (p a b : Nat)
  /-- VCMP.LT.t (R184), stream V. -/
  | vcmpLt (ty : VTy) (p a b : Nat)
  /-- VCMP.LE.t (R184), stream V. -/
  | vcmpLe (ty : VTy) (p a b : Nat)
  /-- VCMP.GT.t (R184), stream V. -/
  | vcmpGt (ty : VTy) (p a b : Nat)
  /-- VCMP.GE.t (R184), stream V. -/
  | vcmpGe (ty : VTy) (p a b : Nat)
  /-- VCMP.UN.t (R184), stream V. -/
  | vcmpUn (ty : VTy) (p a b : Nat)
  /-- VCMP.OR.t (R184), stream V. -/
  | vcmpOr (ty : VTy) (p a b : Nat)
  /-- VCMP.LTU.I32 (R184), stream V. -/
  | vcmpLtu (p a b : Nat)
  /-- VCMP.LEU.I32 (R184), stream V. -/
  | vcmpLeu (p a b : Nat)
  /-- VCMP.GTU.I32 (R184), stream V. -/
  | vcmpGtu (p a b : Nat)
  /-- VCMP.GEU.I32 (R184), stream V. -/
  | vcmpGeu (p a b : Nat)
  /-- VCVT.BF16.F32 (R182), stream V. -/
  | vcvtBf16F32 (rnd : Rnd) (wb : Bool) (d a : Nat)
  /-- VCVT.F16.F32 (R182), stream V. -/
  | vcvtF16F32 (rnd : Rnd) (wb : Bool) (d a : Nat)
  /-- VCVT.F32.BF16 (R182), stream V. -/
  | vcvtF32Bf16 (rnd : Rnd) (wb : Bool) (d a : Nat)
  /-- VCVT.F32.F16 (R182), stream V. -/
  | vcvtF32F16 (rnd : Rnd) (wb : Bool) (d a : Nat)
  /-- VCVT.I32.F32 (R182), stream V. -/
  | vcvtI32F32 (rnd : Rnd) (wb : Bool) (d a : Nat)
  /-- VCVT.F32.I32 (R182), stream V. -/
  | vcvtF32I32 (rnd : Rnd) (wb : Bool) (d a : Nat)
  /-- VCVT.BF16.F16 (R182), stream V. -/
  | vcvtBf16F16 (rnd : Rnd) (wb : Bool) (d a : Nat)
  /-- VCVT.F16.BF16 (R182), stream V. -/
  | vcvtF16Bf16 (rnd : Rnd) (wb : Bool) (d a : Nat)
  /-- VLIM (R183), stream V. -/
  | vlim (wb : Bool) (d : Nat) (kind : Kind) (imm : BitVec 16)
  /-- VUNPK4.I32 (R188), stream V. -/
  | vunpk4 (wb : Bool) (d a b : Nat)
  /-- VUNPK8.I32 (R188), stream V. -/
  | vunpk8 (wb : Bool) (d a b : Nat)
  /-- VZPS.I32 (R188), stream V. -/
  | vzps (wb : Bool) (d a b : Nat)
  /-- VGBC (R188), stream V. -/
  | vgbc (ty : Nat) (wb : Bool) (d a b : Nat)
  /-- VLD (R189), stream V. -/
  | vld (wb : Bool) (d g step cls : Nat) (tk : Tok)
  /-- VLDH (R189), stream V. -/
  | vldh (wb : Bool) (d g step cls : Nat) (tk : Tok)
  /-- VST (R189), stream V. -/
  | vst (p v g step cls : Nat) (tk : Tok)
  /-- VSTH (R189), stream V. -/
  | vsth (p v g step cls : Nat) (tk : Tok)
  /-- VGATH (R192), stream V. -/
  | vgath (d g vi cls : Nat) (tk : Tok)
  /-- VSCAT (R192), stream V. -/
  | vscat (d g vi cls : Nat) (tk : Tok)
  /-- VRECV (R193), stream V. -/
  | vrecv (wb : Bool) (d q : Nat) (tk : Tok)
  /-- VPASS (R194), stream V. -/
  | vpass (wb : Bool) (d a : Nat) (tk : Tok)
  /-- MLNT (R255), stream M. -/
  | mlnt (g cls : Nat) (tk : Tok)
  /-- MCFG (R256), stream M. -/
  | mcfg (fmt : MFmt) (grp : Nat) (q : Bool) (tk : Tok)
  /-- MZP (R257), stream M. -/
  | mzp (g : Nat) (tk : Tok)
  /-- MGO (R258), stream M. -/
  | mgo (a cls : Nat) (tk : Tok)
  /-- MWAIT (R259), stream M. -/
  | mwait (tk : Tok)
  /-- MCLR (R260), stream M. -/
  | mclr (a : Nat) (tk : Tok)
  /-- MEMIT (R261), stream M. -/
  | memit (g a out cls : Nat) (tk : Tok)
  /-- MTEST (R262), stream M. -/
  | mtest (tk : Tok)
  /-- MRD (R263), stream M. -/
  | mrd (wb : Bool) (d a row half : Nat) (tk : Tok)
  /-- LDC (R270), stream L. -/
  | ldc (g k nr cls : Nat) (tk : Tok)
  /-- LDT (R270), stream L. -/
  | ldt (g k nr cls : Nat) (tk : Tok)
  /-- LFILL (R273), stream L. -/
  | lfill (g k cls : Nat) (tk : Tok)
  /-- STC (R270), stream S. -/
  | stc (g k cls : Nat) (tk : Tok)
  /-- STT (R270), stream S. -/
  | stt (g k cls : Nat) (tk : Tok)
  /-- SFILL (R273), stream S. -/
  | sfill (g k cls : Nat) (tk : Tok)
  /-- KWAIT (R280), stream L and S. -/
  | kwait (mask : Nat) (tk : Tok)
  /-- AOPEN (R211), stream A. -/
  | aopen (g : Nat) (op : AOp) (ty : ATy) (cls : Nat) (tk : Tok)
  /-- APUSH (R212), stream A. -/
  | apush (vi vv : Nat) (tk : Tok)
  /-- AFLUSH (R215), stream A. -/
  | aflush (tk : Tok)
  /-- ACLOSE (R215), stream A. -/
  | aclose (tk : Tok)
  /-- FSEND (R310), stream F. -/
  | fsend (a b cls : Nat) (tk : Tok)
  /-- FRECV (R311), stream F. -/
  | frecv (a b cls : Nat) (tk : Tok)
  /-- FBIND (R312), stream F. -/
  | fbind (a b : Nat) (tk : Tok)
  /-- FUNBIND (R312), stream F. -/
  | funbind (tk : Tok)
  /-- FLOW.DEF (R313), stream F. -/
  | flowDef (a cls : Nat) (tk : Tok)
  /-- FLOW.DEL (R314), stream F. -/
  | flowDel (a : Nat) (tk : Tok)
  /-- FLOW.STAT (R315), stream F. -/
  | flowStat (a b cls : Nat) (tk : Tok)
  /-- COLL.LOAD (R397), stream F. -/
  | collLoad (a b cls : Nat) (tk : Tok)
  /-- COLL.RUN (R398), stream F. -/
  | collRun (a b cls : Nat) (tk : Tok)
  /-- COLL.WAIT (R399), stream F. -/
  | collWait (a b cls : Nat) (tk : Tok)
  /-- COLL.ABORT (R400), stream F. -/
  | collAbort (b : Nat) (tk : Tok)
  /-- NOP (R143), stream C. -/
  | nop
  /-- YIELD (R144), stream C. -/
  | yield
  /-- RETIRE (R145), stream C. -/
  | retire
  /-- EBRK (R146), stream C. -/
  | ebrk
  /-- VNOP (R81), stream V. -/
  | vnop
  /-- MNOP (R81), stream M. -/
  | mnop
  /-- LNOP (R81), stream L. -/
  | lnop
  /-- SNOP (R81), stream S. -/
  | snop
  /-- ANOP (R81), stream A. -/
  | anop
  /-- FNOP (R81), stream F. -/
  | fnop
  /-- Event BLOCK_CALL (R109). -/
  | blockCall
  /-- Event RESULT_LANDING (R173). -/
  | resultLanding
  /-- Event TOKEN_RELEASE (R105). -/
  | tokenRelease
  /-- Event STALL_WATCHDOG (R112). -/
  | stallWatchdog
  /-- Event PHASE_COMPLETION (R114). -/
  | phaseCompletion
  /-- Event FAR_REQUEST (R322). -/
  | farRequest
  /-- Event FAR_REPLY (R319). -/
  | farReply
  /-- Event FREEZE (R419). -/
  | freeze
  /-- Event NEST_STEP (R243). -/
  | nestStep
  /-- Event SELF_TEST (R251). -/
  | selfTest
  /-- Event RELAYOUT_BLOCK (R223). -/
  | relayoutBlock
  /-- Event TRANSFER_SLOT (R274). -/
  | transferSlot
  /-- Event COPY_COMPLETION (R274). -/
  | copyCompletion
  /-- Event PACKET_LOOKUP (R295). -/
  | packetLookup
  /-- Event DELIVERY (R289). -/
  | delivery
  /-- Event TRANSLATION_COMPLETION (R355). -/
  | translationCompletion
  /-- Event ATS_INVALIDATION (R364). -/
  | atsInvalidation
  /-- Event INVALIDATION_COMPLETION (R366). -/
  | invalidationCompletion
  /-- Event BATCH_TIMER (R359). -/
  | batchTimer
  /-- Event PRG_RESPONSE (R360). -/
  | prgResponse
  /-- Event MIGRATION_COMMAND (R367). -/
  | migrationCommand
  /-- Event MIGACK (R367). -/
  | migack
  /-- Event FRAMEPUSH (R379). -/
  | framepush
  /-- Event PPATWR (R371). -/
  | ppatwr
  /-- Event REGISTER_WRITE (R379). -/
  | registerWrite
  /-- Event BEAT (R383). -/
  | beat
  /-- Event CHUNK (R388). -/
  | chunk
  /-- Event RING_LIMIT (R386). -/
  | ringLimit
  /-- Event OP_START (R393). -/
  | opStart
  /-- Event OP_COMPLETION (R393). -/
  | opCompletion
  /-- Event DONE (R401). -/
  | done
  /-- Event ABORT_NOTICE (R400). -/
  | abortNotice
  /-- Event ABSENT (R404). -/
  | absent
  /-- Event PRESENT (R404). -/
  | present
  /-- Event COLLECTIVE_TIMEOUT (R402). -/
  | collectiveTimeout
  /-- Event ARRIVE (R407). -/
  | arrive
  /-- Event LAUNCH_TIMEOUT (R407). -/
  | launchTimeout
  /-- Event FAIL (R407). -/
  | fail
  /-- Event REPLICATE (R408). -/
  | replicate
  /-- Event KEEP_ALIVE (R409). -/
  | keepAlive
  /-- Event MEMBER_LOST (R409). -/
  | memberLost
  /-- Event SYNC (R410). -/
  | sync
  /-- Event PDELAY_REQ (R410). -/
  | pdelayReq
  /-- Event NEW_KEY_PAIR (R503). -/
  | newKeyPair
  /-- Event PREEMPT (R477). -/
  | preempt
  /-- Event CONTEXT_SAVE (R440). -/
  | contextSave
  /-- Event RESTORE (R444). -/
  | restore
  /-- Event SAVEPUSH (R441). -/
  | savepush
  /-- Event DRAIN_END (R479). -/
  | drainEnd
  /-- Event QTAIL (R467). -/
  | qtail
  /-- Event QCTL (R469). -/
  | qctl
  /-- Event LAUNCH (R470). -/
  | launch
  /-- Event QUEUE_FENCE (R467). -/
  | queueFence
  /-- Event WAIT (R467). -/
  | wait
  /-- Event LAUNCH_COMPLETION (R468). -/
  | launchCompletion
  /-- Event PLACEMENT (R475). -/
  | placement
  /-- Event SENSOR_READING (R472). -/
  | sensorReading
  /-- Event DEBUG_STOP (R490). -/
  | debugStop
  /-- Event TWORD_READ (R487). -/
  | twordRead
  /-- Event DBGATT (R490). -/
  | dbgatt
  /-- Event DBGSTOP (R490). -/
  | dbgstop
  /-- Event DBGRES (R492). -/
  | dbgres
  /-- Event DBGDATA_READ (R492). -/
  | dbgdataRead
  /-- Event DBGDATA_WRITE (R492). -/
  | dbgdataWrite
  /-- Event MODULE_RESET (R497). -/
  | moduleReset
  /-- Event GET_VERSION (R500). -/
  | getVersion
  /-- Event GET_CAPABILITIES (R500). -/
  | getCapabilities
  /-- Event NEGOTIATE_ALGORITHMS (R500). -/
  | negotiateAlgorithms
  /-- Event GET_DIGESTS (R500). -/
  | getDigests
  /-- Event GET_CERTIFICATE (R500). -/
  | getCertificate
  /-- Event CHALLENGE (R500). -/
  | challenge
  /-- Event GET_MEASUREMENTS (R500). -/
  | getMeasurements
  /-- Event KEY_EXCHANGE (R500). -/
  | keyExchange
  /-- Event LOCK_INTERFACE (R501). -/
  | lockInterface
  /-- Event START_INTERFACE (R501). -/
  | startInterface
  /-- Event STOP_INTERFACE (R501). -/
  | stopInterface
  /-- Event PARTITION_CREATE (R464). -/
  | partitionCreate
  /-- Event PARTITION_DESTROY (R464). -/
  | partitionDestroy
  /-- Event TILE_CHECK (R505). -/
  | tileCheck
  /-- Event TEMPERATURE_LIMIT (R507). -/
  | temperatureLimit
  /-- Event IMAGE_LOAD (R59). -/
  | imageLoad
  /-- Event IMAGE_UNLOAD (R59). -/
  | imageUnload
  /-- Event ROW_RESPONSE (R274). -/
  | rowResponse
  /-- Event HOST_WINDOW_ACCESS (R356). -/
  | hostWindowAccess
  /-- Event FLQHEAD (R361). -/
  | flqhead
  /-- Event RECHEAD (R493). -/
  | rechead
  /-- Event PAGE_REQUEST_ENABLE (R360). -/
  | pageRequestEnable
  /-- Event PORT_LOST (R382). -/
  | portLost
  /-- Event TRAINING_COMPLETE (R380). -/
  | trainingComplete
  /-- Event KEEP_ALIVE_INTERVAL (R409). -/
  | keepAliveInterval
  /-- Event PTP_INTERVAL (R410). -/
  | ptpInterval
  /-- Event PDELAY_RESP (R410). -/
  | pdelayResp
  deriving DecidableEq, Repr

end Sys2Proof
end

