-- ==== Sys2Proof/WellFormed.lean ====
section
/-!
DEFINITION. Which words are well formed: the limits the encoding chapter puts on registers, selectors, counts, uses
and combinations (03 R70-R87, 05 R121, 12 R318). Decode answers well-formed words only.
-/
namespace Sys2Proof

/-- The number of set bits among the low `n` bits of a number. -/
def popCount : Nat → Nat → Nat
  | 0, _ => 0
  | n + 1, x => x % 2 + popCount n (x / 2)

/-- The system registers that some chapter allots (05 R121, R122; 08 R207, R216, R217; 10 R265, R266; 12 R284, R286,
R323, R324; 16 R378; 17 R406, R411; 19 R448; 21 R460; 23 R478; 24 R485, R487, R491, R495). -/
def allotted (n : Nat) : Bool :=
  [0x000, 0x001, 0x002, 0x004, 0x005, 0x006, 0x007, 0x008, 0x010, 0x011, 0x012, 0x018, 0x040, 0x041, 0x042, 0x043,
   0x080, 0x081, 0x0C0, 0x0C1, 0x0C2, 0x0C3, 0x0C4, 0x0C5, 0x0E0, 0x0E1, 0x0E2, 0x100, 0x101, 0x102, 0x103, 0x104,
   0x140, 0x180, 0x1C0, 0x1C1, 0x1C2, 0x1C3, 0x1C4, 0x1C5, 0x200, 0x201, 0x202, 0x203, 0x204, 0x205, 0x206, 0x207,
   0x208, 0x209, 0x20A, 0x20B, 0x20C, 0x20D, 0x20E, 0x20F, 0x210, 0x211, 0x212, 0x213, 0x218, 0x219, 0x21A, 0x21B,
   0x220].contains n

/-- A scope field of a far access is one of the seven scopes (03 R77, R78). -/
def scopeOk (s : Scope) : Bool := s != .bad

/-- The orderings and uses FLD accepts (03 R78). -/
def fldOrder : Order → Bool
  | .rlx u => u == .unpaired || u == .nonordering || u == .speculative
  | .acq s => scopeOk s
  | .rel _ => false
  | .acqrel _ => false

/-- The orderings and uses FST accepts (03 R78). -/
def fstOrder : Order → Bool
  | .rlx u => u == .unpaired || u == .nonordering
  | .acq _ => false
  | .rel s => scopeOk s
  | .acqrel _ => false

/-- The orderings and uses FAMO accepts for an operation, with the failure order that the low bit of the register
field gives cas (03 R77, R78). -/
def famoOrder (op : FOp) (o : Order) (d : Nat) : Bool :=
  match o with
  | .rlx u =>
    (u == .unpaired || u == .nonordering || (u == .commutative && op != .swap && op != .cas) ||
      (u == .quantum && op == .add)) && !(op == .cas && d % 2 == 1)
  | .acq s => scopeOk s
  | .rel s => scopeOk s
  | .acqrel s => scopeOk s

/-- The pairs of operation and element type a window accepts (03 R79, 08 R210). -/
def aoPair (op : AOp) (ty : ATy) : Bool := ty != .bad && !(op == .bor && ty != .i32)

/-- A token field that a word of a stream may carry (03 R73). -/
def tokOk (st : Stream) (t : Tok) : Bool :=
  decide (t.chan < 7) && !(t.chan == st.code && (t.push || t.pop)) && !(!t.push && !t.pop && t.chan != 0)

/-- Whether a word is well formed in a stream: it is a word of that stream, every register number, count and
selector is within its field and its limits, and the combination is one that the stream's map accepts (03 R70-R87).
No event is a word of a stream. -/
def wellFormed (st : Stream) : Instr → Bool
  | .br p t => st == .C && decide (t < 4) && decide (p < 48)
  | .call p t => st == .C && decide (t < 4) && decide (p < 48)
  | .addiCompact g _ => st == .C && decide (g < 64)
  | .nop => st == .C
  | .yield => st == .C
  | .retire => st == .C
  | .ebrk => st == .C
  | .trig n => st == .C && decide (n < 16)
  | .join mask => st == .C && decide (mask < 64) && decide (0 < mask)
  | .bar n => st == .C && decide (n < 8)
  | .bara n => st == .C && decide (n < 8)
  | .barw n => st == .C && decide (n < 8)
  | .give s => st == .C && decide (0 < s) && decide (s < 7)
  | .take s => st == .C && decide (0 < s) && decide (s < 7)
  | .add d a b => st == .C && decide (d < 64) && decide (a < 64) && decide (b < 64)
  | .sub d a b => st == .C && decide (d < 64) && decide (a < 64) && decide (b < 64)
  | .mul d a b => st == .C && decide (d < 64) && decide (a < 64) && decide (b < 64)
  | .mulh d a b => st == .C && decide (d < 64) && decide (a < 64) && decide (b < 64)
  | .mulhu d a b => st == .C && decide (d < 64) && decide (a < 64) && decide (b < 64)
  | .div d a b => st == .C && decide (d < 64) && decide (a < 64) && decide (b < 64)
  | .divu d a b => st == .C && decide (d < 64) && decide (a < 64) && decide (b < 64)
  | .rem d a b => st == .C && decide (d < 64) && decide (a < 64) && decide (b < 64)
  | .remu d a b => st == .C && decide (d < 64) && decide (a < 64) && decide (b < 64)
  | .and d a b => st == .C && decide (d < 64) && decide (a < 64) && decide (b < 64)
  | .or d a b => st == .C && decide (d < 64) && decide (a < 64) && decide (b < 64)
  | .xor d a b => st == .C && decide (d < 64) && decide (a < 64) && decide (b < 64)
  | .andn d a b => st == .C && decide (d < 64) && decide (a < 64) && decide (b < 64)
  | .shl d a b => st == .C && decide (d < 64) && decide (a < 64) && decide (b < 64)
  | .shr d a b => st == .C && decide (d < 64) && decide (a < 64) && decide (b < 64)
  | .sar d a b => st == .C && decide (d < 64) && decide (a < 64) && decide (b < 64)
  | .min d a b => st == .C && decide (d < 64) && decide (a < 64) && decide (b < 64)
  | .max d a b => st == .C && decide (d < 64) && decide (a < 64) && decide (b < 64)
  | .minu d a b => st == .C && decide (d < 64) && decide (a < 64) && decide (b < 64)
  | .maxu d a b => st == .C && decide (d < 64) && decide (a < 64) && decide (b < 64)
  | .rol d a b => st == .C && decide (d < 64) && decide (a < 64) && decide (b < 64)
  | .ror d a b => st == .C && decide (d < 64) && decide (a < 64) && decide (b < 64)
  | .clz d a => st == .C && decide (d < 64) && decide (a < 64)
  | .popc d a => st == .C && decide (d < 64) && decide (a < 64)
  | .sextw d a => st == .C && decide (d < 64) && decide (a < 64)
  | .zextw d a => st == .C && decide (d < 64) && decide (a < 64)
  | .cmpEq p a b => st == .C && decide (a < 64) && decide (b < 64) && decide (p < 48)
  | .cmpNe p a b => st == .C && decide (a < 64) && decide (b < 64) && decide (p < 48)
  | .cmpLt p a b => st == .C && decide (a < 64) && decide (b < 64) && decide (p < 48)
  | .cmpLe p a b => st == .C && decide (a < 64) && decide (b < 64) && decide (p < 48)
  | .cmpLtu p a b => st == .C && decide (a < 64) && decide (b < 64) && decide (p < 48)
  | .cmpLeu p a b => st == .C && decide (a < 64) && decide (b < 64) && decide (p < 48)
  | .pand d a b => st == .C && decide (d < 48) && decide (a < 48) && decide (b < 48)
  | .por d a b => st == .C && decide (d < 48) && decide (a < 48) && decide (b < 48)
  | .pxor d a b => st == .C && decide (d < 48) && decide (a < 48) && decide (b < 48)
  | .pandn d a b => st == .C && decide (d < 48) && decide (a < 48) && decide (b < 48)
  | .pnot d a => st == .C && decide (d < 48) && decide (a < 48)
  | .tagLook d a => st == .C && decide (d < 64) && decide (a < 64)
  | .tagSet d a b => st == .C && decide (d < 64) && decide (a < 64) && decide (b < 64)
  | .tagClr d a => st == .C && decide (d < 64) && decide (a < 64)
  | .tagClrAll d => st == .C && decide (d < 64)
  | .hndDef d a b => st == .C && decide (d < 64) && decide (a < 64) && decide (b < 64)
  | .hndRelay d a b => st == .C && decide (d < 64) && decide (a < 64) && decide (b < 64)
  | .hndQry d a item => st == .C && decide (d < 64) && decide (a < 64) && decide (item < 4)
  | .hndDrop d a => st == .C && decide (d < 64) && decide (a < 64)
  | .pageReq d a b => st == .C && decide (d < 64) && decide (a < 64) && decide (b < 64)
  | .migrate d a b => st == .C && decide (d < 64) && decide (a < 64) && decide (b < 64)
  | .monArm d a b => st == .C && decide (d < 64) && decide (a < 64) && decide (b < 64)
  | .monRef d a b => st == .C && decide (d < 64) && decide (a < 64) && decide (b < 64)
  | .monRd d b => st == .C && decide (d < 64) && decide (b < 64)
  | .monOff d b => st == .C && decide (d < 64) && decide (b < 64)
  | .nodePost d a b => st == .C && decide (d < 64) && decide (a < 64) && decide (b < 64)
  | .nodeDone d a => st == .C && decide (d < 64) && decide (a < 64)
  | .frzRd d h b => st == .C && decide (d < 64) && decide (b < 64) && decide (h < 4)
  | .frzWr d h b => st == .C && decide (d < 64) && decide (b < 64) && decide (h < 4)
  | .frzRes d h => st == .C && decide (d < 64) && decide (h < 4)
  | .frzKill d h => st == .C && decide (d < 64) && decide (h < 4)
  | .frzArr d h b => st == .C && decide (d < 64) && decide (b < 64) && decide (h < 4)
  | .frzEsc d h => st == .C && decide (d < 64) && decide (h < 4)
  | .sel d p a b => st == .C && decide (d < 64) && decide (a < 64) && decide (b < 64) && decide (p < 48)
  | .addi d a _ => st == .C && decide (d < 64) && decide (a < 64)
  | .andi d a _ => st == .C && decide (d < 64) && decide (a < 64)
  | .ori d a _ => st == .C && decide (d < 64) && decide (a < 64)
  | .xori d a _ => st == .C && decide (d < 64) && decide (a < 64)
  | .shli d a n => st == .C && decide (d < 64) && decide (a < 64) && decide (n < 64)
  | .shri d a n => st == .C && decide (d < 64) && decide (a < 64) && decide (n < 64)
  | .sari d a n => st == .C && decide (d < 64) && decide (a < 64) && decide (n < 64)
  | .muli d a _ => st == .C && decide (d < 64) && decide (a < 64)
  | .lui d _ => st == .C && decide (d < 64)
  | .cmpiEq p a _ => st == .C && decide (a < 64) && decide (p < 48)
  | .cmpiNe p a _ => st == .C && decide (a < 64) && decide (p < 48)
  | .cmpiLt p a _ => st == .C && decide (a < 64) && decide (p < 48)
  | .cmpiLe p a _ => st == .C && decide (a < 64) && decide (p < 48)
  | .cmpiLtu p a _ => st == .C && decide (a < 64) && decide (p < 48)
  | .cmpiLeu p a _ => st == .C && decide (a < 64) && decide (p < 48)
  | .addpc d _ => st == .C && decide (d < 64)
  | .pbr t _ => st == .C && decide (t < 4)
  | .pbrr t a _ => st == .C && decide (t < 4) && decide (a < 64)
  | .ldB d a cls _ => st == .C && decide (d < 64) && decide (a < 64) && decide (cls < 16)
  | .ldH d a cls _ => st == .C && decide (d < 64) && decide (a < 64) && decide (cls < 16)
  | .ldW d a cls _ => st == .C && decide (d < 64) && decide (a < 64) && decide (cls < 16)
  | .ldD d a cls _ => st == .C && decide (d < 64) && decide (a < 64) && decide (cls < 16)
  | .lduB d a cls _ => st == .C && decide (d < 64) && decide (a < 64) && decide (cls < 16)
  | .lduH d a cls _ => st == .C && decide (d < 64) && decide (a < 64) && decide (cls < 16)
  | .lduW d a cls _ => st == .C && decide (d < 64) && decide (a < 64) && decide (cls < 16)
  | .stB d a cls _ => st == .C && decide (d < 64) && decide (a < 64) && decide (cls < 16)
  | .stH d a cls _ => st == .C && decide (d < 64) && decide (a < 64) && decide (cls < 16)
  | .stW d a cls _ => st == .C && decide (d < 64) && decide (a < 64) && decide (cls < 16)
  | .stD d a cls _ => st == .C && decide (d < 64) && decide (a < 64) && decide (cls < 16)
  | .fldW d a cls ord nr => st == .C && decide (d < 64) && decide (a < 64) && decide (cls < 16) && decide (nr < 8) && fldOrder ord
  | .fldD d a cls ord nr => st == .C && decide (d < 64) && decide (a < 64) && decide (cls < 16) && decide (nr < 8) && fldOrder ord
  | .fstW d a cls ord => st == .C && decide (d < 64) && decide (a < 64) && decide (cls < 16) && fstOrder ord
  | .fstD d a cls ord => st == .C && decide (d < 64) && decide (a < 64) && decide (cls < 16) && fstOrder ord
  | .famoW d a cls ord op => st == .C && decide (d < 64) && decide (a < 64) && decide (cls < 16) && famoOrder op ord d
  | .famoD d a cls ord op => st == .C && decide (d < 64) && decide (a < 64) && decide (cls < 16) && famoOrder op ord d
  | .fenceC mask => st == .C && decide (mask < 65536) && decide (0 < mask)
  | .fenceS s => st == .C && (s != .bad)
  | .enq s off _ => st == .C && decide (off < 262144) && decide (0 < s) && decide (s < 7)
  | .fork a mask => st == .C && decide (a < 64) && decide (mask < 64) && decide (0 < mask) && decide (a + popCount 6 mask ≤ 64)
  | .srr d n => st == .C && decide (d < 64) && decide (n < 4096) && allotted n
  | .srw n a => st == .C && decide (n < 4096) && decide (a < 64) && allotted n
  | .trap code => st == .C && decide (code < 4096)
  | .vnop => st == .V
  | .vadd ty _ d a b => st == .V && decide (d < 32) && decide (a < 48) && decide (b < 48) && (ty != .i32)
  | .vsub ty _ d a b => st == .V && decide (d < 32) && decide (a < 48) && decide (b < 48) && (ty != .i32)
  | .vmul ty _ d a b => st == .V && decide (d < 32) && decide (a < 48) && decide (b < 48) && (ty != .i32)
  | .vmin ty _ d a b => st == .V && decide (d < 32) && decide (a < 48) && decide (b < 48) && (ty != .i32)
  | .vmax ty _ d a b => st == .V && decide (d < 32) && decide (a < 48) && decide (b < 48) && (ty != .i32)
  | .vabs ty _ d a => st == .V && decide (d < 32) && decide (a < 48) && (ty != .i32)
  | .vneg ty _ d a => st == .V && decide (d < 32) && decide (a < 48) && (ty != .i32)
  | .vcpsgn ty _ d a b => st == .V && decide (d < 32) && decide (a < 48) && decide (b < 48) && (ty != .i32)
  | .vrint ty _ d a => st == .V && decide (d < 32) && decide (a < 48) && (ty != .i32)
  | .vdiv ty _ d a b => st == .V && decide (d < 32) && decide (a < 48) && decide (b < 48) && (ty != .i32)
  | .vsqrt ty _ d a => st == .V && decide (d < 32) && decide (a < 48) && (ty != .i32)
  | .vrcp ty _ d a => st == .V && decide (d < 32) && decide (a < 48) && (ty != .i32)
  | .vrsq ty _ d a => st == .V && decide (d < 32) && decide (a < 48) && (ty != .i32)
  | .vexp2 ty _ d a => st == .V && decide (d < 32) && decide (a < 48) && (ty != .i32)
  | .vlog2 ty _ d a => st == .V && decide (d < 32) && decide (a < 48) && (ty != .i32)
  | .vtanh ty _ d a => st == .V && decide (d < 32) && decide (a < 48) && (ty != .i32)
  | .vaddI32 _ d a b => st == .V && decide (d < 32) && decide (a < 48) && decide (b < 48)
  | .vsubI32 _ d a b => st == .V && decide (d < 32) && decide (a < 48) && decide (b < 48)
  | .vmulI32 _ d a b => st == .V && decide (d < 32) && decide (a < 48) && decide (b < 48)
  | .vminI32 _ d a b => st == .V && decide (d < 32) && decide (a < 48) && decide (b < 48)
  | .vmaxI32 _ d a b => st == .V && decide (d < 32) && decide (a < 48) && decide (b < 48)
  | .vabsI32 _ d a => st == .V && decide (d < 32) && decide (a < 48)
  | .vnegI32 _ d a => st == .V && decide (d < 32) && decide (a < 48)
  | .vmulh _ d a b => st == .V && decide (d < 32) && decide (a < 48) && decide (b < 48)
  | .vand _ d a b => st == .V && decide (d < 32) && decide (a < 48) && decide (b < 48)
  | .vor _ d a b => st == .V && decide (d < 32) && decide (a < 48) && decide (b < 48)
  | .vxor _ d a b => st == .V && decide (d < 32) && decide (a < 48) && decide (b < 48)
  | .vandn _ d a b => st == .V && decide (d < 32) && decide (a < 48) && decide (b < 48)
  | .vshl _ d a b => st == .V && decide (d < 32) && decide (a < 48) && decide (b < 48)
  | .vshr _ d a b => st == .V && decide (d < 32) && decide (a < 48) && decide (b < 48)
  | .vsar _ d a b => st == .V && decide (d < 32) && decide (a < 48) && decide (b < 48)
  | .vminu _ d a b => st == .V && decide (d < 32) && decide (a < 48) && decide (b < 48)
  | .vmaxu _ d a b => st == .V && decide (d < 32) && decide (a < 48) && decide (b < 48)
  | .vadds _ d a b => st == .V && decide (d < 32) && decide (a < 48) && decide (b < 48)
  | .vsubs _ d a b => st == .V && decide (d < 32) && decide (a < 48) && decide (b < 48)
  | .vclz _ d a => st == .V && decide (d < 32) && decide (a < 48)
  | .vpopc _ d a => st == .V && decide (d < 32) && decide (a < 48)
  | .vmulhu _ d a b => st == .V && decide (d < 32) && decide (a < 48) && decide (b < 48)
  | .vrsum _ _ d a b => st == .V && decide (d < 32) && decide (a < 48) && decide (b < 48)
  | .vrmax _ _ d a b => st == .V && decide (d < 32) && decide (a < 48) && decide (b < 48)
  | .vrmin _ _ d a b => st == .V && decide (d < 32) && decide (a < 48) && decide (b < 48)
  | .vscan _ _ d a b => st == .V && decide (d < 32) && decide (a < 48) && decide (b < 48)
  | .vscmx _ _ d a b => st == .V && decide (d < 32) && decide (a < 48) && decide (b < 48)
  | .vperm ty _ d a b => st == .V && decide (d < 32) && decide (a < 48) && decide (b < 48) && (ty == .f32 || ty == .i32)
  | .vbcast ty _ d a n => st == .V && decide (d < 32) && decide (n < 64) && decide (a < 48) && (ty == .f32 || ty == .i32)
  | .vrot ty _ d a n => st == .V && decide (d < 32) && decide (n < 64) && decide (a < 48) && (ty == .f32 || ty == .i32)
  | .vzip ty _ d a b => st == .V && decide (d < 32) && decide (a < 48) && decide (b < 48) && (ty == .f32 || ty == .i32)
  | .vunzip ty _ d a b => st == .V && decide (d < 32) && decide (a < 48) && decide (b < 48) && (ty == .f32 || ty == .i32)
  | .vmov _ d a => st == .V && decide (d < 32) && decide (a < 48)
  | .vfmaF32 _ d a b c => st == .V && decide (d < 32) && decide (a < 48) && decide (b < 48) && decide (c < 48)
  | .vfmaBf16 _ d a b c => st == .V && decide (d < 32) && decide (a < 48) && decide (b < 48) && decide (c < 48)
  | .vfmaF16 _ d a b c => st == .V && decide (d < 32) && decide (a < 48) && decide (b < 48) && decide (c < 48)
  | .vfmsF32 _ d a b c => st == .V && decide (d < 32) && decide (a < 48) && decide (b < 48) && decide (c < 48)
  | .vfmsBf16 _ d a b c => st == .V && decide (d < 32) && decide (a < 48) && decide (b < 48) && decide (c < 48)
  | .vfmsF16 _ d a b c => st == .V && decide (d < 32) && decide (a < 48) && decide (b < 48) && decide (c < 48)
  | .vfnmaF32 _ d a b c => st == .V && decide (d < 32) && decide (a < 48) && decide (b < 48) && decide (c < 48)
  | .vfnmaBf16 _ d a b c => st == .V && decide (d < 32) && decide (a < 48) && decide (b < 48) && decide (c < 48)
  | .vfnmaF16 _ d a b c => st == .V && decide (d < 32) && decide (a < 48) && decide (b < 48) && decide (c < 48)
  | .vfnmsF32 _ d a b c => st == .V && decide (d < 32) && decide (a < 48) && decide (b < 48) && decide (c < 48)
  | .vfnmsBf16 _ d a b c => st == .V && decide (d < 32) && decide (a < 48) && decide (b < 48) && decide (c < 48)
  | .vfnmsF16 _ d a b c => st == .V && decide (d < 32) && decide (a < 48) && decide (b < 48) && decide (c < 48)
  | .vsacc _ d a b c => st == .V && decide (d < 32) && decide (a < 48) && decide (b < 48) && decide (c < 48)
  | .vsel _ d p a b => st == .V && decide (d < 32) && decide (p < 48) && decide (a < 48) && decide (b < 48)
  | .vcmpEq _ p a b => st == .V && decide (p < 48) && decide (a < 48) && decide (b < 48)
  | .vcmpNe _ p a b => st == .V && decide (p < 48) && decide (a < 48) && decide (b < 48)
  | .vcmpLt _ p a b => st == .V && decide (p < 48) && decide (a < 48) && decide (b < 48)
  | .vcmpLe _ p a b => st == .V && decide (p < 48) && decide (a < 48) && decide (b < 48)
  | .vcmpGt _ p a b => st == .V && decide (p < 48) && decide (a < 48) && decide (b < 48)
  | .vcmpGe _ p a b => st == .V && decide (p < 48) && decide (a < 48) && decide (b < 48)
  | .vcmpUn ty p a b => st == .V && decide (p < 48) && decide (a < 48) && decide (b < 48) && (ty != .i32)
  | .vcmpOr ty p a b => st == .V && decide (p < 48) && decide (a < 48) && decide (b < 48) && (ty != .i32)
  | .vcmpLtu p a b => st == .V && decide (p < 48) && decide (a < 48) && decide (b < 48)
  | .vcmpLeu p a b => st == .V && decide (p < 48) && decide (a < 48) && decide (b < 48)
  | .vcmpGtu p a b => st == .V && decide (p < 48) && decide (a < 48) && decide (b < 48)
  | .vcmpGeu p a b => st == .V && decide (p < 48) && decide (a < 48) && decide (b < 48)
  | .vcvtBf16F32 _ _ d a => st == .V && decide (d < 32) && decide (a < 48)
  | .vcvtF16F32 _ _ d a => st == .V && decide (d < 32) && decide (a < 48)
  | .vcvtF32Bf16 _ _ d a => st == .V && decide (d < 32) && decide (a < 48)
  | .vcvtF32F16 _ _ d a => st == .V && decide (d < 32) && decide (a < 48)
  | .vcvtI32F32 _ _ d a => st == .V && decide (d < 32) && decide (a < 48)
  | .vcvtF32I32 _ _ d a => st == .V && decide (d < 32) && decide (a < 48)
  | .vcvtBf16F16 _ _ d a => st == .V && decide (d < 32) && decide (a < 48)
  | .vcvtF16Bf16 _ _ d a => st == .V && decide (d < 32) && decide (a < 48)
  | .vlim _ d _ _ => st == .V && decide (d < 32)
  | .vunpk4 _ d a b => st == .V && decide (d < 32) && decide (a < 48) && decide (b < 48)
  | .vunpk8 _ d a b => st == .V && decide (d < 32) && decide (a < 48) && decide (b < 48)
  | .vzps _ d a b => st == .V && decide (d < 32) && decide (a < 48) && decide (b < 48)
  | .vgbc ty _ d a b => st == .V && decide (d < 32) && decide (a < 48) && decide (b < 48) && decide (ty < 3)
  | .vld _ d g step cls tk => st == .V && decide (d < 32) && decide (g < 32) && decide (step < 4) && decide (cls < 16) && tokOk st tk
  | .vldh _ d g step cls tk => st == .V && decide (d < 32) && decide (g < 32) && decide (step < 4) && decide (cls < 16) && tokOk st tk
  | .vst p v g step cls tk => st == .V && decide (p < 8) && decide (v < 32) && decide (g < 32) && decide (step < 4) && decide (cls < 16) && tokOk st tk
  | .vsth p v g step cls tk => st == .V && decide (p < 8) && decide (v < 32) && decide (g < 32) && decide (step < 4) && decide (cls < 16) && tokOk st tk
  | .vgath d g vi cls tk => st == .V && decide (d < 32) && decide (g < 32) && decide (vi < 32) && decide (cls < 16) && tokOk st tk
  | .vscat d g vi cls tk => st == .V && decide (d < 32) && decide (g < 32) && decide (vi < 32) && decide (cls < 16) && tokOk st tk
  | .vrecv _ d q tk => st == .V && decide (d < 32) && decide (q < 8) && tokOk st tk
  | .vpass _ d a tk => st == .V && decide (d < 32) && decide (a < 48) && tokOk st tk
  | .mnop => st == .M
  | .mlnt g cls tk => st == .M && decide (g < 64) && decide (cls < 16) && tokOk st tk
  | .mcfg _ grp _ tk => st == .M && decide (grp < 4) && tokOk st tk
  | .mzp g tk => st == .M && decide (g < 64) && tokOk st tk
  | .mgo a cls tk => st == .M && decide (a < 4) && decide (cls < 16) && tokOk st tk
  | .mwait tk => st == .M && tokOk st tk
  | .mclr a tk => st == .M && decide (a < 4) && tokOk st tk
  | .memit g a out cls tk => st == .M && decide (g < 64) && decide (a < 4) && decide (cls < 16) && decide (out < 3) && tokOk st tk
  | .mtest tk => st == .M && tokOk st tk
  | .mrd _ d a row half tk => st == .M && decide (d < 32) && decide (a < 4) && decide (row < 64) && decide (half < 2) && tokOk st tk
  | .lnop => st == .L
  | .snop => st == .S
  | .ldc g k nr cls tk => st == .L && decide (g < 64) && decide (k < 8) && decide (nr < 8) && decide (cls < 16) && tokOk st tk
  | .ldt g k nr cls tk => st == .L && decide (g < 64) && decide (k < 8) && decide (nr < 8) && decide (cls < 16) && tokOk st tk
  | .lfill g k cls tk => st == .L && decide (g < 64) && decide (k < 8) && decide (cls < 16) && tokOk st tk
  | .stc g k cls tk => st == .S && decide (g < 64) && decide (k < 8) && decide (cls < 16) && tokOk st tk
  | .stt g k cls tk => st == .S && decide (g < 64) && decide (k < 8) && decide (cls < 16) && tokOk st tk
  | .sfill g k cls tk => st == .S && decide (g < 64) && decide (k < 8) && decide (cls < 16) && tokOk st tk
  | .kwait mask tk => (st == .L || st == .S) && decide (mask < 256) && decide (0 < mask) && tokOk st tk
  | .anop => st == .A
  | .aopen g op ty cls tk => st == .A && decide (g < 64) && decide (cls < 16) && aoPair op ty && tokOk st tk
  | .apush vi vv tk => st == .A && decide (vi < 32) && decide (vv < 32) && tokOk st tk
  | .aflush tk => st == .A && tokOk st tk
  | .aclose tk => st == .A && tokOk st tk
  | .fnop => st == .F
  | .fsend a b cls tk => st == .F && decide (a < 64) && decide (b < 64) && decide (cls < 16) && tokOk st tk
  | .frecv a b cls tk => st == .F && decide (a < 64) && decide (b < 64) && decide (cls < 16) && tokOk st tk
  | .fbind a b tk => st == .F && decide (a < 64) && decide (b < 64) && tokOk st tk
  | .funbind tk => st == .F && tokOk st tk
  | .flowDef a cls tk => st == .F && decide (a < 64) && decide (cls < 16) && tokOk st tk
  | .flowDel a tk => st == .F && decide (a < 64) && tokOk st tk
  | .flowStat a b cls tk => st == .F && decide (a < 64) && decide (b < 64) && decide (cls < 16) && tokOk st tk
  | .collLoad a b cls tk => st == .F && decide (a < 64) && decide (b < 64) && decide (cls < 16) && tokOk st tk
  | .collRun a b cls tk => st == .F && decide (a < 64) && decide (b < 64) && decide (cls < 16) && tokOk st tk
  | .collWait a b cls tk => st == .F && decide (a < 64) && decide (b < 64) && decide (cls < 16) && tokOk st tk
  | .collAbort b tk => st == .F && decide (b < 64) && tokOk st tk
  | .blockCall => false
  | .resultLanding => false
  | .tokenRelease => false
  | .stallWatchdog => false
  | .phaseCompletion => false
  | .farRequest => false
  | .farReply => false
  | .freeze => false
  | .nestStep => false
  | .selfTest => false
  | .relayoutBlock => false
  | .transferSlot => false
  | .copyCompletion => false
  | .packetLookup => false
  | .delivery => false
  | .translationCompletion => false
  | .atsInvalidation => false
  | .invalidationCompletion => false
  | .batchTimer => false
  | .prgResponse => false
  | .migrationCommand => false
  | .migack => false
  | .framepush => false
  | .ppatwr => false
  | .registerWrite => false
  | .beat => false
  | .chunk => false
  | .ringLimit => false
  | .opStart => false
  | .opCompletion => false
  | .done => false
  | .abortNotice => false
  | .absent => false
  | .present => false
  | .collectiveTimeout => false
  | .arrive => false
  | .launchTimeout => false
  | .fail => false
  | .replicate => false
  | .keepAlive => false
  | .memberLost => false
  | .sync => false
  | .pdelayReq => false
  | .newKeyPair => false
  | .preempt => false
  | .contextSave => false
  | .restore => false
  | .savepush => false
  | .drainEnd => false
  | .qtail => false
  | .qctl => false
  | .launch => false
  | .queueFence => false
  | .wait => false
  | .launchCompletion => false
  | .placement => false
  | .sensorReading => false
  | .debugStop => false
  | .twordRead => false
  | .dbgatt => false
  | .dbgstop => false
  | .dbgres => false
  | .dbgdataRead => false
  | .dbgdataWrite => false
  | .moduleReset => false
  | .getVersion => false
  | .getCapabilities => false
  | .negotiateAlgorithms => false
  | .getDigests => false
  | .getCertificate => false
  | .challenge => false
  | .getMeasurements => false
  | .keyExchange => false
  | .lockInterface => false
  | .startInterface => false
  | .stopInterface => false
  | .partitionCreate => false
  | .partitionDestroy => false
  | .tileCheck => false
  | .temperatureLimit => false
  | .imageLoad => false
  | .imageUnload => false
  | .rowResponse => false
  | .hostWindowAccess => false
  | .flqhead => false
  | .rechead => false
  | .pageRequestEnable => false
  | .portLost => false
  | .trainingComplete => false
  | .keepAliveInterval => false
  | .ptpInterval => false
  | .pdelayResp => false

end Sys2Proof
end

