-- ==== Sys2Proof/Decode.lean ====
section
/-!
DEFINITION. The decoder: total on any halfwords, answering a well-formed instruction or the reason of the
illegal-instruction fault, the smallest that applies (03 R60, R81-R90). After it, the encoder, written from the same
encoding tables.
-/
namespace Sys2Proof

/-- Bits `lo` to `lo + n - 1` of a number. -/
def bits (w lo n : Nat) : Nat := w / 2 ^ lo % 2 ^ n

/-- The smallest reason among the checks a word breaks; the checks stand in rising reason (03 R89). -/
def firstBroken : List (Bool × Nat) → Option Nat
  | [] => none
  | (true, r) :: _ => some r
  | (false, _) :: rest => firstBroken rest

/-- An instruction, unless a check is broken (03 R89). -/
def chk (cs : List (Bool × Nat)) (i : Instr) : Except Nat Instr :=
  match firstBroken cs with
  | some r => .error r
  | none => .ok i

/-- The system group: the HF words of C major 2 (03 R82). -/
def decodeSystem (w : Nat) : Except Nat Instr :=
  match bits w 5 5 with
  | 0 => chk [(bits w 10 6 != 0, 2)] .nop
  | 1 => chk [(bits w 10 6 != 0, 2)] .yield
  | 2 => chk [(bits w 10 6 != 0, 2)] .retire
  | 3 => chk [(bits w 10 6 != 0, 2)] .ebrk
  | 4 => chk [(16 ≤ bits w 10 6, 8)] (.trig (bits w 10 6))
  | 5 => chk [(bits w 10 6 == 0, 8)] (.join (bits w 10 6))
  | 6 => chk [(8 ≤ bits w 10 6, 8)] (.bar (bits w 10 6))
  | 7 => chk [(8 ≤ bits w 10 6, 8)] (.bara (bits w 10 6))
  | 8 => chk [(8 ≤ bits w 10 6, 8)] (.barw (bits w 10 6))
  | 9 => chk [(bits w 10 6 == 0 || 7 ≤ bits w 10 6, 8)] (.give (bits w 10 6))
  | 10 => chk [(bits w 10 6 == 0 || 7 ≤ bits w 10 6, 8)] (.take (bits w 10 6))
  | _ => .error 1

/-- The 16-bit words of the C stream (03 R76, R81, R82). -/
def decodeC16 (w : Nat) : Except Nat Instr :=
  match bits w 1 4 with
  | 1 => if bits w 7 1 == 0 then chk [(bits w 5 2 != 0, 2), (48 ≤ bits w 10 6, 3)] (.br (bits w 10 6) (bits w 8 2)) else chk [(bits w 5 2 != 0, 2), (48 ≤ bits w 10 6, 3)] (.call (bits w 10 6) (bits w 8 2))
  | 2 => decodeSystem w
  | 3 => chk [] (.addiCompact (bits w 10 6) (BitVec.ofNat 5 (bits w 5 5)))
  | _ => .error 1

/-- The 16-bit words of an engine stream: its NOP alone (03 R81, R82). -/
def decodeNop (w : Nat) (i : Instr) : Except Nat Instr :=
  if bits w 1 4 == 1 && bits w 5 5 == 0 then chk [(bits w 10 6 != 0, 2)] i else .error 1

/-- C major 0x01: integer arithmetic (03 R84). -/
def decodeArith (w : Nat) : Except Nat Instr :=
  match bits w 8 6 with
  | 0 => chk [] (.add (bits w 14 6) (bits w 20 6) (bits w 26 6))
  | 1 => chk [] (.sub (bits w 14 6) (bits w 20 6) (bits w 26 6))
  | 2 => chk [] (.mul (bits w 14 6) (bits w 20 6) (bits w 26 6))
  | 3 => chk [] (.mulh (bits w 14 6) (bits w 20 6) (bits w 26 6))
  | 4 => chk [] (.mulhu (bits w 14 6) (bits w 20 6) (bits w 26 6))
  | 5 => chk [] (.div (bits w 14 6) (bits w 20 6) (bits w 26 6))
  | 6 => chk [] (.divu (bits w 14 6) (bits w 20 6) (bits w 26 6))
  | 7 => chk [] (.rem (bits w 14 6) (bits w 20 6) (bits w 26 6))
  | 8 => chk [] (.remu (bits w 14 6) (bits w 20 6) (bits w 26 6))
  | 9 => chk [] (.and (bits w 14 6) (bits w 20 6) (bits w 26 6))
  | 10 => chk [] (.or (bits w 14 6) (bits w 20 6) (bits w 26 6))
  | 11 => chk [] (.xor (bits w 14 6) (bits w 20 6) (bits w 26 6))
  | 12 => chk [] (.andn (bits w 14 6) (bits w 20 6) (bits w 26 6))
  | 13 => chk [] (.shl (bits w 14 6) (bits w 20 6) (bits w 26 6))
  | 14 => chk [] (.shr (bits w 14 6) (bits w 20 6) (bits w 26 6))
  | 15 => chk [] (.sar (bits w 14 6) (bits w 20 6) (bits w 26 6))
  | 16 => chk [] (.min (bits w 14 6) (bits w 20 6) (bits w 26 6))
  | 17 => chk [] (.max (bits w 14 6) (bits w 20 6) (bits w 26 6))
  | 18 => chk [] (.minu (bits w 14 6) (bits w 20 6) (bits w 26 6))
  | 19 => chk [] (.maxu (bits w 14 6) (bits w 20 6) (bits w 26 6))
  | 20 => chk [] (.rol (bits w 14 6) (bits w 20 6) (bits w 26 6))
  | 21 => chk [] (.ror (bits w 14 6) (bits w 20 6) (bits w 26 6))
  | 22 => chk [(bits w 26 6 != 0, 2)] (.clz (bits w 14 6) (bits w 20 6))
  | 23 => chk [(bits w 26 6 != 0, 2)] (.popc (bits w 14 6) (bits w 20 6))
  | 24 => chk [(bits w 26 6 != 0, 2)] (.sextw (bits w 14 6) (bits w 20 6))
  | 25 => chk [(bits w 26 6 != 0, 2)] (.zextw (bits w 14 6) (bits w 20 6))
  | _ => .error 1

/-- C major 0x02: register compares (03 R84). -/
def decodeCmp (w : Nat) : Except Nat Instr :=
  match bits w 8 6 with
  | 0 => chk [(48 ≤ bits w 14 6, 3)] (.cmpEq (bits w 14 6) (bits w 20 6) (bits w 26 6))
  | 1 => chk [(48 ≤ bits w 14 6, 3)] (.cmpNe (bits w 14 6) (bits w 20 6) (bits w 26 6))
  | 2 => chk [(48 ≤ bits w 14 6, 3)] (.cmpLt (bits w 14 6) (bits w 20 6) (bits w 26 6))
  | 3 => chk [(48 ≤ bits w 14 6, 3)] (.cmpLe (bits w 14 6) (bits w 20 6) (bits w 26 6))
  | 4 => chk [(48 ≤ bits w 14 6, 3)] (.cmpLtu (bits w 14 6) (bits w 20 6) (bits w 26 6))
  | 5 => chk [(48 ≤ bits w 14 6, 3)] (.cmpLeu (bits w 14 6) (bits w 20 6) (bits w 26 6))
  | _ => .error 1

/-- C major 0x03: predicate logic (03 R84). -/
def decodePred (w : Nat) : Except Nat Instr :=
  match bits w 8 6 with
  | 0 => chk [(48 ≤ bits w 14 6 || 48 ≤ bits w 20 6 || 48 ≤ bits w 26 6, 3)] (.pand (bits w 14 6) (bits w 20 6) (bits w 26 6))
  | 1 => chk [(48 ≤ bits w 14 6 || 48 ≤ bits w 20 6 || 48 ≤ bits w 26 6, 3)] (.por (bits w 14 6) (bits w 20 6) (bits w 26 6))
  | 2 => chk [(48 ≤ bits w 14 6 || 48 ≤ bits w 20 6 || 48 ≤ bits w 26 6, 3)] (.pxor (bits w 14 6) (bits w 20 6) (bits w 26 6))
  | 3 => chk [(48 ≤ bits w 14 6 || 48 ≤ bits w 20 6 || 48 ≤ bits w 26 6, 3)] (.pandn (bits w 14 6) (bits w 20 6) (bits w 26 6))
  | 4 => chk [(bits w 26 6 != 0, 2), (48 ≤ bits w 14 6 || 48 ≤ bits w 20 6, 3)] (.pnot (bits w 14 6) (bits w 20 6))
  | _ => .error 1

/-- C major 0x49: the frozen-state words (03 R84, 19 R430). -/
def decodeFrz (w : Nat) : Except Nat Instr :=
  match bits w 8 6 with
  | 0 => chk [(4 ≤ bits w 20 6, 3)] (.frzRd (bits w 14 6) (bits w 20 6) (bits w 26 6))
  | 1 => chk [(4 ≤ bits w 20 6, 3)] (.frzWr (bits w 14 6) (bits w 20 6) (bits w 26 6))
  | 2 => chk [(bits w 26 6 != 0, 2), (4 ≤ bits w 20 6, 3)] (.frzRes (bits w 14 6) (bits w 20 6))
  | 3 => chk [(bits w 26 6 != 0, 2), (4 ≤ bits w 20 6, 3)] (.frzKill (bits w 14 6) (bits w 20 6))
  | 4 => chk [(4 ≤ bits w 20 6, 3)] (.frzArr (bits w 14 6) (bits w 20 6) (bits w 26 6))
  | 5 => chk [(bits w 26 6 != 0, 2), (4 ≤ bits w 20 6, 3)] (.frzEsc (bits w 14 6) (bits w 20 6))
  | _ => .error 1

/-- C major 0x48: tags, handles, pages, monitors and nodes (03 R84). -/
def decodeUnits (w : Nat) : Except Nat Instr :=
  match bits w 8 6 with
  | 0 => chk [(bits w 26 6 != 0, 2)] (.tagLook (bits w 14 6) (bits w 20 6))
  | 1 => chk [] (.tagSet (bits w 14 6) (bits w 20 6) (bits w 26 6))
  | 2 => if bits w 26 6 == 0 then chk [] (.tagClr (bits w 14 6) (bits w 20 6)) else if bits w 26 6 == 1 then chk [(bits w 20 6 != 0, 2)] (.tagClrAll (bits w 14 6)) else .error 8
  | 3 => chk [] (.hndDef (bits w 14 6) (bits w 20 6) (bits w 26 6))
  | 4 => chk [] (.hndRelay (bits w 14 6) (bits w 20 6) (bits w 26 6))
  | 5 => chk [(4 ≤ bits w 26 6, 8)] (.hndQry (bits w 14 6) (bits w 20 6) (bits w 26 6))
  | 6 => chk [(bits w 26 6 != 0, 2)] (.hndDrop (bits w 14 6) (bits w 20 6))
  | 7 => chk [] (.pageReq (bits w 14 6) (bits w 20 6) (bits w 26 6))
  | 8 => chk [] (.migrate (bits w 14 6) (bits w 20 6) (bits w 26 6))
  | 9 => chk [] (.monArm (bits w 14 6) (bits w 20 6) (bits w 26 6))
  | 10 => chk [] (.monRef (bits w 14 6) (bits w 20 6) (bits w 26 6))
  | 11 => chk [(bits w 20 6 != 0, 2)] (.monRd (bits w 14 6) (bits w 26 6))
  | 12 => chk [(bits w 20 6 != 0, 2)] (.monOff (bits w 14 6) (bits w 26 6))
  | 13 => chk [] (.nodePost (bits w 14 6) (bits w 20 6) (bits w 26 6))
  | 14 => chk [(bits w 26 6 != 0, 2)] (.nodeDone (bits w 14 6) (bits w 20 6))
  | _ => .error 1

/-- The 32-bit words of the C stream (03 R83, R84). -/
def decodeC32 (w : Nat) : Except Nat Instr :=
  match bits w 1 7 with
  | 0x01 => decodeArith w
  | 0x02 => decodeCmp w
  | 0x03 => decodePred w
  | 0x48 => decodeUnits w
  | 0x49 => decodeFrz w
  | 0x4 => chk [(48 ≤ bits w 8 6, 3)] (.sel (bits w 14 6) (bits w 8 6) (bits w 20 6) (bits w 26 6))
  | 0x8 => chk [] (.addi (bits w 8 6) (bits w 14 6) (BitVec.ofNat 12 (bits w 20 12)))
  | 0x9 => chk [] (.andi (bits w 8 6) (bits w 14 6) (BitVec.ofNat 12 (bits w 20 12)))
  | 0xa => chk [] (.ori (bits w 8 6) (bits w 14 6) (BitVec.ofNat 12 (bits w 20 12)))
  | 0xb => chk [] (.xori (bits w 8 6) (bits w 14 6) (BitVec.ofNat 12 (bits w 20 12)))
  | 0xc => chk [(64 ≤ bits w 20 12, 8)] (.shli (bits w 8 6) (bits w 14 6) (bits w 20 12))
  | 0xd => chk [(64 ≤ bits w 20 12, 8)] (.shri (bits w 8 6) (bits w 14 6) (bits w 20 12))
  | 0xe => chk [(64 ≤ bits w 20 12, 8)] (.sari (bits w 8 6) (bits w 14 6) (bits w 20 12))
  | 0xf => chk [] (.muli (bits w 8 6) (bits w 14 6) (BitVec.ofNat 12 (bits w 20 12)))
  | 0x10 => chk [] (.lui (bits w 8 6) (BitVec.ofNat 18 (bits w 14 18)))
  | 0x11 => chk [(48 ≤ bits w 8 6, 3)] (.cmpiEq (bits w 8 6) (bits w 14 6) (BitVec.ofNat 12 (bits w 20 12)))
  | 0x12 => chk [(48 ≤ bits w 8 6, 3)] (.cmpiNe (bits w 8 6) (bits w 14 6) (BitVec.ofNat 12 (bits w 20 12)))
  | 0x13 => chk [(48 ≤ bits w 8 6, 3)] (.cmpiLt (bits w 8 6) (bits w 14 6) (BitVec.ofNat 12 (bits w 20 12)))
  | 0x14 => chk [(48 ≤ bits w 8 6, 3)] (.cmpiLe (bits w 8 6) (bits w 14 6) (BitVec.ofNat 12 (bits w 20 12)))
  | 0x15 => chk [(48 ≤ bits w 8 6, 3)] (.cmpiLtu (bits w 8 6) (bits w 14 6) (BitVec.ofNat 12 (bits w 20 12)))
  | 0x16 => chk [(48 ≤ bits w 8 6, 3)] (.cmpiLeu (bits w 8 6) (bits w 14 6) (BitVec.ofNat 12 (bits w 20 12)))
  | 0x17 => chk [(bits w 14 6 != 0, 2)] (.addpc (bits w 8 6) (BitVec.ofNat 12 (bits w 20 12)))
  | 0x18 => chk [] (.pbr (bits w 8 2) (BitVec.ofNat 22 (bits w 10 22)))
  | 0x19 => chk [(bits w 10 4 != 0, 2)] (.pbrr (bits w 8 2) (bits w 14 6) (BitVec.ofNat 12 (bits w 20 12)))
  | 0x20 => chk [] (.ldB (bits w 8 6) (bits w 14 6) (bits w 20 4) (BitVec.ofNat 8 (bits w 24 8)))
  | 0x21 => chk [] (.ldH (bits w 8 6) (bits w 14 6) (bits w 20 4) (BitVec.ofNat 8 (bits w 24 8)))
  | 0x22 => chk [] (.ldW (bits w 8 6) (bits w 14 6) (bits w 20 4) (BitVec.ofNat 8 (bits w 24 8)))
  | 0x23 => chk [] (.ldD (bits w 8 6) (bits w 14 6) (bits w 20 4) (BitVec.ofNat 8 (bits w 24 8)))
  | 0x24 => chk [] (.lduB (bits w 8 6) (bits w 14 6) (bits w 20 4) (BitVec.ofNat 8 (bits w 24 8)))
  | 0x25 => chk [] (.lduH (bits w 8 6) (bits w 14 6) (bits w 20 4) (BitVec.ofNat 8 (bits w 24 8)))
  | 0x26 => chk [] (.lduW (bits w 8 6) (bits w 14 6) (bits w 20 4) (BitVec.ofNat 8 (bits w 24 8)))
  | 0x28 => chk [] (.stB (bits w 8 6) (bits w 14 6) (bits w 20 4) (BitVec.ofNat 8 (bits w 24 8)))
  | 0x29 => chk [] (.stH (bits w 8 6) (bits w 14 6) (bits w 20 4) (BitVec.ofNat 8 (bits w 24 8)))
  | 0x2a => chk [] (.stW (bits w 8 6) (bits w 14 6) (bits w 20 4) (BitVec.ofNat 8 (bits w 24 8)))
  | 0x2b => chk [] (.stD (bits w 8 6) (bits w 14 6) (bits w 20 4) (BitVec.ofNat 8 (bits w 24 8)))
  | 0x30 => chk [(!(fldOrder (Order.ofCode (bits w 24 5))), 8)] (.fldW (bits w 8 6) (bits w 14 6) (bits w 20 4) (Order.ofCode (bits w 24 5)) (bits w 29 3))
  | 0x31 => chk [(!(fldOrder (Order.ofCode (bits w 24 5))), 8)] (.fldD (bits w 8 6) (bits w 14 6) (bits w 20 4) (Order.ofCode (bits w 24 5)) (bits w 29 3))
  | 0x32 => chk [(bits w 29 3 != 0, 2), (!(fstOrder (Order.ofCode (bits w 24 5))), 8)] (.fstW (bits w 8 6) (bits w 14 6) (bits w 20 4) (Order.ofCode (bits w 24 5)))
  | 0x33 => chk [(bits w 29 3 != 0, 2), (!(fstOrder (Order.ofCode (bits w 24 5))), 8)] (.fstD (bits w 8 6) (bits w 14 6) (bits w 20 4) (Order.ofCode (bits w 24 5)))
  | 0x34 => chk [(!(famoOrder (FOp.ofCode (bits w 29 3)) (Order.ofCode (bits w 24 5)) (bits w 8 6)), 8)] (.famoW (bits w 8 6) (bits w 14 6) (bits w 20 4) (Order.ofCode (bits w 24 5)) (FOp.ofCode (bits w 29 3)))
  | 0x35 => chk [(!(famoOrder (FOp.ofCode (bits w 29 3)) (Order.ofCode (bits w 24 5)) (bits w 8 6)), 8)] (.famoD (bits w 8 6) (bits w 14 6) (bits w 20 4) (Order.ofCode (bits w 24 5)) (FOp.ofCode (bits w 29 3)))
  | 0x38 => chk [(bits w 8 8 != 0, 2), (bits w 16 16 == 0, 8)] (.fenceC (bits w 16 16))
  | 0x39 => chk [(bits w 11 21 != 0, 2), (bits w 8 3 == 7, 8)] (.fenceS (Scope.ofCode (bits w 8 3)))
  | 0x40 => chk [(bits w 8 2 != 0, 2), (bits w 11 3 == 0 || bits w 11 3 == 7, 8)] (.enq (bits w 11 3) (bits w 14 18) (bits w 10 1 == 1))
  | 0x41 => chk [(bits w 26 6 != 0 || bits w 14 6 != 0, 2), (64 < bits w 20 6 + popCount 6 (bits w 8 6), 3), (bits w 8 6 == 0, 8)] (.fork (bits w 20 6) (bits w 8 6))
  | 0x4a => chk [(bits w 14 6 != 0, 2), (!(allotted (bits w 20 12)), 8)] (.srr (bits w 8 6) (bits w 20 12))
  | 0x4b => chk [(bits w 8 6 != 0, 2), (!(allotted (bits w 20 12)), 8)] (.srw (bits w 20 12) (bits w 14 6))
  | 0x4c => chk [(bits w 8 12 != 0, 2)] (.trap (bits w 20 12))
  | _ => .error 1

/-- V major 0x01 with a floating type (03 R86, 07 R176). -/
def decodeVFloat (w : Nat) : Except Nat Instr :=
  match bits w 8 4 with
  | 0 => chk [(48 ≤ bits w 20 6 || 48 ≤ bits w 26 6, 3)] (.vadd (VTy.ofCode (bits w 12 2)) (bits w 14 1 == 1) (bits w 15 5) (bits w 20 6) (bits w 26 6))
  | 1 => chk [(48 ≤ bits w 20 6 || 48 ≤ bits w 26 6, 3)] (.vsub (VTy.ofCode (bits w 12 2)) (bits w 14 1 == 1) (bits w 15 5) (bits w 20 6) (bits w 26 6))
  | 2 => chk [(48 ≤ bits w 20 6 || 48 ≤ bits w 26 6, 3)] (.vmul (VTy.ofCode (bits w 12 2)) (bits w 14 1 == 1) (bits w 15 5) (bits w 20 6) (bits w 26 6))
  | 3 => chk [(48 ≤ bits w 20 6 || 48 ≤ bits w 26 6, 3)] (.vmin (VTy.ofCode (bits w 12 2)) (bits w 14 1 == 1) (bits w 15 5) (bits w 20 6) (bits w 26 6))
  | 4 => chk [(48 ≤ bits w 20 6 || 48 ≤ bits w 26 6, 3)] (.vmax (VTy.ofCode (bits w 12 2)) (bits w 14 1 == 1) (bits w 15 5) (bits w 20 6) (bits w 26 6))
  | 5 => chk [(bits w 26 6 != 0, 2), (48 ≤ bits w 20 6, 3)] (.vabs (VTy.ofCode (bits w 12 2)) (bits w 14 1 == 1) (bits w 15 5) (bits w 20 6))
  | 6 => chk [(bits w 26 6 != 0, 2), (48 ≤ bits w 20 6, 3)] (.vneg (VTy.ofCode (bits w 12 2)) (bits w 14 1 == 1) (bits w 15 5) (bits w 20 6))
  | 7 => chk [(48 ≤ bits w 20 6 || 48 ≤ bits w 26 6, 3)] (.vcpsgn (VTy.ofCode (bits w 12 2)) (bits w 14 1 == 1) (bits w 15 5) (bits w 20 6) (bits w 26 6))
  | 8 => chk [(bits w 26 6 != 0, 2), (48 ≤ bits w 20 6, 3)] (.vrint (VTy.ofCode (bits w 12 2)) (bits w 14 1 == 1) (bits w 15 5) (bits w 20 6))
  | 9 => chk [(48 ≤ bits w 20 6 || 48 ≤ bits w 26 6, 3)] (.vdiv (VTy.ofCode (bits w 12 2)) (bits w 14 1 == 1) (bits w 15 5) (bits w 20 6) (bits w 26 6))
  | 10 => chk [(bits w 26 6 != 0, 2), (48 ≤ bits w 20 6, 3)] (.vsqrt (VTy.ofCode (bits w 12 2)) (bits w 14 1 == 1) (bits w 15 5) (bits w 20 6))
  | 11 => chk [(bits w 26 6 != 0, 2), (48 ≤ bits w 20 6, 3)] (.vrcp (VTy.ofCode (bits w 12 2)) (bits w 14 1 == 1) (bits w 15 5) (bits w 20 6))
  | 12 => chk [(bits w 26 6 != 0, 2), (48 ≤ bits w 20 6, 3)] (.vrsq (VTy.ofCode (bits w 12 2)) (bits w 14 1 == 1) (bits w 15 5) (bits w 20 6))
  | 13 => chk [(bits w 26 6 != 0, 2), (48 ≤ bits w 20 6, 3)] (.vexp2 (VTy.ofCode (bits w 12 2)) (bits w 14 1 == 1) (bits w 15 5) (bits w 20 6))
  | 14 => chk [(bits w 26 6 != 0, 2), (48 ≤ bits w 20 6, 3)] (.vlog2 (VTy.ofCode (bits w 12 2)) (bits w 14 1 == 1) (bits w 15 5) (bits w 20 6))
  | 15 => chk [(bits w 26 6 != 0, 2), (48 ≤ bits w 20 6, 3)] (.vtanh (VTy.ofCode (bits w 12 2)) (bits w 14 1 == 1) (bits w 15 5) (bits w 20 6))
  | _ => .error 1

/-- V major 0x01 with type INT32 (03 R86, 07 R180). -/
def decodeVInt (w : Nat) : Except Nat Instr :=
  match bits w 8 4 with
  | 0 => chk [(48 ≤ bits w 20 6 || 48 ≤ bits w 26 6, 3)] (.vaddI32 (bits w 14 1 == 1) (bits w 15 5) (bits w 20 6) (bits w 26 6))
  | 1 => chk [(48 ≤ bits w 20 6 || 48 ≤ bits w 26 6, 3)] (.vsubI32 (bits w 14 1 == 1) (bits w 15 5) (bits w 20 6) (bits w 26 6))
  | 2 => chk [(48 ≤ bits w 20 6 || 48 ≤ bits w 26 6, 3)] (.vmulI32 (bits w 14 1 == 1) (bits w 15 5) (bits w 20 6) (bits w 26 6))
  | 3 => chk [(48 ≤ bits w 20 6 || 48 ≤ bits w 26 6, 3)] (.vminI32 (bits w 14 1 == 1) (bits w 15 5) (bits w 20 6) (bits w 26 6))
  | 4 => chk [(48 ≤ bits w 20 6 || 48 ≤ bits w 26 6, 3)] (.vmaxI32 (bits w 14 1 == 1) (bits w 15 5) (bits w 20 6) (bits w 26 6))
  | 5 => chk [(bits w 26 6 != 0, 2), (48 ≤ bits w 20 6, 3)] (.vabsI32 (bits w 14 1 == 1) (bits w 15 5) (bits w 20 6))
  | 6 => chk [(bits w 26 6 != 0, 2), (48 ≤ bits w 20 6, 3)] (.vnegI32 (bits w 14 1 == 1) (bits w 15 5) (bits w 20 6))
  | 7 => chk [(48 ≤ bits w 20 6 || 48 ≤ bits w 26 6, 3)] (.vmulh (bits w 14 1 == 1) (bits w 15 5) (bits w 20 6) (bits w 26 6))
  | 8 => chk [(48 ≤ bits w 20 6 || 48 ≤ bits w 26 6, 3)] (.vand (bits w 14 1 == 1) (bits w 15 5) (bits w 20 6) (bits w 26 6))
  | 9 => chk [(48 ≤ bits w 20 6 || 48 ≤ bits w 26 6, 3)] (.vor (bits w 14 1 == 1) (bits w 15 5) (bits w 20 6) (bits w 26 6))
  | 10 => chk [(48 ≤ bits w 20 6 || 48 ≤ bits w 26 6, 3)] (.vxor (bits w 14 1 == 1) (bits w 15 5) (bits w 20 6) (bits w 26 6))
  | 11 => chk [(48 ≤ bits w 20 6 || 48 ≤ bits w 26 6, 3)] (.vandn (bits w 14 1 == 1) (bits w 15 5) (bits w 20 6) (bits w 26 6))
  | 12 => chk [(48 ≤ bits w 20 6 || 48 ≤ bits w 26 6, 3)] (.vshl (bits w 14 1 == 1) (bits w 15 5) (bits w 20 6) (bits w 26 6))
  | 13 => chk [(48 ≤ bits w 20 6 || 48 ≤ bits w 26 6, 3)] (.vshr (bits w 14 1 == 1) (bits w 15 5) (bits w 20 6) (bits w 26 6))
  | 14 => chk [(48 ≤ bits w 20 6 || 48 ≤ bits w 26 6, 3)] (.vsar (bits w 14 1 == 1) (bits w 15 5) (bits w 20 6) (bits w 26 6))
  | _ => .error 1

/-- V major 0x02 with type INT32 (03 R86, 07 R180). -/
def decodeVInt2 (w : Nat) : Except Nat Instr :=
  match bits w 8 4 with
  | 0 => chk [(48 ≤ bits w 20 6 || 48 ≤ bits w 26 6, 3)] (.vminu (bits w 14 1 == 1) (bits w 15 5) (bits w 20 6) (bits w 26 6))
  | 1 => chk [(48 ≤ bits w 20 6 || 48 ≤ bits w 26 6, 3)] (.vmaxu (bits w 14 1 == 1) (bits w 15 5) (bits w 20 6) (bits w 26 6))
  | 2 => chk [(48 ≤ bits w 20 6 || 48 ≤ bits w 26 6, 3)] (.vadds (bits w 14 1 == 1) (bits w 15 5) (bits w 20 6) (bits w 26 6))
  | 3 => chk [(48 ≤ bits w 20 6 || 48 ≤ bits w 26 6, 3)] (.vsubs (bits w 14 1 == 1) (bits w 15 5) (bits w 20 6) (bits w 26 6))
  | 4 => chk [(bits w 26 6 != 0, 2), (48 ≤ bits w 20 6, 3)] (.vclz (bits w 14 1 == 1) (bits w 15 5) (bits w 20 6))
  | 5 => chk [(bits w 26 6 != 0, 2), (48 ≤ bits w 20 6, 3)] (.vpopc (bits w 14 1 == 1) (bits w 15 5) (bits w 20 6))
  | 6 => chk [(48 ≤ bits w 20 6 || 48 ≤ bits w 26 6, 3)] (.vmulhu (bits w 14 1 == 1) (bits w 15 5) (bits w 20 6) (bits w 26 6))
  | _ => .error 1

/-- V major 0x03: reductions, scans and permutes (03 R86, 07 R186, R187). -/
def decodeVPerm (w : Nat) : Except Nat Instr :=
  match bits w 8 4 with
  | 0 => chk [(48 ≤ bits w 20 6 || 48 ≤ bits w 26 6, 3)] (.vrsum (VTy.ofCode (bits w 12 2)) (bits w 14 1 == 1) (bits w 15 5) (bits w 20 6) (bits w 26 6))
  | 1 => chk [(48 ≤ bits w 20 6 || 48 ≤ bits w 26 6, 3)] (.vrmax (VTy.ofCode (bits w 12 2)) (bits w 14 1 == 1) (bits w 15 5) (bits w 20 6) (bits w 26 6))
  | 2 => chk [(48 ≤ bits w 20 6 || 48 ≤ bits w 26 6, 3)] (.vrmin (VTy.ofCode (bits w 12 2)) (bits w 14 1 == 1) (bits w 15 5) (bits w 20 6) (bits w 26 6))
  | 3 => chk [(48 ≤ bits w 20 6 || 48 ≤ bits w 26 6, 3)] (.vscan (VTy.ofCode (bits w 12 2)) (bits w 14 1 == 1) (bits w 15 5) (bits w 20 6) (bits w 26 6))
  | 4 => chk [(48 ≤ bits w 20 6 || 48 ≤ bits w 26 6, 3)] (.vscmx (VTy.ofCode (bits w 12 2)) (bits w 14 1 == 1) (bits w 15 5) (bits w 20 6) (bits w 26 6))
  | 5 => chk [(48 ≤ bits w 20 6 || 48 ≤ bits w 26 6, 3), (bits w 12 2 == 1 || bits w 12 2 == 2, 8)] (.vperm (VTy.ofCode (bits w 12 2)) (bits w 14 1 == 1) (bits w 15 5) (bits w 20 6) (bits w 26 6))
  | 6 => chk [(48 ≤ bits w 20 6, 3), (bits w 12 2 == 1 || bits w 12 2 == 2, 8)] (.vbcast (VTy.ofCode (bits w 12 2)) (bits w 14 1 == 1) (bits w 15 5) (bits w 20 6) (bits w 26 6))
  | 7 => chk [(48 ≤ bits w 20 6, 3), (bits w 12 2 == 1 || bits w 12 2 == 2, 8)] (.vrot (VTy.ofCode (bits w 12 2)) (bits w 14 1 == 1) (bits w 15 5) (bits w 20 6) (bits w 26 6))
  | 8 => chk [(48 ≤ bits w 20 6 || 48 ≤ bits w 26 6, 3), (bits w 12 2 == 1 || bits w 12 2 == 2, 8)] (.vzip (VTy.ofCode (bits w 12 2)) (bits w 14 1 == 1) (bits w 15 5) (bits w 20 6) (bits w 26 6))
  | 9 => chk [(48 ≤ bits w 20 6 || 48 ≤ bits w 26 6, 3), (bits w 12 2 == 1 || bits w 12 2 == 2, 8)] (.vunzip (VTy.ofCode (bits w 12 2)) (bits w 14 1 == 1) (bits w 15 5) (bits w 20 6) (bits w 26 6))
  | 10 => chk [(bits w 26 6 != 0, 2), (48 ≤ bits w 20 6, 3), (bits w 12 2 != 0, 8)] (.vmov (bits w 14 1 == 1) (bits w 15 5) (bits w 20 6))
  | _ => .error 1

/-- V major 0x12 with a floating type (03 R86, 07 R184). -/
def decodeVCmpF (w : Nat) : Except Nat Instr :=
  match bits w 8 4 with
  | 0 => chk [(48 ≤ bits w 14 6 || 48 ≤ bits w 20 6 || 48 ≤ bits w 26 6, 3)] (.vcmpEq (VTy.ofCode (bits w 12 2)) (bits w 14 6) (bits w 20 6) (bits w 26 6))
  | 1 => chk [(48 ≤ bits w 14 6 || 48 ≤ bits w 20 6 || 48 ≤ bits w 26 6, 3)] (.vcmpNe (VTy.ofCode (bits w 12 2)) (bits w 14 6) (bits w 20 6) (bits w 26 6))
  | 2 => chk [(48 ≤ bits w 14 6 || 48 ≤ bits w 20 6 || 48 ≤ bits w 26 6, 3)] (.vcmpLt (VTy.ofCode (bits w 12 2)) (bits w 14 6) (bits w 20 6) (bits w 26 6))
  | 3 => chk [(48 ≤ bits w 14 6 || 48 ≤ bits w 20 6 || 48 ≤ bits w 26 6, 3)] (.vcmpLe (VTy.ofCode (bits w 12 2)) (bits w 14 6) (bits w 20 6) (bits w 26 6))
  | 4 => chk [(48 ≤ bits w 14 6 || 48 ≤ bits w 20 6 || 48 ≤ bits w 26 6, 3)] (.vcmpGt (VTy.ofCode (bits w 12 2)) (bits w 14 6) (bits w 20 6) (bits w 26 6))
  | 5 => chk [(48 ≤ bits w 14 6 || 48 ≤ bits w 20 6 || 48 ≤ bits w 26 6, 3)] (.vcmpGe (VTy.ofCode (bits w 12 2)) (bits w 14 6) (bits w 20 6) (bits w 26 6))
  | 6 => chk [(48 ≤ bits w 14 6 || 48 ≤ bits w 20 6 || 48 ≤ bits w 26 6, 3)] (.vcmpUn (VTy.ofCode (bits w 12 2)) (bits w 14 6) (bits w 20 6) (bits w 26 6))
  | 7 => chk [(48 ≤ bits w 14 6 || 48 ≤ bits w 20 6 || 48 ≤ bits w 26 6, 3)] (.vcmpOr (VTy.ofCode (bits w 12 2)) (bits w 14 6) (bits w 20 6) (bits w 26 6))
  | _ => .error 1

/-- V major 0x12 with type INT32 (03 R86, 07 R184). -/
def decodeVCmpI (w : Nat) : Except Nat Instr :=
  match bits w 8 4 with
  | 0 => chk [(48 ≤ bits w 14 6 || 48 ≤ bits w 20 6 || 48 ≤ bits w 26 6, 3)] (.vcmpEq (VTy.ofCode (bits w 12 2)) (bits w 14 6) (bits w 20 6) (bits w 26 6))
  | 1 => chk [(48 ≤ bits w 14 6 || 48 ≤ bits w 20 6 || 48 ≤ bits w 26 6, 3)] (.vcmpNe (VTy.ofCode (bits w 12 2)) (bits w 14 6) (bits w 20 6) (bits w 26 6))
  | 2 => chk [(48 ≤ bits w 14 6 || 48 ≤ bits w 20 6 || 48 ≤ bits w 26 6, 3)] (.vcmpLt (VTy.ofCode (bits w 12 2)) (bits w 14 6) (bits w 20 6) (bits w 26 6))
  | 3 => chk [(48 ≤ bits w 14 6 || 48 ≤ bits w 20 6 || 48 ≤ bits w 26 6, 3)] (.vcmpLe (VTy.ofCode (bits w 12 2)) (bits w 14 6) (bits w 20 6) (bits w 26 6))
  | 4 => chk [(48 ≤ bits w 14 6 || 48 ≤ bits w 20 6 || 48 ≤ bits w 26 6, 3)] (.vcmpGt (VTy.ofCode (bits w 12 2)) (bits w 14 6) (bits w 20 6) (bits w 26 6))
  | 5 => chk [(48 ≤ bits w 14 6 || 48 ≤ bits w 20 6 || 48 ≤ bits w 26 6, 3)] (.vcmpGe (VTy.ofCode (bits w 12 2)) (bits w 14 6) (bits w 20 6) (bits w 26 6))
  | 8 => chk [(48 ≤ bits w 14 6 || 48 ≤ bits w 20 6 || 48 ≤ bits w 26 6, 3)] (.vcmpLtu (bits w 14 6) (bits w 20 6) (bits w 26 6))
  | 9 => chk [(48 ≤ bits w 14 6 || 48 ≤ bits w 20 6 || 48 ≤ bits w 26 6, 3)] (.vcmpLeu (bits w 14 6) (bits w 20 6) (bits w 26 6))
  | 10 => chk [(48 ≤ bits w 14 6 || 48 ≤ bits w 20 6 || 48 ≤ bits w 26 6, 3)] (.vcmpGtu (bits w 14 6) (bits w 20 6) (bits w 26 6))
  | 11 => chk [(48 ≤ bits w 14 6 || 48 ≤ bits w 20 6 || 48 ≤ bits w 26 6, 3)] (.vcmpGeu (bits w 14 6) (bits w 20 6) (bits w 26 6))
  | _ => .error 1

/-- V major 0x13: conversions (03 R86, 07 R182). -/
def decodeVCvt (w : Nat) : Except Nat Instr :=
  match bits w 8 4 with
  | 0 => chk [(bits w 26 6 != 0, 2), (48 ≤ bits w 20 6, 3)] (.vcvtBf16F32 (Rnd.ofCode (bits w 12 2)) (bits w 14 1 == 1) (bits w 15 5) (bits w 20 6))
  | 1 => chk [(bits w 26 6 != 0, 2), (48 ≤ bits w 20 6, 3)] (.vcvtF16F32 (Rnd.ofCode (bits w 12 2)) (bits w 14 1 == 1) (bits w 15 5) (bits w 20 6))
  | 2 => chk [(bits w 26 6 != 0, 2), (48 ≤ bits w 20 6, 3)] (.vcvtF32Bf16 (Rnd.ofCode (bits w 12 2)) (bits w 14 1 == 1) (bits w 15 5) (bits w 20 6))
  | 3 => chk [(bits w 26 6 != 0, 2), (48 ≤ bits w 20 6, 3)] (.vcvtF32F16 (Rnd.ofCode (bits w 12 2)) (bits w 14 1 == 1) (bits w 15 5) (bits w 20 6))
  | 4 => chk [(bits w 26 6 != 0, 2), (48 ≤ bits w 20 6, 3)] (.vcvtI32F32 (Rnd.ofCode (bits w 12 2)) (bits w 14 1 == 1) (bits w 15 5) (bits w 20 6))
  | 5 => chk [(bits w 26 6 != 0, 2), (48 ≤ bits w 20 6, 3)] (.vcvtF32I32 (Rnd.ofCode (bits w 12 2)) (bits w 14 1 == 1) (bits w 15 5) (bits w 20 6))
  | 6 => chk [(bits w 26 6 != 0, 2), (48 ≤ bits w 20 6, 3)] (.vcvtBf16F16 (Rnd.ofCode (bits w 12 2)) (bits w 14 1 == 1) (bits w 15 5) (bits w 20 6))
  | 7 => chk [(bits w 26 6 != 0, 2), (48 ≤ bits w 20 6, 3)] (.vcvtF16Bf16 (Rnd.ofCode (bits w 12 2)) (bits w 14 1 == 1) (bits w 15 5) (bits w 20 6))
  | _ => .error 1

/-- V major 0x15: zero-point and group helpers (03 R86, 07 R188). -/
def decodeVHelp (w : Nat) : Except Nat Instr :=
  match bits w 8 4 with
  | 0 => chk [(48 ≤ bits w 20 6 || 48 ≤ bits w 26 6, 3), (bits w 12 2 != 3, 8)] (.vunpk4 (bits w 14 1 == 1) (bits w 15 5) (bits w 20 6) (bits w 26 6))
  | 1 => chk [(48 ≤ bits w 20 6 || 48 ≤ bits w 26 6, 3), (bits w 12 2 != 3, 8)] (.vunpk8 (bits w 14 1 == 1) (bits w 15 5) (bits w 20 6) (bits w 26 6))
  | 2 => chk [(48 ≤ bits w 20 6 || 48 ≤ bits w 26 6, 3), (bits w 12 2 != 3, 8)] (.vzps (bits w 14 1 == 1) (bits w 15 5) (bits w 20 6) (bits w 26 6))
  | 3 => chk [(48 ≤ bits w 20 6 || 48 ≤ bits w 26 6, 3), (bits w 12 2 == 3, 8)] (.vgbc (bits w 12 2) (bits w 14 1 == 1) (bits w 15 5) (bits w 20 6) (bits w 26 6))
  | _ => .error 1

/-- The 32-bit words of the V stream (03 R85, R86). -/
def decodeV32 (st : Stream) (w : Nat) : Except Nat Instr :=
  match bits w 1 7 with
  | 0x01 => if bits w 12 2 == 3 then decodeVInt w else decodeVFloat w
  | 0x02 => if bits w 12 2 == 3 then decodeVInt2 w else .error 1
  | 0x03 => decodeVPerm w
  | 0x12 => if bits w 12 2 == 3 then decodeVCmpI w else decodeVCmpF w
  | 0x13 => decodeVCvt w
  | 0x15 => decodeVHelp w
  | 0x4 => chk [(48 ≤ bits w 14 6 || 48 ≤ bits w 20 6 || 48 ≤ bits w 26 6, 3)] (.vfmaF32 (bits w 8 1 == 1) (bits w 9 5) (bits w 14 6) (bits w 20 6) (bits w 26 6))
  | 0x5 => chk [(48 ≤ bits w 14 6 || 48 ≤ bits w 20 6 || 48 ≤ bits w 26 6, 3)] (.vfmaBf16 (bits w 8 1 == 1) (bits w 9 5) (bits w 14 6) (bits w 20 6) (bits w 26 6))
  | 0x6 => chk [(48 ≤ bits w 14 6 || 48 ≤ bits w 20 6 || 48 ≤ bits w 26 6, 3)] (.vfmaF16 (bits w 8 1 == 1) (bits w 9 5) (bits w 14 6) (bits w 20 6) (bits w 26 6))
  | 0x7 => chk [(48 ≤ bits w 14 6 || 48 ≤ bits w 20 6 || 48 ≤ bits w 26 6, 3)] (.vfmsF32 (bits w 8 1 == 1) (bits w 9 5) (bits w 14 6) (bits w 20 6) (bits w 26 6))
  | 0x8 => chk [(48 ≤ bits w 14 6 || 48 ≤ bits w 20 6 || 48 ≤ bits w 26 6, 3)] (.vfmsBf16 (bits w 8 1 == 1) (bits w 9 5) (bits w 14 6) (bits w 20 6) (bits w 26 6))
  | 0x9 => chk [(48 ≤ bits w 14 6 || 48 ≤ bits w 20 6 || 48 ≤ bits w 26 6, 3)] (.vfmsF16 (bits w 8 1 == 1) (bits w 9 5) (bits w 14 6) (bits w 20 6) (bits w 26 6))
  | 0xa => chk [(48 ≤ bits w 14 6 || 48 ≤ bits w 20 6 || 48 ≤ bits w 26 6, 3)] (.vfnmaF32 (bits w 8 1 == 1) (bits w 9 5) (bits w 14 6) (bits w 20 6) (bits w 26 6))
  | 0xb => chk [(48 ≤ bits w 14 6 || 48 ≤ bits w 20 6 || 48 ≤ bits w 26 6, 3)] (.vfnmaBf16 (bits w 8 1 == 1) (bits w 9 5) (bits w 14 6) (bits w 20 6) (bits w 26 6))
  | 0xc => chk [(48 ≤ bits w 14 6 || 48 ≤ bits w 20 6 || 48 ≤ bits w 26 6, 3)] (.vfnmaF16 (bits w 8 1 == 1) (bits w 9 5) (bits w 14 6) (bits w 20 6) (bits w 26 6))
  | 0xd => chk [(48 ≤ bits w 14 6 || 48 ≤ bits w 20 6 || 48 ≤ bits w 26 6, 3)] (.vfnmsF32 (bits w 8 1 == 1) (bits w 9 5) (bits w 14 6) (bits w 20 6) (bits w 26 6))
  | 0xe => chk [(48 ≤ bits w 14 6 || 48 ≤ bits w 20 6 || 48 ≤ bits w 26 6, 3)] (.vfnmsBf16 (bits w 8 1 == 1) (bits w 9 5) (bits w 14 6) (bits w 20 6) (bits w 26 6))
  | 0xf => chk [(48 ≤ bits w 14 6 || 48 ≤ bits w 20 6 || 48 ≤ bits w 26 6, 3)] (.vfnmsF16 (bits w 8 1 == 1) (bits w 9 5) (bits w 14 6) (bits w 20 6) (bits w 26 6))
  | 0x10 => chk [(48 ≤ bits w 14 6 || 48 ≤ bits w 20 6 || 48 ≤ bits w 26 6, 3)] (.vsacc (bits w 8 1 == 1) (bits w 9 5) (bits w 14 6) (bits w 20 6) (bits w 26 6))
  | 0x11 => chk [(48 ≤ bits w 26 6 || 48 ≤ bits w 14 6 || 48 ≤ bits w 20 6, 3)] (.vsel (bits w 8 1 == 1) (bits w 9 5) (bits w 26 6) (bits w 14 6) (bits w 20 6))
  | 0x14 => chk [] (.vlim (bits w 10 1 == 1) (bits w 11 5) (Kind.ofCode (bits w 8 2)) (BitVec.ofNat 16 (bits w 16 16)))
  | 0x18 => chk [(bits w 17 2 != 0, 2), (!(tokOk st (Tok.ofCode (bits w 8 5))), 4)] (.vld (bits w 19 1 == 1) (bits w 27 5) (bits w 22 5) (bits w 20 2) (bits w 13 4) (Tok.ofCode (bits w 8 5)))
  | 0x19 => chk [(bits w 17 2 != 0, 2), (!(tokOk st (Tok.ofCode (bits w 8 5))), 4)] (.vldh (bits w 19 1 == 1) (bits w 27 5) (bits w 22 5) (bits w 20 2) (bits w 13 4) (Tok.ofCode (bits w 8 5)))
  | 0x1a => chk [(!(tokOk st (Tok.ofCode (bits w 8 5))), 4)] (.vst (bits w 17 3) (bits w 27 5) (bits w 22 5) (bits w 20 2) (bits w 13 4) (Tok.ofCode (bits w 8 5)))
  | 0x1b => chk [(!(tokOk st (Tok.ofCode (bits w 8 5))), 4)] (.vsth (bits w 17 3) (bits w 27 5) (bits w 22 5) (bits w 20 2) (bits w 13 4) (Tok.ofCode (bits w 8 5)))
  | 0x1c => chk [(!(tokOk st (Tok.ofCode (bits w 8 5))), 4)] (.vgath (bits w 17 5) (bits w 22 5) (bits w 27 5) (bits w 13 4) (Tok.ofCode (bits w 8 5)))
  | 0x1d => chk [(!(tokOk st (Tok.ofCode (bits w 8 5))), 4)] (.vscat (bits w 17 5) (bits w 22 5) (bits w 27 5) (bits w 13 4) (Tok.ofCode (bits w 8 5)))
  | 0x1e => chk [(bits w 13 10 != 0, 2), (!(tokOk st (Tok.ofCode (bits w 8 5))), 4)] (.vrecv (bits w 26 1 == 1) (bits w 27 5) (bits w 23 3) (Tok.ofCode (bits w 8 5)))
  | 0x1f => chk [(bits w 13 7 != 0, 2), (48 ≤ bits w 20 6, 3), (!(tokOk st (Tok.ofCode (bits w 8 5))), 4)] (.vpass (bits w 26 1 == 1) (bits w 27 5) (bits w 20 6) (Tok.ofCode (bits w 8 5)))
  | _ => .error 1

/-- The 32-bit words of the M stream (03 R87). -/
def decodeM32 (st : Stream) (w : Nat) : Except Nat Instr :=
  match bits w 1 7 with
  | 0x1 => chk [(bits w 24 2 != 0, 2), (!(tokOk st (Tok.ofCode (bits w 8 5))), 4), (bits w 17 7 != 0, 8)] (.mlnt (bits w 26 6) (bits w 13 4) (Tok.ofCode (bits w 8 5)))
  | 0x2 => chk [(bits w 24 8 != 0 || bits w 13 4 != 0, 2), (!(tokOk st (Tok.ofCode (bits w 8 5))), 4), (4 ≤ bits w 21 3 || bits w 17 1 != 0, 8)] (.mcfg (MFmt.ofCode (bits w 21 3)) (bits w 19 2) (bits w 18 1 == 1) (Tok.ofCode (bits w 8 5)))
  | 0x3 => chk [(bits w 24 2 != 0 || bits w 13 4 != 0, 2), (!(tokOk st (Tok.ofCode (bits w 8 5))), 4), (bits w 17 7 != 0, 8)] (.mzp (bits w 26 6) (Tok.ofCode (bits w 8 5)))
  | 0x4 => chk [(bits w 26 6 != 0, 2), (!(tokOk st (Tok.ofCode (bits w 8 5))), 4), (bits w 17 7 != 0, 8)] (.mgo (bits w 24 2) (bits w 13 4) (Tok.ofCode (bits w 8 5)))
  | 0x5 => chk [(bits w 24 8 != 0 || bits w 13 4 != 0, 2), (!(tokOk st (Tok.ofCode (bits w 8 5))), 4), (bits w 17 7 != 0, 8)] (.mwait (Tok.ofCode (bits w 8 5)))
  | 0x6 => chk [(bits w 26 6 != 0 || bits w 13 4 != 0, 2), (!(tokOk st (Tok.ofCode (bits w 8 5))), 4), (bits w 17 7 != 0, 8)] (.mclr (bits w 24 2) (Tok.ofCode (bits w 8 5)))
  | 0x7 => chk [(!(tokOk st (Tok.ofCode (bits w 8 5))), 4), (bits w 17 5 != 0 || bits w 22 2 == 3, 8)] (.memit (bits w 26 6) (bits w 24 2) (bits w 22 2) (bits w 13 4) (Tok.ofCode (bits w 8 5)))
  | 0x8 => chk [(bits w 24 8 != 0 || bits w 13 4 != 0, 2), (!(tokOk st (Tok.ofCode (bits w 8 5))), 4), (bits w 17 7 != 0, 8)] (.mtest (Tok.ofCode (bits w 8 5)))
  | 0x9 => chk [(bits w 13 4 != 0, 2), (!(tokOk st (Tok.ofCode (bits w 8 5))), 4)] (.mrd (bits w 26 1 == 1) (bits w 27 5) (bits w 24 2) (bits w 18 6) (bits w 17 1) (Tok.ofCode (bits w 8 5)))
  | _ => .error 1

/-- The 32-bit words of the L stream (03 R87). -/
def decodeL32 (st : Stream) (w : Nat) : Except Nat Instr :=
  match bits w 1 7 with
  | 0x1 => chk [(bits w 17 3 != 0, 2), (!(tokOk st (Tok.ofCode (bits w 8 5))), 4)] (.ldc (bits w 26 6) (bits w 23 3) (bits w 20 3) (bits w 13 4) (Tok.ofCode (bits w 8 5)))
  | 0x2 => chk [(bits w 17 3 != 0, 2), (!(tokOk st (Tok.ofCode (bits w 8 5))), 4)] (.ldt (bits w 26 6) (bits w 23 3) (bits w 20 3) (bits w 13 4) (Tok.ofCode (bits w 8 5)))
  | 0x3 => chk [(bits w 17 6 != 0, 2), (!(tokOk st (Tok.ofCode (bits w 8 5))), 4)] (.lfill (bits w 26 6) (bits w 23 3) (bits w 13 4) (Tok.ofCode (bits w 8 5)))
  | 0x4 => chk [(bits w 13 11 != 0, 2), (!(tokOk st (Tok.ofCode (bits w 8 5))), 4), (bits w 24 8 == 0, 8)] (.kwait (bits w 24 8) (Tok.ofCode (bits w 8 5)))
  | _ => .error 1

/-- The 32-bit words of the S stream (03 R87). -/
def decodeS32 (st : Stream) (w : Nat) : Except Nat Instr :=
  match bits w 1 7 with
  | 0x1 => chk [(bits w 17 6 != 0, 2), (!(tokOk st (Tok.ofCode (bits w 8 5))), 4)] (.stc (bits w 26 6) (bits w 23 3) (bits w 13 4) (Tok.ofCode (bits w 8 5)))
  | 0x2 => chk [(bits w 17 6 != 0, 2), (!(tokOk st (Tok.ofCode (bits w 8 5))), 4)] (.stt (bits w 26 6) (bits w 23 3) (bits w 13 4) (Tok.ofCode (bits w 8 5)))
  | 0x3 => chk [(bits w 17 6 != 0, 2), (!(tokOk st (Tok.ofCode (bits w 8 5))), 4)] (.sfill (bits w 26 6) (bits w 23 3) (bits w 13 4) (Tok.ofCode (bits w 8 5)))
  | 0x4 => chk [(bits w 13 11 != 0, 2), (!(tokOk st (Tok.ofCode (bits w 8 5))), 4), (bits w 24 8 == 0, 8)] (.kwait (bits w 24 8) (Tok.ofCode (bits w 8 5)))
  | _ => .error 1

/-- The 32-bit words of the A stream (03 R87). -/
def decodeA32 (st : Stream) (w : Nat) : Except Nat Instr :=
  match bits w 1 7 with
  | 0x1 => chk [(bits w 17 5 != 0, 2), (!(tokOk st (Tok.ofCode (bits w 8 5))), 4), (!(aoPair (AOp.ofCode (bits w 24 2)) (ATy.ofCode (bits w 22 2))), 8)] (.aopen (bits w 26 6) (AOp.ofCode (bits w 24 2)) (ATy.ofCode (bits w 22 2)) (bits w 13 4) (Tok.ofCode (bits w 8 5)))
  | 0x2 => chk [(bits w 13 9 != 0, 2), (!(tokOk st (Tok.ofCode (bits w 8 5))), 4)] (.apush (bits w 27 5) (bits w 22 5) (Tok.ofCode (bits w 8 5)))
  | 0x3 => chk [(bits w 13 19 != 0, 2), (!(tokOk st (Tok.ofCode (bits w 8 5))), 4)] (.aflush (Tok.ofCode (bits w 8 5)))
  | 0x4 => chk [(bits w 13 19 != 0, 2), (!(tokOk st (Tok.ofCode (bits w 8 5))), 4)] (.aclose (Tok.ofCode (bits w 8 5)))
  | _ => .error 1

/-- The 32-bit words of the F stream (03 R87). -/
def decodeF32 (st : Stream) (w : Nat) : Except Nat Instr :=
  match bits w 1 7 with
  | 0x1 => chk [(bits w 17 3 != 0, 2), (!(tokOk st (Tok.ofCode (bits w 8 5))), 4)] (.fsend (bits w 26 6) (bits w 20 6) (bits w 13 4) (Tok.ofCode (bits w 8 5)))
  | 0x2 => chk [(bits w 17 3 != 0, 2), (!(tokOk st (Tok.ofCode (bits w 8 5))), 4)] (.frecv (bits w 26 6) (bits w 20 6) (bits w 13 4) (Tok.ofCode (bits w 8 5)))
  | 0x3 => chk [(bits w 13 7 != 0, 2), (!(tokOk st (Tok.ofCode (bits w 8 5))), 4)] (.fbind (bits w 26 6) (bits w 20 6) (Tok.ofCode (bits w 8 5)))
  | 0x4 => chk [(bits w 13 19 != 0, 2), (!(tokOk st (Tok.ofCode (bits w 8 5))), 4)] (.funbind (Tok.ofCode (bits w 8 5)))
  | 0x5 => chk [(bits w 17 9 != 0, 2), (!(tokOk st (Tok.ofCode (bits w 8 5))), 4)] (.flowDef (bits w 26 6) (bits w 13 4) (Tok.ofCode (bits w 8 5)))
  | 0x6 => chk [(bits w 13 13 != 0, 2), (!(tokOk st (Tok.ofCode (bits w 8 5))), 4)] (.flowDel (bits w 26 6) (Tok.ofCode (bits w 8 5)))
  | 0x7 => chk [(bits w 17 3 != 0, 2), (!(tokOk st (Tok.ofCode (bits w 8 5))), 4)] (.flowStat (bits w 26 6) (bits w 20 6) (bits w 13 4) (Tok.ofCode (bits w 8 5)))
  | 0x8 => chk [(bits w 17 3 != 0, 2), (!(tokOk st (Tok.ofCode (bits w 8 5))), 4)] (.collLoad (bits w 26 6) (bits w 20 6) (bits w 13 4) (Tok.ofCode (bits w 8 5)))
  | 0x9 => chk [(bits w 17 3 != 0, 2), (!(tokOk st (Tok.ofCode (bits w 8 5))), 4)] (.collRun (bits w 26 6) (bits w 20 6) (bits w 13 4) (Tok.ofCode (bits w 8 5)))
  | 0xa => chk [(bits w 17 3 != 0, 2), (!(tokOk st (Tok.ofCode (bits w 8 5))), 4)] (.collWait (bits w 26 6) (bits w 20 6) (bits w 13 4) (Tok.ofCode (bits w 8 5)))
  | 0xb => chk [(bits w 26 6 != 0 || bits w 13 7 != 0, 2), (!(tokOk st (Tok.ofCode (bits w 8 5))), 4)] (.collAbort (bits w 20 6) (Tok.ofCode (bits w 8 5)))
  | _ => .error 1

/-- The word of a stream whose bits are `w`, 16 or 32 bits wide as its bit 0 says (03 R60, R81-R87). -/
def decodeBits (st : Stream) (w : Nat) : Except Nat Instr :=
  if w % 2 == 0 then
    match st with
    | .C => decodeC16 w
    | .V => decodeNop w .vnop
    | .M => decodeNop w .mnop
    | .L => decodeNop w .lnop
    | .S => decodeNop w .snop
    | .A => decodeNop w .anop
    | .F => decodeNop w .fnop
  else
    match st with
    | .C => decodeC32 w
    | .V => decodeV32 st w
    | .M => decodeM32 st w
    | .L => decodeL32 st w
    | .S => decodeS32 st w
    | .A => decodeA32 st w
    | .F => decodeF32 st w

/-- The word that starts with halfword `h0`; `h1` is the halfword after it, absent when it lies outside the block or
the code section. A 32-bit word with an absent second half reports reason 7 alone (03 R89). -/
def decodeWord (st : Stream) (h0 : Half) (h1 : Option Half) : Except Nat Instr :=
  if h0.toNat % 2 == 0 then decodeBits st h0.toNat
  else match h1 with
    | none => .error 7
    | some h => decodeBits st (h0.toNat + 65536 * h.toNat)

/-- How many halfwords a word takes, by bit 0 of its first (03 R60). -/
def wordLen (h0 : Half) : Nat := if h0.toNat % 2 == 0 then 1 else 2

/-- The encoding of a word as one number, 16 or 32 bits wide; an event has none (03 R76, R77, R79). -/
def encodeNat : Instr → Nat
  | .br p t => 0x2 + p * 1024 + t * 256
  | .call p t => 0x82 + p * 1024 + t * 256
  | .addiCompact g imm => 0x6 + g * 1024 + imm.toNat * 32
  | .nop => 0x4
  | .yield => 0x24
  | .retire => 0x44
  | .ebrk => 0x64
  | .trig n => 0x84 + n * 1024
  | .join mask => 0xA4 + mask * 1024
  | .bar n => 0xC4 + n * 1024
  | .bara n => 0xE4 + n * 1024
  | .barw n => 0x104 + n * 1024
  | .give s => 0x124 + s * 1024
  | .take s => 0x144 + s * 1024
  | .add d a b => 0x3 + d * 16384 + a * 1048576 + b * 67108864
  | .sub d a b => 0x103 + d * 16384 + a * 1048576 + b * 67108864
  | .mul d a b => 0x203 + d * 16384 + a * 1048576 + b * 67108864
  | .mulh d a b => 0x303 + d * 16384 + a * 1048576 + b * 67108864
  | .mulhu d a b => 0x403 + d * 16384 + a * 1048576 + b * 67108864
  | .div d a b => 0x503 + d * 16384 + a * 1048576 + b * 67108864
  | .divu d a b => 0x603 + d * 16384 + a * 1048576 + b * 67108864
  | .rem d a b => 0x703 + d * 16384 + a * 1048576 + b * 67108864
  | .remu d a b => 0x803 + d * 16384 + a * 1048576 + b * 67108864
  | .and d a b => 0x903 + d * 16384 + a * 1048576 + b * 67108864
  | .or d a b => 0xA03 + d * 16384 + a * 1048576 + b * 67108864
  | .xor d a b => 0xB03 + d * 16384 + a * 1048576 + b * 67108864
  | .andn d a b => 0xC03 + d * 16384 + a * 1048576 + b * 67108864
  | .shl d a b => 0xD03 + d * 16384 + a * 1048576 + b * 67108864
  | .shr d a b => 0xE03 + d * 16384 + a * 1048576 + b * 67108864
  | .sar d a b => 0xF03 + d * 16384 + a * 1048576 + b * 67108864
  | .min d a b => 0x1003 + d * 16384 + a * 1048576 + b * 67108864
  | .max d a b => 0x1103 + d * 16384 + a * 1048576 + b * 67108864
  | .minu d a b => 0x1203 + d * 16384 + a * 1048576 + b * 67108864
  | .maxu d a b => 0x1303 + d * 16384 + a * 1048576 + b * 67108864
  | .rol d a b => 0x1403 + d * 16384 + a * 1048576 + b * 67108864
  | .ror d a b => 0x1503 + d * 16384 + a * 1048576 + b * 67108864
  | .clz d a => 0x1603 + d * 16384 + a * 1048576
  | .popc d a => 0x1703 + d * 16384 + a * 1048576
  | .sextw d a => 0x1803 + d * 16384 + a * 1048576
  | .zextw d a => 0x1903 + d * 16384 + a * 1048576
  | .cmpEq p a b => 0x5 + p * 16384 + a * 1048576 + b * 67108864
  | .cmpNe p a b => 0x105 + p * 16384 + a * 1048576 + b * 67108864
  | .cmpLt p a b => 0x205 + p * 16384 + a * 1048576 + b * 67108864
  | .cmpLe p a b => 0x305 + p * 16384 + a * 1048576 + b * 67108864
  | .cmpLtu p a b => 0x405 + p * 16384 + a * 1048576 + b * 67108864
  | .cmpLeu p a b => 0x505 + p * 16384 + a * 1048576 + b * 67108864
  | .pand d a b => 0x7 + d * 16384 + a * 1048576 + b * 67108864
  | .por d a b => 0x107 + d * 16384 + a * 1048576 + b * 67108864
  | .pxor d a b => 0x207 + d * 16384 + a * 1048576 + b * 67108864
  | .pandn d a b => 0x307 + d * 16384 + a * 1048576 + b * 67108864
  | .pnot d a => 0x407 + d * 16384 + a * 1048576
  | .tagLook d a => 0x91 + d * 16384 + a * 1048576
  | .tagSet d a b => 0x191 + d * 16384 + a * 1048576 + b * 67108864
  | .tagClr d a => 0x291 + d * 16384 + a * 1048576
  | .tagClrAll d => 0x4000291 + d * 16384
  | .hndDef d a b => 0x391 + d * 16384 + a * 1048576 + b * 67108864
  | .hndRelay d a b => 0x491 + d * 16384 + a * 1048576 + b * 67108864
  | .hndQry d a item => 0x591 + d * 16384 + a * 1048576 + item * 67108864
  | .hndDrop d a => 0x691 + d * 16384 + a * 1048576
  | .pageReq d a b => 0x791 + d * 16384 + a * 1048576 + b * 67108864
  | .migrate d a b => 0x891 + d * 16384 + a * 1048576 + b * 67108864
  | .monArm d a b => 0x991 + d * 16384 + a * 1048576 + b * 67108864
  | .monRef d a b => 0xA91 + d * 16384 + a * 1048576 + b * 67108864
  | .monRd d b => 0xB91 + d * 16384 + b * 67108864
  | .monOff d b => 0xC91 + d * 16384 + b * 67108864
  | .nodePost d a b => 0xD91 + d * 16384 + a * 1048576 + b * 67108864
  | .nodeDone d a => 0xE91 + d * 16384 + a * 1048576
  | .frzRd d h b => 0x93 + d * 16384 + h * 1048576 + b * 67108864
  | .frzWr d h b => 0x193 + d * 16384 + h * 1048576 + b * 67108864
  | .frzRes d h => 0x293 + d * 16384 + h * 1048576
  | .frzKill d h => 0x393 + d * 16384 + h * 1048576
  | .frzArr d h b => 0x493 + d * 16384 + h * 1048576 + b * 67108864
  | .frzEsc d h => 0x593 + d * 16384 + h * 1048576
  | .sel d p a b => 0x9 + d * 16384 + p * 256 + a * 1048576 + b * 67108864
  | .addi d a imm => 0x11 + d * 256 + a * 16384 + imm.toNat * 1048576
  | .andi d a imm => 0x13 + d * 256 + a * 16384 + imm.toNat * 1048576
  | .ori d a imm => 0x15 + d * 256 + a * 16384 + imm.toNat * 1048576
  | .xori d a imm => 0x17 + d * 256 + a * 16384 + imm.toNat * 1048576
  | .shli d a n => 0x19 + d * 256 + a * 16384 + n * 1048576
  | .shri d a n => 0x1B + d * 256 + a * 16384 + n * 1048576
  | .sari d a n => 0x1D + d * 256 + a * 16384 + n * 1048576
  | .muli d a imm => 0x1F + d * 256 + a * 16384 + imm.toNat * 1048576
  | .lui d imm => 0x21 + d * 256 + imm.toNat * 16384
  | .cmpiEq p a imm => 0x23 + p * 256 + a * 16384 + imm.toNat * 1048576
  | .cmpiNe p a imm => 0x25 + p * 256 + a * 16384 + imm.toNat * 1048576
  | .cmpiLt p a imm => 0x27 + p * 256 + a * 16384 + imm.toNat * 1048576
  | .cmpiLe p a imm => 0x29 + p * 256 + a * 16384 + imm.toNat * 1048576
  | .cmpiLtu p a imm => 0x2B + p * 256 + a * 16384 + imm.toNat * 1048576
  | .cmpiLeu p a imm => 0x2D + p * 256 + a * 16384 + imm.toNat * 1048576
  | .addpc d imm => 0x2F + d * 256 + imm.toNat * 1048576
  | .pbr t disp => 0x31 + t * 256 + disp.toNat * 1024
  | .pbrr t a imm => 0x33 + t * 256 + a * 16384 + imm.toNat * 1048576
  | .ldB d a cls off => 0x41 + d * 256 + a * 16384 + cls * 1048576 + off.toNat * 16777216
  | .ldH d a cls off => 0x43 + d * 256 + a * 16384 + cls * 1048576 + off.toNat * 16777216
  | .ldW d a cls off => 0x45 + d * 256 + a * 16384 + cls * 1048576 + off.toNat * 16777216
  | .ldD d a cls off => 0x47 + d * 256 + a * 16384 + cls * 1048576 + off.toNat * 16777216
  | .lduB d a cls off => 0x49 + d * 256 + a * 16384 + cls * 1048576 + off.toNat * 16777216
  | .lduH d a cls off => 0x4B + d * 256 + a * 16384 + cls * 1048576 + off.toNat * 16777216
  | .lduW d a cls off => 0x4D + d * 256 + a * 16384 + cls * 1048576 + off.toNat * 16777216
  | .stB d a cls off => 0x51 + d * 256 + a * 16384 + cls * 1048576 + off.toNat * 16777216
  | .stH d a cls off => 0x53 + d * 256 + a * 16384 + cls * 1048576 + off.toNat * 16777216
  | .stW d a cls off => 0x55 + d * 256 + a * 16384 + cls * 1048576 + off.toNat * 16777216
  | .stD d a cls off => 0x57 + d * 256 + a * 16384 + cls * 1048576 + off.toNat * 16777216
  | .fldW d a cls ord nr => 0x61 + d * 256 + a * 16384 + cls * 1048576 + ord.code * 16777216 + nr * 536870912
  | .fldD d a cls ord nr => 0x63 + d * 256 + a * 16384 + cls * 1048576 + ord.code * 16777216 + nr * 536870912
  | .fstW d a cls ord => 0x65 + d * 256 + a * 16384 + cls * 1048576 + ord.code * 16777216
  | .fstD d a cls ord => 0x67 + d * 256 + a * 16384 + cls * 1048576 + ord.code * 16777216
  | .famoW d a cls ord op => 0x69 + d * 256 + a * 16384 + cls * 1048576 + ord.code * 16777216 + op.code * 536870912
  | .famoD d a cls ord op => 0x6B + d * 256 + a * 16384 + cls * 1048576 + ord.code * 16777216 + op.code * 536870912
  | .fenceC mask => 0x71 + mask * 65536
  | .fenceS s => 0x73 + s.code * 256
  | .enq s off one => 0x81 + s * 2048 + off * 16384 + one.toNat * 1024
  | .fork a mask => 0x83 + a * 1048576 + mask * 256
  | .srr d n => 0x95 + d * 256 + n * 1048576
  | .srw n a => 0x97 + n * 1048576 + a * 16384
  | .trap code => 0x99 + code * 1048576
  | .vnop => 0x2
  | .vadd ty wb d a b => 0x3 + ty.code * 4096 + wb.toNat * 16384 + d * 32768 + a * 1048576 + b * 67108864
  | .vsub ty wb d a b => 0x103 + ty.code * 4096 + wb.toNat * 16384 + d * 32768 + a * 1048576 + b * 67108864
  | .vmul ty wb d a b => 0x203 + ty.code * 4096 + wb.toNat * 16384 + d * 32768 + a * 1048576 + b * 67108864
  | .vmin ty wb d a b => 0x303 + ty.code * 4096 + wb.toNat * 16384 + d * 32768 + a * 1048576 + b * 67108864
  | .vmax ty wb d a b => 0x403 + ty.code * 4096 + wb.toNat * 16384 + d * 32768 + a * 1048576 + b * 67108864
  | .vabs ty wb d a => 0x503 + ty.code * 4096 + wb.toNat * 16384 + d * 32768 + a * 1048576
  | .vneg ty wb d a => 0x603 + ty.code * 4096 + wb.toNat * 16384 + d * 32768 + a * 1048576
  | .vcpsgn ty wb d a b => 0x703 + ty.code * 4096 + wb.toNat * 16384 + d * 32768 + a * 1048576 + b * 67108864
  | .vrint ty wb d a => 0x803 + ty.code * 4096 + wb.toNat * 16384 + d * 32768 + a * 1048576
  | .vdiv ty wb d a b => 0x903 + ty.code * 4096 + wb.toNat * 16384 + d * 32768 + a * 1048576 + b * 67108864
  | .vsqrt ty wb d a => 0xA03 + ty.code * 4096 + wb.toNat * 16384 + d * 32768 + a * 1048576
  | .vrcp ty wb d a => 0xB03 + ty.code * 4096 + wb.toNat * 16384 + d * 32768 + a * 1048576
  | .vrsq ty wb d a => 0xC03 + ty.code * 4096 + wb.toNat * 16384 + d * 32768 + a * 1048576
  | .vexp2 ty wb d a => 0xD03 + ty.code * 4096 + wb.toNat * 16384 + d * 32768 + a * 1048576
  | .vlog2 ty wb d a => 0xE03 + ty.code * 4096 + wb.toNat * 16384 + d * 32768 + a * 1048576
  | .vtanh ty wb d a => 0xF03 + ty.code * 4096 + wb.toNat * 16384 + d * 32768 + a * 1048576
  | .vaddI32 wb d a b => 0x3003 + wb.toNat * 16384 + d * 32768 + a * 1048576 + b * 67108864
  | .vsubI32 wb d a b => 0x3103 + wb.toNat * 16384 + d * 32768 + a * 1048576 + b * 67108864
  | .vmulI32 wb d a b => 0x3203 + wb.toNat * 16384 + d * 32768 + a * 1048576 + b * 67108864
  | .vminI32 wb d a b => 0x3303 + wb.toNat * 16384 + d * 32768 + a * 1048576 + b * 67108864
  | .vmaxI32 wb d a b => 0x3403 + wb.toNat * 16384 + d * 32768 + a * 1048576 + b * 67108864
  | .vabsI32 wb d a => 0x3503 + wb.toNat * 16384 + d * 32768 + a * 1048576
  | .vnegI32 wb d a => 0x3603 + wb.toNat * 16384 + d * 32768 + a * 1048576
  | .vmulh wb d a b => 0x3703 + wb.toNat * 16384 + d * 32768 + a * 1048576 + b * 67108864
  | .vand wb d a b => 0x3803 + wb.toNat * 16384 + d * 32768 + a * 1048576 + b * 67108864
  | .vor wb d a b => 0x3903 + wb.toNat * 16384 + d * 32768 + a * 1048576 + b * 67108864
  | .vxor wb d a b => 0x3A03 + wb.toNat * 16384 + d * 32768 + a * 1048576 + b * 67108864
  | .vandn wb d a b => 0x3B03 + wb.toNat * 16384 + d * 32768 + a * 1048576 + b * 67108864
  | .vshl wb d a b => 0x3C03 + wb.toNat * 16384 + d * 32768 + a * 1048576 + b * 67108864
  | .vshr wb d a b => 0x3D03 + wb.toNat * 16384 + d * 32768 + a * 1048576 + b * 67108864
  | .vsar wb d a b => 0x3E03 + wb.toNat * 16384 + d * 32768 + a * 1048576 + b * 67108864
  | .vminu wb d a b => 0x3005 + wb.toNat * 16384 + d * 32768 + a * 1048576 + b * 67108864
  | .vmaxu wb d a b => 0x3105 + wb.toNat * 16384 + d * 32768 + a * 1048576 + b * 67108864
  | .vadds wb d a b => 0x3205 + wb.toNat * 16384 + d * 32768 + a * 1048576 + b * 67108864
  | .vsubs wb d a b => 0x3305 + wb.toNat * 16384 + d * 32768 + a * 1048576 + b * 67108864
  | .vclz wb d a => 0x3405 + wb.toNat * 16384 + d * 32768 + a * 1048576
  | .vpopc wb d a => 0x3505 + wb.toNat * 16384 + d * 32768 + a * 1048576
  | .vmulhu wb d a b => 0x3605 + wb.toNat * 16384 + d * 32768 + a * 1048576 + b * 67108864
  | .vrsum ty wb d a b => 0x7 + ty.code * 4096 + wb.toNat * 16384 + d * 32768 + a * 1048576 + b * 67108864
  | .vrmax ty wb d a b => 0x107 + ty.code * 4096 + wb.toNat * 16384 + d * 32768 + a * 1048576 + b * 67108864
  | .vrmin ty wb d a b => 0x207 + ty.code * 4096 + wb.toNat * 16384 + d * 32768 + a * 1048576 + b * 67108864
  | .vscan ty wb d a b => 0x307 + ty.code * 4096 + wb.toNat * 16384 + d * 32768 + a * 1048576 + b * 67108864
  | .vscmx ty wb d a b => 0x407 + ty.code * 4096 + wb.toNat * 16384 + d * 32768 + a * 1048576 + b * 67108864
  | .vperm ty wb d a b => 0x507 + ty.code * 4096 + wb.toNat * 16384 + d * 32768 + a * 1048576 + b * 67108864
  | .vbcast ty wb d a n => 0x607 + ty.code * 4096 + wb.toNat * 16384 + d * 32768 + a * 1048576 + n * 67108864
  | .vrot ty wb d a n => 0x707 + ty.code * 4096 + wb.toNat * 16384 + d * 32768 + a * 1048576 + n * 67108864
  | .vzip ty wb d a b => 0x807 + ty.code * 4096 + wb.toNat * 16384 + d * 32768 + a * 1048576 + b * 67108864
  | .vunzip ty wb d a b => 0x907 + ty.code * 4096 + wb.toNat * 16384 + d * 32768 + a * 1048576 + b * 67108864
  | .vmov wb d a => 0xA07 + wb.toNat * 16384 + d * 32768 + a * 1048576
  | .vfmaF32 wb d a b c => 0x9 + wb.toNat * 256 + d * 512 + a * 16384 + b * 1048576 + c * 67108864
  | .vfmaBf16 wb d a b c => 0xB + wb.toNat * 256 + d * 512 + a * 16384 + b * 1048576 + c * 67108864
  | .vfmaF16 wb d a b c => 0xD + wb.toNat * 256 + d * 512 + a * 16384 + b * 1048576 + c * 67108864
  | .vfmsF32 wb d a b c => 0xF + wb.toNat * 256 + d * 512 + a * 16384 + b * 1048576 + c * 67108864
  | .vfmsBf16 wb d a b c => 0x11 + wb.toNat * 256 + d * 512 + a * 16384 + b * 1048576 + c * 67108864
  | .vfmsF16 wb d a b c => 0x13 + wb.toNat * 256 + d * 512 + a * 16384 + b * 1048576 + c * 67108864
  | .vfnmaF32 wb d a b c => 0x15 + wb.toNat * 256 + d * 512 + a * 16384 + b * 1048576 + c * 67108864
  | .vfnmaBf16 wb d a b c => 0x17 + wb.toNat * 256 + d * 512 + a * 16384 + b * 1048576 + c * 67108864
  | .vfnmaF16 wb d a b c => 0x19 + wb.toNat * 256 + d * 512 + a * 16384 + b * 1048576 + c * 67108864
  | .vfnmsF32 wb d a b c => 0x1B + wb.toNat * 256 + d * 512 + a * 16384 + b * 1048576 + c * 67108864
  | .vfnmsBf16 wb d a b c => 0x1D + wb.toNat * 256 + d * 512 + a * 16384 + b * 1048576 + c * 67108864
  | .vfnmsF16 wb d a b c => 0x1F + wb.toNat * 256 + d * 512 + a * 16384 + b * 1048576 + c * 67108864
  | .vsacc wb d a b c => 0x21 + wb.toNat * 256 + d * 512 + a * 16384 + b * 1048576 + c * 67108864
  | .vsel wb d p a b => 0x23 + wb.toNat * 256 + d * 512 + p * 67108864 + a * 16384 + b * 1048576
  | .vcmpEq ty p a b => 0x25 + ty.code * 4096 + p * 16384 + a * 1048576 + b * 67108864
  | .vcmpNe ty p a b => 0x125 + ty.code * 4096 + p * 16384 + a * 1048576 + b * 67108864
  | .vcmpLt ty p a b => 0x225 + ty.code * 4096 + p * 16384 + a * 1048576 + b * 67108864
  | .vcmpLe ty p a b => 0x325 + ty.code * 4096 + p * 16384 + a * 1048576 + b * 67108864
  | .vcmpGt ty p a b => 0x425 + ty.code * 4096 + p * 16384 + a * 1048576 + b * 67108864
  | .vcmpGe ty p a b => 0x525 + ty.code * 4096 + p * 16384 + a * 1048576 + b * 67108864
  | .vcmpUn ty p a b => 0x625 + ty.code * 4096 + p * 16384 + a * 1048576 + b * 67108864
  | .vcmpOr ty p a b => 0x725 + ty.code * 4096 + p * 16384 + a * 1048576 + b * 67108864
  | .vcmpLtu p a b => 0x3825 + p * 16384 + a * 1048576 + b * 67108864
  | .vcmpLeu p a b => 0x3925 + p * 16384 + a * 1048576 + b * 67108864
  | .vcmpGtu p a b => 0x3A25 + p * 16384 + a * 1048576 + b * 67108864
  | .vcmpGeu p a b => 0x3B25 + p * 16384 + a * 1048576 + b * 67108864
  | .vcvtBf16F32 rnd wb d a => 0x27 + rnd.code * 4096 + wb.toNat * 16384 + d * 32768 + a * 1048576
  | .vcvtF16F32 rnd wb d a => 0x127 + rnd.code * 4096 + wb.toNat * 16384 + d * 32768 + a * 1048576
  | .vcvtF32Bf16 rnd wb d a => 0x227 + rnd.code * 4096 + wb.toNat * 16384 + d * 32768 + a * 1048576
  | .vcvtF32F16 rnd wb d a => 0x327 + rnd.code * 4096 + wb.toNat * 16384 + d * 32768 + a * 1048576
  | .vcvtI32F32 rnd wb d a => 0x427 + rnd.code * 4096 + wb.toNat * 16384 + d * 32768 + a * 1048576
  | .vcvtF32I32 rnd wb d a => 0x527 + rnd.code * 4096 + wb.toNat * 16384 + d * 32768 + a * 1048576
  | .vcvtBf16F16 rnd wb d a => 0x627 + rnd.code * 4096 + wb.toNat * 16384 + d * 32768 + a * 1048576
  | .vcvtF16Bf16 rnd wb d a => 0x727 + rnd.code * 4096 + wb.toNat * 16384 + d * 32768 + a * 1048576
  | .vlim wb d kind imm => 0x29 + wb.toNat * 1024 + d * 2048 + kind.code * 256 + imm.toNat * 65536
  | .vunpk4 wb d a b => 0x302B + wb.toNat * 16384 + d * 32768 + a * 1048576 + b * 67108864
  | .vunpk8 wb d a b => 0x312B + wb.toNat * 16384 + d * 32768 + a * 1048576 + b * 67108864
  | .vzps wb d a b => 0x322B + wb.toNat * 16384 + d * 32768 + a * 1048576 + b * 67108864
  | .vgbc ty wb d a b => 0x32B + ty * 4096 + wb.toNat * 16384 + d * 32768 + a * 1048576 + b * 67108864
  | .vld wb d g step cls tk => 0x31 + wb.toNat * 524288 + d * 134217728 + g * 4194304 + step * 1048576 + cls * 8192 + tk.code * 256
  | .vldh wb d g step cls tk => 0x33 + wb.toNat * 524288 + d * 134217728 + g * 4194304 + step * 1048576 + cls * 8192 + tk.code * 256
  | .vst p v g step cls tk => 0x35 + p * 131072 + v * 134217728 + g * 4194304 + step * 1048576 + cls * 8192 + tk.code * 256
  | .vsth p v g step cls tk => 0x37 + p * 131072 + v * 134217728 + g * 4194304 + step * 1048576 + cls * 8192 + tk.code * 256
  | .vgath d g vi cls tk => 0x39 + d * 131072 + g * 4194304 + vi * 134217728 + cls * 8192 + tk.code * 256
  | .vscat d g vi cls tk => 0x3B + d * 131072 + g * 4194304 + vi * 134217728 + cls * 8192 + tk.code * 256
  | .vrecv wb d q tk => 0x3D + wb.toNat * 67108864 + d * 134217728 + q * 8388608 + tk.code * 256
  | .vpass wb d a tk => 0x3F + wb.toNat * 67108864 + d * 134217728 + a * 1048576 + tk.code * 256
  | .mnop => 0x2
  | .mlnt g cls tk => 0x3 + g * 67108864 + cls * 8192 + tk.code * 256
  | .mcfg fmt grp q tk => 0x5 + fmt.code * 2097152 + grp * 524288 + q.toNat * 262144 + tk.code * 256
  | .mzp g tk => 0x7 + g * 67108864 + tk.code * 256
  | .mgo a cls tk => 0x9 + a * 16777216 + cls * 8192 + tk.code * 256
  | .mwait tk => 0xB + tk.code * 256
  | .mclr a tk => 0xD + a * 16777216 + tk.code * 256
  | .memit g a out cls tk => 0xF + g * 67108864 + a * 16777216 + out * 4194304 + cls * 8192 + tk.code * 256
  | .mtest tk => 0x11 + tk.code * 256
  | .mrd wb d a row half tk => 0x13 + wb.toNat * 67108864 + d * 134217728 + a * 16777216 + row * 262144 + half * 131072 + tk.code * 256
  | .lnop => 0x2
  | .snop => 0x2
  | .ldc g k nr cls tk => 0x3 + g * 67108864 + k * 8388608 + nr * 1048576 + cls * 8192 + tk.code * 256
  | .ldt g k nr cls tk => 0x5 + g * 67108864 + k * 8388608 + nr * 1048576 + cls * 8192 + tk.code * 256
  | .lfill g k cls tk => 0x7 + g * 67108864 + k * 8388608 + cls * 8192 + tk.code * 256
  | .stc g k cls tk => 0x3 + g * 67108864 + k * 8388608 + cls * 8192 + tk.code * 256
  | .stt g k cls tk => 0x5 + g * 67108864 + k * 8388608 + cls * 8192 + tk.code * 256
  | .sfill g k cls tk => 0x7 + g * 67108864 + k * 8388608 + cls * 8192 + tk.code * 256
  | .kwait mask tk => 0x9 + mask * 16777216 + tk.code * 256
  | .anop => 0x2
  | .aopen g op ty cls tk => 0x3 + g * 67108864 + op.code * 16777216 + ty.code * 4194304 + cls * 8192 + tk.code * 256
  | .apush vi vv tk => 0x5 + vi * 134217728 + vv * 4194304 + tk.code * 256
  | .aflush tk => 0x7 + tk.code * 256
  | .aclose tk => 0x9 + tk.code * 256
  | .fnop => 0x2
  | .fsend a b cls tk => 0x3 + a * 67108864 + b * 1048576 + cls * 8192 + tk.code * 256
  | .frecv a b cls tk => 0x5 + a * 67108864 + b * 1048576 + cls * 8192 + tk.code * 256
  | .fbind a b tk => 0x7 + a * 67108864 + b * 1048576 + tk.code * 256
  | .funbind tk => 0x9 + tk.code * 256
  | .flowDef a cls tk => 0xB + a * 67108864 + cls * 8192 + tk.code * 256
  | .flowDel a tk => 0xD + a * 67108864 + tk.code * 256
  | .flowStat a b cls tk => 0xF + a * 67108864 + b * 1048576 + cls * 8192 + tk.code * 256
  | .collLoad a b cls tk => 0x11 + a * 67108864 + b * 1048576 + cls * 8192 + tk.code * 256
  | .collRun a b cls tk => 0x13 + a * 67108864 + b * 1048576 + cls * 8192 + tk.code * 256
  | .collWait a b cls tk => 0x15 + a * 67108864 + b * 1048576 + cls * 8192 + tk.code * 256
  | .collAbort b tk => 0x17 + b * 1048576 + tk.code * 256
  | .blockCall => 0
  | .resultLanding => 0
  | .tokenRelease => 0
  | .stallWatchdog => 0
  | .phaseCompletion => 0
  | .farRequest => 0
  | .farReply => 0
  | .freeze => 0
  | .nestStep => 0
  | .selfTest => 0
  | .relayoutBlock => 0
  | .transferSlot => 0
  | .copyCompletion => 0
  | .packetLookup => 0
  | .delivery => 0
  | .translationCompletion => 0
  | .atsInvalidation => 0
  | .invalidationCompletion => 0
  | .batchTimer => 0
  | .prgResponse => 0
  | .migrationCommand => 0
  | .migack => 0
  | .framepush => 0
  | .ppatwr => 0
  | .registerWrite => 0
  | .beat => 0
  | .chunk => 0
  | .ringLimit => 0
  | .opStart => 0
  | .opCompletion => 0
  | .done => 0
  | .abortNotice => 0
  | .absent => 0
  | .present => 0
  | .collectiveTimeout => 0
  | .arrive => 0
  | .launchTimeout => 0
  | .fail => 0
  | .replicate => 0
  | .keepAlive => 0
  | .memberLost => 0
  | .sync => 0
  | .pdelayReq => 0
  | .newKeyPair => 0
  | .preempt => 0
  | .contextSave => 0
  | .restore => 0
  | .savepush => 0
  | .drainEnd => 0
  | .qtail => 0
  | .qctl => 0
  | .launch => 0
  | .queueFence => 0
  | .wait => 0
  | .launchCompletion => 0
  | .placement => 0
  | .sensorReading => 0
  | .debugStop => 0
  | .twordRead => 0
  | .dbgatt => 0
  | .dbgstop => 0
  | .dbgres => 0
  | .dbgdataRead => 0
  | .dbgdataWrite => 0
  | .moduleReset => 0
  | .getVersion => 0
  | .getCapabilities => 0
  | .negotiateAlgorithms => 0
  | .getDigests => 0
  | .getCertificate => 0
  | .challenge => 0
  | .getMeasurements => 0
  | .keyExchange => 0
  | .lockInterface => 0
  | .startInterface => 0
  | .stopInterface => 0
  | .partitionCreate => 0
  | .partitionDestroy => 0
  | .tileCheck => 0
  | .temperatureLimit => 0
  | .imageLoad => 0
  | .imageUnload => 0
  | .rowResponse => 0
  | .hostWindowAccess => 0
  | .flqhead => 0
  | .rechead => 0
  | .pageRequestEnable => 0
  | .portLost => 0
  | .trainingComplete => 0
  | .keepAliveInterval => 0
  | .ptpInterval => 0
  | .pdelayResp => 0

/-- How many halfwords the encoding of a word takes: 1 or 2; 0 for an event (03 R60). -/
def encodeLen : Instr → Nat
  | .br _ _ => 1
  | .call _ _ => 1
  | .addiCompact _ _ => 1
  | .nop => 1
  | .yield => 1
  | .retire => 1
  | .ebrk => 1
  | .trig _ => 1
  | .join _ => 1
  | .bar _ => 1
  | .bara _ => 1
  | .barw _ => 1
  | .give _ => 1
  | .take _ => 1
  | .add _ _ _ => 2
  | .sub _ _ _ => 2
  | .mul _ _ _ => 2
  | .mulh _ _ _ => 2
  | .mulhu _ _ _ => 2
  | .div _ _ _ => 2
  | .divu _ _ _ => 2
  | .rem _ _ _ => 2
  | .remu _ _ _ => 2
  | .and _ _ _ => 2
  | .or _ _ _ => 2
  | .xor _ _ _ => 2
  | .andn _ _ _ => 2
  | .shl _ _ _ => 2
  | .shr _ _ _ => 2
  | .sar _ _ _ => 2
  | .min _ _ _ => 2
  | .max _ _ _ => 2
  | .minu _ _ _ => 2
  | .maxu _ _ _ => 2
  | .rol _ _ _ => 2
  | .ror _ _ _ => 2
  | .clz _ _ => 2
  | .popc _ _ => 2
  | .sextw _ _ => 2
  | .zextw _ _ => 2
  | .cmpEq _ _ _ => 2
  | .cmpNe _ _ _ => 2
  | .cmpLt _ _ _ => 2
  | .cmpLe _ _ _ => 2
  | .cmpLtu _ _ _ => 2
  | .cmpLeu _ _ _ => 2
  | .pand _ _ _ => 2
  | .por _ _ _ => 2
  | .pxor _ _ _ => 2
  | .pandn _ _ _ => 2
  | .pnot _ _ => 2
  | .tagLook _ _ => 2
  | .tagSet _ _ _ => 2
  | .tagClr _ _ => 2
  | .tagClrAll _ => 2
  | .hndDef _ _ _ => 2
  | .hndRelay _ _ _ => 2
  | .hndQry _ _ _ => 2
  | .hndDrop _ _ => 2
  | .pageReq _ _ _ => 2
  | .migrate _ _ _ => 2
  | .monArm _ _ _ => 2
  | .monRef _ _ _ => 2
  | .monRd _ _ => 2
  | .monOff _ _ => 2
  | .nodePost _ _ _ => 2
  | .nodeDone _ _ => 2
  | .frzRd _ _ _ => 2
  | .frzWr _ _ _ => 2
  | .frzRes _ _ => 2
  | .frzKill _ _ => 2
  | .frzArr _ _ _ => 2
  | .frzEsc _ _ => 2
  | .sel _ _ _ _ => 2
  | .addi _ _ _ => 2
  | .andi _ _ _ => 2
  | .ori _ _ _ => 2
  | .xori _ _ _ => 2
  | .shli _ _ _ => 2
  | .shri _ _ _ => 2
  | .sari _ _ _ => 2
  | .muli _ _ _ => 2
  | .lui _ _ => 2
  | .cmpiEq _ _ _ => 2
  | .cmpiNe _ _ _ => 2
  | .cmpiLt _ _ _ => 2
  | .cmpiLe _ _ _ => 2
  | .cmpiLtu _ _ _ => 2
  | .cmpiLeu _ _ _ => 2
  | .addpc _ _ => 2
  | .pbr _ _ => 2
  | .pbrr _ _ _ => 2
  | .ldB _ _ _ _ => 2
  | .ldH _ _ _ _ => 2
  | .ldW _ _ _ _ => 2
  | .ldD _ _ _ _ => 2
  | .lduB _ _ _ _ => 2
  | .lduH _ _ _ _ => 2
  | .lduW _ _ _ _ => 2
  | .stB _ _ _ _ => 2
  | .stH _ _ _ _ => 2
  | .stW _ _ _ _ => 2
  | .stD _ _ _ _ => 2
  | .fldW _ _ _ _ _ => 2
  | .fldD _ _ _ _ _ => 2
  | .fstW _ _ _ _ => 2
  | .fstD _ _ _ _ => 2
  | .famoW _ _ _ _ _ => 2
  | .famoD _ _ _ _ _ => 2
  | .fenceC _ => 2
  | .fenceS _ => 2
  | .enq _ _ _ => 2
  | .fork _ _ => 2
  | .srr _ _ => 2
  | .srw _ _ => 2
  | .trap _ => 2
  | .vnop => 1
  | .vadd _ _ _ _ _ => 2
  | .vsub _ _ _ _ _ => 2
  | .vmul _ _ _ _ _ => 2
  | .vmin _ _ _ _ _ => 2
  | .vmax _ _ _ _ _ => 2
  | .vabs _ _ _ _ => 2
  | .vneg _ _ _ _ => 2
  | .vcpsgn _ _ _ _ _ => 2
  | .vrint _ _ _ _ => 2
  | .vdiv _ _ _ _ _ => 2
  | .vsqrt _ _ _ _ => 2
  | .vrcp _ _ _ _ => 2
  | .vrsq _ _ _ _ => 2
  | .vexp2 _ _ _ _ => 2
  | .vlog2 _ _ _ _ => 2
  | .vtanh _ _ _ _ => 2
  | .vaddI32 _ _ _ _ => 2
  | .vsubI32 _ _ _ _ => 2
  | .vmulI32 _ _ _ _ => 2
  | .vminI32 _ _ _ _ => 2
  | .vmaxI32 _ _ _ _ => 2
  | .vabsI32 _ _ _ => 2
  | .vnegI32 _ _ _ => 2
  | .vmulh _ _ _ _ => 2
  | .vand _ _ _ _ => 2
  | .vor _ _ _ _ => 2
  | .vxor _ _ _ _ => 2
  | .vandn _ _ _ _ => 2
  | .vshl _ _ _ _ => 2
  | .vshr _ _ _ _ => 2
  | .vsar _ _ _ _ => 2
  | .vminu _ _ _ _ => 2
  | .vmaxu _ _ _ _ => 2
  | .vadds _ _ _ _ => 2
  | .vsubs _ _ _ _ => 2
  | .vclz _ _ _ => 2
  | .vpopc _ _ _ => 2
  | .vmulhu _ _ _ _ => 2
  | .vrsum _ _ _ _ _ => 2
  | .vrmax _ _ _ _ _ => 2
  | .vrmin _ _ _ _ _ => 2
  | .vscan _ _ _ _ _ => 2
  | .vscmx _ _ _ _ _ => 2
  | .vperm _ _ _ _ _ => 2
  | .vbcast _ _ _ _ _ => 2
  | .vrot _ _ _ _ _ => 2
  | .vzip _ _ _ _ _ => 2
  | .vunzip _ _ _ _ _ => 2
  | .vmov _ _ _ => 2
  | .vfmaF32 _ _ _ _ _ => 2
  | .vfmaBf16 _ _ _ _ _ => 2
  | .vfmaF16 _ _ _ _ _ => 2
  | .vfmsF32 _ _ _ _ _ => 2
  | .vfmsBf16 _ _ _ _ _ => 2
  | .vfmsF16 _ _ _ _ _ => 2
  | .vfnmaF32 _ _ _ _ _ => 2
  | .vfnmaBf16 _ _ _ _ _ => 2
  | .vfnmaF16 _ _ _ _ _ => 2
  | .vfnmsF32 _ _ _ _ _ => 2
  | .vfnmsBf16 _ _ _ _ _ => 2
  | .vfnmsF16 _ _ _ _ _ => 2
  | .vsacc _ _ _ _ _ => 2
  | .vsel _ _ _ _ _ => 2
  | .vcmpEq _ _ _ _ => 2
  | .vcmpNe _ _ _ _ => 2
  | .vcmpLt _ _ _ _ => 2
  | .vcmpLe _ _ _ _ => 2
  | .vcmpGt _ _ _ _ => 2
  | .vcmpGe _ _ _ _ => 2
  | .vcmpUn _ _ _ _ => 2
  | .vcmpOr _ _ _ _ => 2
  | .vcmpLtu _ _ _ => 2
  | .vcmpLeu _ _ _ => 2
  | .vcmpGtu _ _ _ => 2
  | .vcmpGeu _ _ _ => 2
  | .vcvtBf16F32 _ _ _ _ => 2
  | .vcvtF16F32 _ _ _ _ => 2
  | .vcvtF32Bf16 _ _ _ _ => 2
  | .vcvtF32F16 _ _ _ _ => 2
  | .vcvtI32F32 _ _ _ _ => 2
  | .vcvtF32I32 _ _ _ _ => 2
  | .vcvtBf16F16 _ _ _ _ => 2
  | .vcvtF16Bf16 _ _ _ _ => 2
  | .vlim _ _ _ _ => 2
  | .vunpk4 _ _ _ _ => 2
  | .vunpk8 _ _ _ _ => 2
  | .vzps _ _ _ _ => 2
  | .vgbc _ _ _ _ _ => 2
  | .vld _ _ _ _ _ _ => 2
  | .vldh _ _ _ _ _ _ => 2
  | .vst _ _ _ _ _ _ => 2
  | .vsth _ _ _ _ _ _ => 2
  | .vgath _ _ _ _ _ => 2
  | .vscat _ _ _ _ _ => 2
  | .vrecv _ _ _ _ => 2
  | .vpass _ _ _ _ => 2
  | .mnop => 1
  | .mlnt _ _ _ => 2
  | .mcfg _ _ _ _ => 2
  | .mzp _ _ => 2
  | .mgo _ _ _ => 2
  | .mwait _ => 2
  | .mclr _ _ => 2
  | .memit _ _ _ _ _ => 2
  | .mtest _ => 2
  | .mrd _ _ _ _ _ _ => 2
  | .lnop => 1
  | .snop => 1
  | .ldc _ _ _ _ _ => 2
  | .ldt _ _ _ _ _ => 2
  | .lfill _ _ _ _ => 2
  | .stc _ _ _ _ => 2
  | .stt _ _ _ _ => 2
  | .sfill _ _ _ _ => 2
  | .kwait _ _ => 2
  | .anop => 1
  | .aopen _ _ _ _ _ => 2
  | .apush _ _ _ => 2
  | .aflush _ => 2
  | .aclose _ => 2
  | .fnop => 1
  | .fsend _ _ _ _ => 2
  | .frecv _ _ _ _ => 2
  | .fbind _ _ _ => 2
  | .funbind _ => 2
  | .flowDef _ _ _ => 2
  | .flowDel _ _ => 2
  | .flowStat _ _ _ _ => 2
  | .collLoad _ _ _ _ => 2
  | .collRun _ _ _ _ => 2
  | .collWait _ _ _ _ => 2
  | .collAbort _ _ => 2
  | .blockCall => 0
  | .resultLanding => 0
  | .tokenRelease => 0
  | .stallWatchdog => 0
  | .phaseCompletion => 0
  | .farRequest => 0
  | .farReply => 0
  | .freeze => 0
  | .nestStep => 0
  | .selfTest => 0
  | .relayoutBlock => 0
  | .transferSlot => 0
  | .copyCompletion => 0
  | .packetLookup => 0
  | .delivery => 0
  | .translationCompletion => 0
  | .atsInvalidation => 0
  | .invalidationCompletion => 0
  | .batchTimer => 0
  | .prgResponse => 0
  | .migrationCommand => 0
  | .migack => 0
  | .framepush => 0
  | .ppatwr => 0
  | .registerWrite => 0
  | .beat => 0
  | .chunk => 0
  | .ringLimit => 0
  | .opStart => 0
  | .opCompletion => 0
  | .done => 0
  | .abortNotice => 0
  | .absent => 0
  | .present => 0
  | .collectiveTimeout => 0
  | .arrive => 0
  | .launchTimeout => 0
  | .fail => 0
  | .replicate => 0
  | .keepAlive => 0
  | .memberLost => 0
  | .sync => 0
  | .pdelayReq => 0
  | .newKeyPair => 0
  | .preempt => 0
  | .contextSave => 0
  | .restore => 0
  | .savepush => 0
  | .drainEnd => 0
  | .qtail => 0
  | .qctl => 0
  | .launch => 0
  | .queueFence => 0
  | .wait => 0
  | .launchCompletion => 0
  | .placement => 0
  | .sensorReading => 0
  | .debugStop => 0
  | .twordRead => 0
  | .dbgatt => 0
  | .dbgstop => 0
  | .dbgres => 0
  | .dbgdataRead => 0
  | .dbgdataWrite => 0
  | .moduleReset => 0
  | .getVersion => 0
  | .getCapabilities => 0
  | .negotiateAlgorithms => 0
  | .getDigests => 0
  | .getCertificate => 0
  | .challenge => 0
  | .getMeasurements => 0
  | .keyExchange => 0
  | .lockInterface => 0
  | .startInterface => 0
  | .stopInterface => 0
  | .partitionCreate => 0
  | .partitionDestroy => 0
  | .tileCheck => 0
  | .temperatureLimit => 0
  | .imageLoad => 0
  | .imageUnload => 0
  | .rowResponse => 0
  | .hostWindowAccess => 0
  | .flqhead => 0
  | .rechead => 0
  | .pageRequestEnable => 0
  | .portLost => 0
  | .trainingComplete => 0
  | .keepAliveInterval => 0
  | .ptpInterval => 0
  | .pdelayResp => 0

/-- The halfwords of a word, the first at the lower address (03 R60). -/
def encode (i : Instr) : List Half :=
  match encodeLen i with
  | 1 => [BitVec.ofNat 16 (encodeNat i)]
  | 2 => [BitVec.ofNat 16 (encodeNat i), BitVec.ofNat 16 (encodeNat i / 65536)]
  | _ => []

/-- The word at the head of a list of halfwords, with how many it takes. -/
def decodeAt (st : Stream) : List Half → Except Nat (Instr × Nat)
  | [] => .error 7
  | h0 :: rest =>
    match decodeWord st h0 rest.head? with
    | .ok i => .ok (i, wordLen h0)
    | .error r => .error r

/-- The first of the streams, in the order of their codes C, V, M, L, S, A, F, whose decoder accepts the word, with
the instruction it reads (log entry 2: the table's numbering of words names no stream, and words of different streams
share their bits). -/
def firstStream (w : Nat) : List Stream → Option (Stream × Instr)
  | [] => none
  | st :: rest =>
    match decodeBits st w with
    | .ok i => some (st, i)
    | .error _ => firstStream w rest

/-- The bits of a word as the table numbers them: the low `nbits` bits, and 16 bits alone for a 16-bit word (03 R60). -/
def tableBits (nbits w : Nat) : Nat :=
  if w % 2 == 0 then w % 2 ^ nbits % 65536 else w % 2 ^ nbits % 4294967296

/-- All seven streams in the order of their codes. -/
def allStreams : List Stream := [.C, .V, .M, .L, .S, .A, .F]

/-- The instruction the decoder reads from a word whose bits are `w`, numbered as the opcode table numbers them. -/
def decodeTableWord (nbits w : Nat) : Option Instr :=
  (firstStream (tableBits nbits w) allStreams).map Prod.snd

end Sys2Proof
end

