-- ==== Sys2Proof/Config.lean ====
section
/-!
DEFINITION. What an implementation fixes and the manual leaves open: constants of the part, and free values that
have no body, so that nothing in Lean can evaluate one or prove a value of one (log entries 20, 21).
-/
namespace Sys2Proof.Config

/-- A draw of an atomic unit: which of the values a location held within the last 1000 ns a speculative FLD returns, which
FAMOs it merges or batches, and in which order a batch hands out its values (14 R341, R342). DESIGN CHOICE (log entry 20):
a free value, applied to the counter of draws that the state holds; safe. -/
opaque freeChoice : Nat → Nat

/-- The flits that the buffer of a link direction holds (12 R305 gives no size). DESIGN CHOICE (log entry 89): a free
value; safe. -/
opaque linkFlits : Nat

/-- What a field of the header of a result in flight holds where the word has no such thing: the latch number of a
compare or an MRD, and the register of a compare (19 R431). DESIGN CHOICE (log entry 69): a free value of the word's
number and the field; safe. -/
opaque flightField : Nat → Nat → Nat

/-- An ML-DSA-44 signature of a message under the key a seed names (25 R497, R500). Log entry 21; safe. -/
opaque sign : List Byte → List Byte → List Byte

/-- Whether an ML-DSA-44 signature of a message verifies under a public key (25 R497). Log entry 21; safe. -/
opaque verify : List Byte → List Byte → List Byte → Bool

/-- The seed of the device identity key derived from the fused secret and slots 0 and 1 (25 R499). Log entry 21; safe. -/
opaque identitySeed : List Byte → List Byte → List Byte

/-- The public key of a seed (25 R499). Log entry 21; safe. -/
opaque publicKey : List Byte → List Byte

/-- The certificate the security engine signs for a public key (25 R499). Log entry 21; safe. -/
opaque certificate : List Byte → List Byte

/-- The fused unique secret of the part (25 R499). Log entry 21; safe. -/
opaque fusedSecret : List Byte

/-- The fused digest of the vendor's public key (25 R497). Log entry 21; safe. -/
opaque fusedDigest : List Byte

/-- The fused minimum security version (25 R497). Log entry 21; safe. -/
opaque fusedVersion : Nat

/-- A key pair agreed by KEY_EXCHANGE or a partition key, from the count of keys drawn (25 R502, R503). Log entry 21; safe. -/
opaque key : Nat → List Byte

/-- The partitions that the image of a partition plan holds: for each its number, its quads, and its other items in the order
of their table (23 R464; 25 R504). The layout of the image is not given. Log entry 21; safe. -/
opaque planOf : List Byte → List (Nat × List Nat × List Nat)

/-- The bytes of a partition's configuration that a report digests, from its quads and its other items in the order of their
table (23 R464; 25 R500). Their layout is not given. Log entry 21; safe. -/
opaque cfgBytes : List Nat → List Nat → List Byte

/-- The body of an answer to an SPDM request, by its code and the request's bytes (25 R500). Its layout is that of SPDM 1.3.
Log entry 21; safe. -/
opaque spdmBody : Nat → List Byte → List Byte

/-- A 32-byte sector of HBM as it is stored: encrypted with AES-256-XTS under a key, with the number of the sector as its tweak
(25 R502). Log entry 21; safe. -/
opaque xts : List Byte → Nat → List Byte → List Byte

/-- An area sealed with AES-256-GCM under a key (19 R443). Log entry 21; safe. -/
opaque sealArea : List Byte → List Byte → List Byte

end Sys2Proof.Config
end

