-- ==== Sys2Proof/Machine/State.lean ====
section
/-!
DEFINITION. The state of one Tamvy 7 module as plain data: every tile with its threads and memories, the routers, the
dies, the hub with its translation units, collectives and fabric ports, HBM and host memory, the partitions with their
tables and queues, debug, time, security and health; the reasons a step can stop; and the state after module reset.
A context that holds no thread, a partition that is not created and a table entry that is not live are absent from
their lists, as the manual's own unoccupied units.
-/
namespace Sys2Proof.Machine

/-! ## Threads: queues, words in flight, freezes -/

/-- An entry of an engine queue: a block header or a single word, its repeat count, and the command index at which it
was pushed (04 R96, R97). -/
structure QEntry where
  off : Nat := 0
  one : Bool := false
  cnt : Nat := 1
  cmd : BitVec 32 := 0
  deriving DecidableEq, Repr

/-- A block call in expansion: the entry, the length and count in force, the position, and the progress of a long word
with the lanes it read at issue, the lanes it has gathered and the bytes of its row it has written (03 R67, 07 R192,
08 R212, 10 R261). -/
structure Call where
  entry : QEntry := {}
  len : Nat := 0
  rep : Nat := 1
  mpc : Nat := 0
  iter : Nat := 0
  left : Bool := false
  prog : Nat := 0
  held : Bool := false
  base : Nat := 0
  snapA : Row := []
  snapB : Row := []
  got : Row := []
  part : Nat := 0
  wid : Nat := 0
  deriving DecidableEq, Repr

/-- A word that has issued, until it and every earlier word of its stream have retired; `push` is the stream its token
goes to, and before network cycle `due` some earlier local load of the C stream has yet to retire (04 R99, R105;
05 R141). -/
structure Issued where
  wid : Nat := 0
  retired : Bool := false
  push : Option Nat := none
  due : Nat := 0
  deriving DecidableEq, Repr

/-- One engine stream of a thread (04 R96, R97). `back` says that results saved at a freeze wait for the engine to
serve the thread again (19 R420), `leftAt` the network cycle after that in which entries last left, with how many did
(R98). -/
structure EngStream where
  queue : List QEntry := []
  next : BitVec 32 := 0
  call : Option Call := none
  words : List Issued := []
  back : Bool := false
  leftAt : Nat × Nat := (0, 0)
  deriving DecidableEq, Repr

/-- A V or M result in flight: where it lands and when, as a cycle, or as remaining cycles once `rel` is set
(07 R173, R175; 19 R420). A cancelled one keeps its place with `gone` set until the thread goes on (19 R432); `pos` is the
mPC and the command index of its word (24 R486). -/
structure InFlight where
  wid : Nat := 0
  stream : Nat := 1
  latch : Option Nat := none
  reg : Nat := 0
  wb : Bool := false
  pred : Option Nat := none
  row : Row := []
  mask : Word := 0
  due : Nat := 0
  rel : Bool := false
  gone : Bool := false
  pos : Nat × Nat := (0, 0)
  deriving DecidableEq, Repr

/-- A fault with what the frozen record says of it (19 R416, R423, R424). -/
structure FaultRec where
  code : Nat := 0
  engine : Nat := 0
  defer : Bool := false
  async : Bool := false
  held : Bool := false
  cmd : BitVec 32 := 0
  lo : Word := 0
  addr : Word := 0
  prog : Nat := 0
  deriving DecidableEq, Repr

/-- A freeze of a thread, from the fault or interrupt until resumption: the cut, the fault if any, the interrupt
pending (0 none, 1 pre-emption, 2 debug stop), whether the record is closed and which tiller context serves it
(19 R418-R425, R438-R440; 24 R490). `failing` is the stream whose word has failed or stands at a breakpoint, and `stops`
are the streams that issue nothing more even before the cut. `raisedAt` is the network cycle of the recorded fault, and
`was` says that the thread had come to rest for an interrupt before it (R439, R447). `behind` is the interrupt that waits
behind the one that is pending or taken (24 R496). -/
structure Freeze where
  fault : Option FaultRec := none
  failing : Option Nat := none
  stops : List Nat := []
  raisedAt : Nat := 0
  was : Bool := false
  cut : Nat := 0
  pending : Nat := 0
  behind : Nat := 0
  taken : Nat := 0
  ns : Word := 0
  closed : Bool := false
  tiller : Option Nat := none
  record : List Word := []
  deriving DecidableEq, Repr

/-- The window of the scatter-accumulate engine, with the updates of a completed list still to perform, and the misaligned
base that an AOPEN at issue has read while they do (08 R208, R211, R213). -/
structure Window where
  isOpen : Bool := false
  base : Nat := 0
  op : Nat := 0
  ty : Nat := 0
  cls : Nat := 0
  list : List (Nat × Lane) := []
  doing : List (Nat × Row) := []
  bad : Option Nat := none
  deriving DecidableEq, Repr

/-- The shadow of the nest state: the table of 128 bytes, whether one has been loaded, the configuration and the zero
points (10 R239). -/
structure Shadow where
  table : List Byte := []
  loaded : Bool := false
  fmt : Nat := 0
  grp : Nat := 0
  queue : Bool := false
  za : Nat := 0xFFFF
  zb : Nat := 0xFFFF
  deriving DecidableEq, Repr

/-- Where an active nest stands (10 R247, R251). -/
inductive NestPhase where
  | start | steps | drain | test | paused
  deriving DecidableEq, Repr

/-- The active nest of a thread: the copy of the shadow, the base set, the steps done and in all, the MGO that started
it, its class, its phase with the cycle in which the phase ends, the handles it holds, and since which cycle it waits for
the array after a resumption (10 R239, R240, R242, R246). -/
structure Nest where
  cfg : Shadow := {}
  set : Nat := 0
  p : Nat := 0
  total : Nat := 0
  cmd : BitVec 32 := 0
  mpc : Nat := 0
  cls : Nat := 0
  phase : NestPhase := .start
  due : Nat := 0
  refs : List Nat := []
  since : Nat := 0
  deriving DecidableEq, Repr

/-- The states of a copy token (11 R279). -/
inductive TokSt where
  | idle | busy | done
  deriving DecidableEq, Repr

/-- A row of a copy whose source elements have been read: its number, its elements with their poison, and the places of
those that a peer module still has to bring (11 R274, 17 R382). A row that is `gone` will be asked for again, since the
copy stopped before it: what the peer brings for it is discarded (11 R275). -/
structure RowWait where
  row : Nat := 0
  vals : List (Nat × Bool) := []
  peers : List Nat := []
  gone : Bool := false
  deriving DecidableEq, Repr

/-- A copy in flight: which word started it, its control block, the row and slot it has reached, the elements read of
the current row, the rows whose writes are still to be dispatched, the writes a peer has yet to acknowledge, by row and
virtual address, the rows that read non-resident, and what holds it (11 R268-R278). `held` is as in FarReq, for page
`page`. -/
structure Copy where
  stream : Nat := 3
  kind : Nat := 0
  cls : Nat := 0
  k : Nat := 0
  nr : Nat := 0
  cmd : BitVec 32 := 0
  mpc : Nat := 0
  wid : Nat := 0
  cb : Word := 0
  shnd : Nat := 0xFFFF
  dhnd : Nat := 0xFFFF
  bar : Nat := 0xFF
  fmt : Nat := 0
  laddr : Nat := 0
  so : List Nat := []
  dst : List Nat := []
  ext : List Nat := []
  row : Nat := 0
  slot : Nat := 0
  buf : RowWait := {}
  resp : List RowWait := []
  acks : List (Nat × Nat) := []
  nonres : List Nat := []
  issued : Bool := false
  arrived : Bool := false
  stopped : Bool := false
  logs : List Nat := []
  forced : Option (List Word) := none
  held : Nat := 0
  page : Nat := 0
  refs : List Nat := []
  deriving DecidableEq, Repr

/-- One data flit with its poison bit (12 R287). -/
structure Flit where
  bytes : List Byte := []
  poison : Bool := false
  deriving DecidableEq, Repr

/-- Where a packet is: at the router of a tile, in the hub bound for a tile's die, at its destination tile, at the
home of a dkind-3 delivery, or waiting in an entry (12 R289, R295, R304). -/
inductive PktAt where
  | router (tile : Nat)
  | hub
  | tile (tile : Nat)
  | home
  deriving DecidableEq, Repr

/-- A packet of the flow channel (12 R287, R288). `loc` is where its head is, and `behind` the places of the flits that have
yet to follow, nearest first: the place, the link whose buffer holds them there, and their number (R305). `link` numbers the link it came in by, `org` is the router its route
starts from, and `due` the network cycle from which it can move on (R304-R306). `fresh` says that an action of this
router made it, so that it is looked up first at the next one (R295), `made` that a COMBINE or SCAN made it (24 R493).
`tr` holds the pages translated at FSEND with their targets, `vf`, `pasid`, `team`, `member` and `launch` those of the sender, `cmd`,
`mpc` and `wid` the FSEND's, and `entered` the flits already delivered; `held` is as in FarReq, for page `page`. `sent` says
that a peer has yet to perform what was sent it, from address `peerVa` on (17 R382). -/
structure Packet where
  flow : Nat := 0
  part : Nat := 0
  dkind : Nat := 0
  mcast : Bool := false
  src : Nat := 0
  sctx : Nat := 0
  cls : Nat := 0
  seq : BitVec 32 := 0
  gen : BitVec 32 := 0
  len : Nat := 1
  q : Nat := 0
  dctx : Nat := 0
  dtile : Nat := 0
  rlo : Nat := 0
  rhi : Nat := 0
  err : Bool := false
  addr : Nat := 0
  dv : Nat := 0
  flag : Nat := 0
  data : List Flit := []
  loc : PktAt := .hub
  link : Nat := 0
  org : Nat := 0
  due : Nat := 0
  fresh : Bool := false
  made : Bool := false
  tr : List (Nat × Nat) := []
  vf : Nat := 0
  pasid : Nat := 0
  held : Nat := 0
  page : Nat := 0
  cmd : BitVec 32 := 0
  mpc : Nat := 0
  entered : Nat := 0
  byRouter : Bool := false
  sent : Bool := false
  peerVa : Nat := 0
  team : Nat := 0
  member : Nat := 0
  launch : Nat := 0
  wid : Nat := 0
  behind : List (PktAt × Nat × Nat) := []
  deriving DecidableEq, Repr

/-- A packet in a receive queue: how many of its data flits have arrived and how many VRECV has taken (12 R291). -/
structure RxPkt where
  pkt : Packet := {}
  arrived : Nat := 0
  taken : Nat := 0
  deriving DecidableEq, Repr

/-- The binding of a thread's M result queue to a peer's operand queue (12 R312). -/
structure Binding where
  peer : Nat := 0
  flow : Nat := 0
  credits : Nat := 16384
  seq : BitVec 32 := 0
  deriving DecidableEq, Repr

/-- The M queues of a thread and its bindings at both ends (12 R312). -/
structure MQueues where
  result : List Row := []
  operand : List Byte := []
  bound : Option Binding := none
  boundBy : Option Nat := none
  deriving DecidableEq, Repr

/-- What a translation answered for an access: the target address and whether its home is the HBM of this module, a
peer's window or host memory; `got` is what a peer has answered to a read of a unit of the hub (16 R356, 17 R382). -/
inductive Home where
  | hbm (off : Nat)
  | peer (module pa : Nat)
  | host (pa : Nat)
  | got (bytes : List Byte) (bad : Bool)
  deriving DecidableEq, Repr

/-- What a translation cache or an agent knows of an access: nothing yet, a refusal, or the target with its permissions
(16 R355). -/
inductive Xlat where
  | miss
  | refused
  | page (target : Nat) (r w : Bool)
  deriving DecidableEq, Repr

/-- Which unit of the hub makes an access at a peer's window: the relayout of a handle with its order of acceptance, the
migration of a number, an op of a run of a flow with its generation, or another one (17 R382). -/
inductive HubUnit where
  | other
  | relay (handle order : Nat)
  | mig (num : BitVec 32)
  | run (flow : Nat) (gen : BitVec 32) (op : Nat)
  deriving DecidableEq, Repr

/-- An access of a unit of the hub at a peer's window that the peer has yet to answer: its partition, module, physical
address and bytes, the page that it translated, its number and its unit; once the peer has refused a write, `cause` is
the cause of the fault (16 R364; 17 R382). -/
structure HubAccess where
  part : Nat := 0
  module : Nat := 0
  addr : Nat := 0
  size : Nat := 0
  pasid : Nat := 0
  va : Nat := 0
  no : Nat := 0
  unit : HubUnit := .other
  cause : Nat := 0
  deriving DecidableEq, Repr

/-- What a unit of the hub learns of an access: it waits, its home, or the cause of an access-permission fault
(16 R355, R357). -/
inductive HubAns where
  | wait
  | home (h : Home)
  | fault (cause : Nat)
  deriving DecidableEq, Repr

/-- An outstanding far request (12 R317-R322). `held` is 0 while its page lets it perform, 1 while it stands in its die's
hold list, 2 there when an invalidation lets it be translated again, 3 when a PRG response does (16 R355, R358), and 4
once it has left that list for a peer module, where it has yet to perform (14 R339);
`logs` are the places in the log ring that its records take, `forced` and `forcedNr` what a replay gives it
(24 R493, R494). -/
structure FarReq where
  kind : Nat := 0
  size : Nat := 4
  va : Nat := 0
  op : FOp := .add
  b : Word := 0
  c : Word := 0
  reg : Nat := 0
  nr : Nat := 0
  cls : Nat := 0
  ord : Order := .rlx .unpaired
  failAcq : Bool := false
  pc : Word := 0
  wid : Nat := 0
  nc : Nat := 0
  home : Option Home := none
  nonres : Bool := false
  held : Nat := 0
  sent : Bool := false
  done : Bool := false
  replied : Bool := false
  value : Word := 0
  poison : Bool := false
  logs : List Nat := []
  forced : Option Word := none
  forcedNr : Option Bool := none
  deriving DecidableEq, Repr

/-- The recording state of a thread (24 R495). -/
structure Rec where
  mode : Nat := 0
  div : Bool := false
  count : BitVec 32 := 0
  deriving DecidableEq, Repr

/-- The classes of a stream head (24 R483); `stuck` is a busy head whose wait the stall watchdog counts: a push into the
full queue of stream 1 to 6, a JOIN (7), an MRD waiting for credit (8) (04 R112). -/
inductive Head where
  | issuing | flag (n : Nat) | busy | stuck (n : Nat) | empty
  deriving DecidableEq, Repr

/-- Which team, node and launch a thread belongs to, and the priority of its queue at its placement (05 R123, R124; 23
R478). -/
structure Ident where
  part : Nat := 0
  launch : Nat := 0
  node : Nat := 0
  team : Nat := 0
  member : Nat := 0
  vf : Nat := 0
  pasid : Nat := 0
  image : Nat := 0
  ldw : Nat := 1
  stw : Nat := 1
  prio : Nat := 0
  deriving DecidableEq, Repr

/-- The system registers that a thread holds for itself (05 R122, R125). -/
structure ThreadRegs where
  args : Word := 0
  spbase : Word := 0
  spsize : Word := 0
  sbbase : Word := 0
  sbsize : Word := 0
  dbg : Bool := false
  dzen : Bool := false
  deriving DecidableEq, Repr

/-- The control registers of a context: g, p, t and the macro PC (05 R117). An unlisted register of these tables reads
zero; p0 reads all ones through the accessor. -/
structure CRegs where
  g : SMap Word := []
  p : SMap Word := []
  t : SMap Word := []
  pc : Word := 0
  deriving DecidableEq, Repr

/-- The engine registers of an application context: v, latches, accumulators, copy tokens (05 R117, 10 R238, 11 R279).
Accumulator element (i, j) of set s has the key s * 8192 + i * 128 + j. -/
structure ERegs where
  v : SMap Row := []
  b : SMap Row := []
  acc : SMap Lane := []
  k : SMap TokSt := []
  deriving DecidableEq, Repr

/-- One occupied thread context (04 R92-R96). A `dying` thread has been killed and keeps its context until what it
started has come to its end (08 R197, 11 R282). A FIFO from X to Y has the key X * 7 + Y; `rsv` counts places reserved
(R105) and `pops` holds the cycle after that of a FIFO's last pop (R107). `held` are deferred faults in arrival order (19 R419). `cprog` is the progress of a C word that waits part
way; `yieldTo` the network cycle up to which a YIELD keeps the context out, with the contexts it waits for and
the C words each had issued (05 R144); `cn` counts the C words issued. `noMatch` are the streams whose words breakpoints stopped, until they issue (24 R491). `kn` counts the words issued. `rxFreed` holds, for a receive queue, the
network cycle in which places were last freed and how many (12 R291). `gReady` holds the network cycle from which a later
C word may name the register that a local load or a tag word wrote (05 R141; 08 R205), and `replied` the network cycle after that in which a
far reply last wrote a register, predicates with 64 added (19 R432); `vAt` holds the cycle after that in which a V word
last landed on a register (10 R263). `pEng` are
the predicate bits that engine words wrote last, as register, network cycle, stream and bits (05 R120). -/
structure Thread where
  id : Ident := {}
  sr : ThreadRegs := {}
  c : CRegs := {}
  e : ERegs := {}
  eng : SMap EngStream := []
  cwords : List Issued := []
  fifo : SMap Nat := []
  rsv : SMap Nat := []
  pops : SMap Nat := []
  fly : List InFlight := []
  tags : SMap (BitVec 32) := []
  win : Window := {}
  shadow : Shadow := {}
  nest : Option Nest := none
  steps : Nat := 0
  emitRows : Nat := 64
  emitCols : Nat := 128
  copies : List Copy := []
  rx : SMap (List RxPkt) := []
  rxFreed : SMap (Nat × Nat) := []
  mq : MQueues := {}
  far : List FarReq := []
  frz : Option Freeze := none
  held : List FaultRec := []
  arrivals : List Nat := []
  dying : Bool := false
  stallNs : Nat := 0
  heads : SMap Head := []
  yieldTo : Option (Nat × List (Nat × Nat)) := none
  cn : Nat := 0
  tReady : SMap Nat := []
  gReady : SMap Nat := []
  replied : SMap Nat := []
  vAt : SMap Nat := []
  cprog : Nat := 0
  noMatch : List Nat := []
  replay : Rec := {}
  kn : Nat := 0
  tillerOf : Option Nat := none
  capValid : Bool := false
  pEng : List (Nat × Nat × Nat × Word) := []
  startAt : Nat := 0
  deriving DecidableEq, Repr

/-! ## Tiles -/

/-- A conservation monitor that is armed (21 R453). `scan` is the number of fields that the scan has read; `acc0` and
`nf0` are its totals at the end of the network cycle before, and `refOld` the reference before the last MON.REF with
the network cycle after that word's in `refAt`: what a snapshot of this cycle takes (R455, R457). `dst` and `wid` are the register and the number of the MON.ARM, which retires after the scan (R458). -/
structure Monitor where
  owner : Nat := 0
  base : Nat := 0
  count : Nat := 0
  stride : Nat := 0
  foff : Nat := 0
  fmt : Nat := 0
  bar : Nat := 0
  bound : Lane := 0
  upd : Bool := false
  scan : Nat := 0
  acc : Total := 0
  nf : Nat := 0
  acc0 : Total := 0
  nf0 : Nat := 0
  ref : Total := 0
  refOld : Total := 0
  refAt : Nat := 0
  d : Lane := 0
  dst : Nat := 0
  wid : Nat := 0
  deriving DecidableEq, Repr

/-- The matrix array of a tile: which context's nest occupies it, the context whose MGO waits for it with the cycle since
which it does, the health fields of sr.mhealth, and the sub-arrays that the next self-test finds failing (10 R240, R251,
R262, R266). -/
structure ArraySt where
  occupant : Option Nat := none
  asked : Option (Nat × Nat) := none
  off : Bool := false
  fuse : Bool := true
  spare : Bool := false
  sgrp : Nat := 0
  fenced : Nat := 0
  sfail : Bool := false
  tests : Nat := 0
  fails : Nat := 0
  bad : List Nat := []
  deriving DecidableEq, Repr

/-- An engine shared by the tile's application threads: the context in whose block call it is, the last one served, and
the team and member of the thread whose block call it last ran (04 R108, R109). -/
structure EngArb where
  owner : Option Nat := none
  last : Nat := 3
  ran : Option (Nat × Nat) := none
  deriving DecidableEq, Repr

/-- A translation held in a cache: PASID, virtual range, target and permissions; an agent also holds negative
(no permission) and refused entries (16 R352, R355). -/
structure XEntry where
  pasid : Nat := 0
  base : Nat := 0
  size : Nat := 4096
  target : Nat := 0
  r : Bool := false
  w : Bool := false
  refused : Bool := false
  deriving DecidableEq, Repr

/-- The trace buffer of a tile by 8-byte words, with its controls. `evs` are the records of this network cycle's events, each
under context × 8 + stream code, and `trigs` those of the triggers asserted in it, which its end takes (24 R486-R489). -/
structure Trace where
  buf : SMap Word := []
  ctl : Word := 0
  lost : Nat := 0
  wrapped : Bool := false
  next : Nat := 0
  tidx : Nat := 0
  post : Option Nat := none
  evs : List (Nat × List Word) := []
  trigs : List (Nat × List Word) := []
  deriving DecidableEq, Repr

/-- The tile's profiling counters and breakpoints, and for each counter the network cycle of the last software write
with the value it replaced (24 R485, R491; 00 R10). -/
structure Prof where
  cfg : SMap Word := []
  cnt : SMap Word := []
  bpt : SMap Word := []
  wrote : SMap (Nat × Word) := []
  deriving DecidableEq, Repr

/-- Counters of a tile for each partition: flowtransit, the four flowdrop fields, and two of xlstat (12 R323, 16 R378). -/
structure PartCount where
  transit : Nat := 0
  bound : Nat := 0
  undeliv : Nat := 0
  late : Nat := 0
  error : Nat := 0
  nres : Nat := 0
  refused : Nat := 0
  deriving DecidableEq, Repr

/-- One tile: its memories by local address, the poisoned words by their addresses, the memory counters of sr.lmcount,
the array, the arbiters, the monitors, the translation cache (most recently used first), the tiller list, trace and
profile (08 R195, R203, R217; 16 R352; 19 R427, R448; 21 R452, R460). -/
structure Tile where
  mem : Memory := []
  poison : List Nat := []
  spcorr : Nat := 0
  sbcorr : Nat := 0
  uncorr : Nat := 0
  pdrop : Nat := 0
  arr : ArraySt := {}
  eng : SMap EngArb := []
  coreLast : Nat := 5
  coreAt : Option Nat := none
  port : Nat := 0
  mons : SMap Monitor := []
  monFails : Nat := 0
  monChecks : Nat := 0
  cache : List XEntry := []
  pendList : List Nat := []
  esc : Nat := 0
  faults : Nat := 0
  trace : Trace := {}
  prof : Prof := {}
  parts : SMap PartCount := []
  deriving DecidableEq, Repr

/-- The copy streamer of a quad: the queue whose turn it is (tile * 12 + context * 2 + side) and the transfer slots left
in that turn; at reset it counts the last queue of the module as served (04 R110; log entry 13). -/
structure Streamer where
  left : Nat := 0
  last : Nat := 6911
  deriving DecidableEq, Repr

/-! ## Dies and the hub -/

/-- A page in the open batch or in a group awaiting its response; `hub` says that a unit of the hub waits for it
(16 R359). -/
structure PageReq where
  vf : Nat := 0
  part : Nat := 0
  pasid : Nat := 0
  page : Nat := 0
  w : Bool := false
  hub : Bool := false
  deriving DecidableEq, Repr

/-- A page-request group: its records are written, and it awaits its messages or the host's response (16 R359, R360). -/
structure PrgGroup where
  vf : Nat := 0
  idx : Nat := 0
  pages : List PageReq := []
  deriving DecidableEq, Repr

/-- An invalidation that an agent serves: what it removed, and the accesses, by thread and word, that used it, with the
numbers of those of the hub's units (16 R364). -/
structure Inval where
  pasid : Option Nat := none
  va : Nat := 0
  size : Nat := 0
  waits : List (Nat × Nat) := []
  hub : List Nat := []
  deriving DecidableEq, Repr

/-- A node in a pool, by launch and index, with the counter value when it entered (23 R471, R475). -/
structure PoolNode where
  launch : Nat := 0
  node : Nat := 0
  part : Nat := 0
  ns : Nat := 0
  team : Option Nat := none
  deriving DecidableEq, Repr

/-- What the pool of a die does next: place a node on tiles, or reserve a region for it (23 R475). -/
inductive PoolMove where
  | place (n : PoolNode) (ts : List Nat)
  | reserve (n : PoolNode) (ts : List Nat)
  deriving DecidableEq, Repr

/-- A region reserved for a node (23 R475). -/
structure Region where
  launch : Nat := 0
  node : Nat := 0
  part : Nat := 0
  tiles : List Nat := []
  deriving DecidableEq, Repr

/-- Batcher counters of a die for a partition (16 R378). -/
structure PrCount where
  pages : Nat := 0
  groups : Nat := 0
  deriving DecidableEq, Repr

/-- One die: its translation agent (most recently used first), the requests outstanding, the batcher, the hold list,
the invalidations, the ready pool (16 R352-R364, 23 R471). `queued` are the misses that wait for a request to complete (R353), `miss` the tile-cache
misses by tile * 32 + partition (R378), and `missed` the pages whose miss a tile has counted and whose answer it waits
for. `ready` are the groups of the closed batch whose records are written and whose messages are still to be sent (R359). Unit 4 stands for the hub's own cache and requests; its `granted` are the pages that a PRG response has granted to a
unit of the hub, and `told` the answers without a permission that a waiting access has yet to take (R352, R355). -/
structure Die where
  agent : List XEntry := []
  reqs : List (Nat × Nat) := []
  stale : List (Nat × Nat) := []
  queued : List (Nat × Nat × Nat) := []
  miss : SMap Nat := []
  missed : List (Nat × Nat × Nat) := []
  told : List XEntry := []
  batch : List PageReq := []
  batchNs : Nat := 0
  closed : List PageReq := []
  ready : List PrgGroup := []
  groups : List PrgGroup := []
  granted : List (Nat × Nat) := []
  hold : Nat := 0
  invals : List Inval := []
  pool : List PoolNode := []
  regions : List Region := []
  prs : SMap PrCount := []
  deriving DecidableEq, Repr

/-- A fabric port (17 R380, R381; 25 R503): whether it carries beats, the key and the beat count of each direction, with no
key as 0, whether this module has attested itself to the module at the other end, the virtual channels on which the neighbour
has raised stop, the flow packet that it takes in, and the last chunk head of each module, the latest first. -/
structure Port where
  up : Bool := false
  txKey : Nat := 0
  rxKey : Nat := 0
  txBeats : Nat := 0
  rxBeats : Nat := 0
  shown : Bool := false
  stop : List Nat := []
  pkt : Option Packet := none
  heads : List ChunkBeat := []
  deriving DecidableEq, Repr

/-- The time engine (17 R410). `corr` is the correction still to slew, in half nanoseconds; `delay` holds the peer delay of
each port; `master` is the port toward the grandmaster, or none where this module is the grandmaster; `askedNs` is when
the last Pdelay_Req left. -/
structure TimeEng where
  lock : Bool := false
  hops : Nat := 0
  offset : Nat := 0xFFFF
  corr : Int := 0
  delay : SMap Nat := []
  lastPtp : Nat := 0
  master : Option Nat := none
  askedNs : Nat := 0
  deriving DecidableEq, Repr

/-- HBM: the bytes readers see, poison by 8-byte word, the stored mode of each block, the attribute byte of each page, and
for a page the byte before its last write with the network cycle after that write's; `uncorr` counts the uncorrectable
errors found (16 R371-R377). `dead` holds, by GiB, the number of the destroyed key under which a slice that has lost its
partition is stored, but for the blocks `raw`, which have been accessed since (25 R502). -/
structure Hbm where
  mem : Memory := []
  poison : List Nat := []
  mode : SMap Nat := []
  attr : SMap Nat := []
  attrOld : SMap (Nat × Nat) := []
  uncorr : Nat := 0
  dead : SMap Nat := []
  raw : List Nat := []
  deriving DecidableEq, Repr

/-- The old bytes of an aligned 8-byte word of device or host memory, whether they were poisoned, and when a write replaced
them (14 R342). -/
structure OldWord where
  host : Bool := false
  addr : Nat := 0
  value : Word := 0
  bad : Bool := false
  ns : Nat := 0
  deriving DecidableEq, Repr

/-! ## Partitions -/

/-- The fields of a handle record (09 R219). -/
structure HRec where
  base : Nat := 0
  dims : List Nat := []
  fmt : Nat := 0
  ndims : Nat := 0
  layout : Nat := 0
  space : Nat := 0
  tile : Nat := 0
  tr : Nat := 0
  tc : Nat := 0
  group : Nat := 0
  scale : Nat := 0
  rsvd : Bool := false
  deriving DecidableEq, Repr

/-- A relayout in progress or failed: the entry with the new fields, the blocks converted, whether block `c` is being
converted, with `sent` once only a peer's acknowledgements of its writes are missing (17 R382), the copy token named, by the team and member of its thread and its number, the network cycle of its
acceptance, and the process whose addresses it uses (09 R225, R227, R232). -/
structure Conv where
  hrec : HRec := {}
  c : Nat := 0
  busy : Bool := false
  sent : Bool := false
  tok : Option (Nat × Nat × Nat) := none
  order : Nat := 0
  vf : Nat := 0
  pasid : Nat := 0
  deriving DecidableEq, Repr

/-- A live entry of the handle table (09 R218). `inst` tells what installed it: 0 for HND.DEF, 2 i + 1 for image i and
2 l + 2 for launch l (02 R59). `away` names the saved team to which its storage belongs (19 R440). -/
structure Handle where
  hrec : HRec := {}
  inst : Nat := 0
  refs : Nat := 0
  scalerefs : Nat := 0
  conv : Option Conv := none
  failed : Bool := false
  away : Option Nat := none
  deriving DecidableEq, Repr

/-- The fields of a flow record (12 R292). -/
structure FRec where
  id : Nat := 0
  action : Nat := 0
  at_ : Nat := 0
  tile : Nat := 0
  op : Nat := 0
  wf : Nat := 0
  n : Nat := 0
  slo : Nat := 0
  shi : Nat := 0
  len : Nat := 1
  akib : Nat := 0
  gen : BitVec 32 := 0
  okind : Nat := 0
  oq : Nat := 0
  octx : Nat := 0
  otile : Nat := 0
  hflow : Nat := 0
  oaddr : Nat := 0
  odv : Nat := 0
  oflag : Nat := 0
  param : Word := 0
  deriving DecidableEq, Repr

/-- A value held by a COMBINE or SCAN entry for one sequence (12 R298, R299). -/
structure NodeVal where
  seq : BitVec 32 := 0
  lo : Nat := 0
  hi : Nat := 0
  src : Nat := 0
  sctx : Nat := 0
  flits : List Flit := []
  deriving DecidableEq, Repr

/-- A flow entry installed at one router with its state: values, the held value with its sequence, waiting packets and
counts (12 R295-R303, R315). `inst` tells what installed it, as in a handle's entry (02 R59). `busy` is the network cycle
from which a TRANSPOSE can take its next packet (R300). -/
structure FlowEntry where
  frec : FRec := {}
  inst : Nat := 0
  vals : List NodeVal := []
  hold : Option (BitVec 32 × List Flit) := none
  wait : List Packet := []
  busy : Nat := 0
  done : BitVec 32 := 0
  late : BitVec 32 := 0
  error : BitVec 32 := 0
  deriving DecidableEq, Repr

/-- A channel record of a collective (17 R390). -/
structure ChanRec where
  dir : Nat := 0
  peer : Nat := 0
  pch : Nat := 0
  depth : Nat := 0
  deriving DecidableEq, Repr

/-- An operand of a collective op: kind, index, chunk (17 R391). -/
structure Operand where
  kind : Nat := 0
  index : Nat := 0
  chunk : Nat := 0
  deriving DecidableEq, Repr

/-- An op record of a collective (17 R391). -/
structure OpRec where
  kind : Nat := 0
  deps : Nat := 0
  func : Nat := 0
  a : Operand := {}
  b : Operand := {}
  o : Operand := {}
  lo : Nat := 0
  hi : Nat := 0
  succ : List Nat := []
  deriving DecidableEq, Repr

/-- A chunk of 64 lines with its span (17 R386-R388). -/
structure ChunkVal where
  lo : Nat := 0
  hi : Nat := 0
  lines : List Flit := []
  deriving DecidableEq, Repr

/-- An op of an open run: predecessors left, started, completed, the result; `sent` says that only a peer's
acknowledgements of its writes are missing (17 R382, R393). -/
structure OpSt where
  deps : Nat := 0
  started : Bool := false
  sent : Bool := false
  complete : Bool := false
  result : Option ChunkVal := none
  deriving DecidableEq, Repr

/-- A chunk arriving in a slot: its head and the lines so far (17 R388). -/
structure SlotSt where
  head : Option (Nat × Nat) := none
  lines : SMap Flit := []
  deriving DecidableEq, Repr

/-- The run state of one channel: the limit held at an out end with its generation; chunks consumed and the slots by
sequence number at an in end (17 R386). -/
structure ChanSt where
  limit : Nat := 0
  limGen : BitVec 32 := 0
  consumed : Nat := 0
  slots : SMap SlotSt := []
  deriving DecidableEq, Repr

/-- A loaded collective and its run (17 R389-R404). `done` and `absent` hold generation * 256 + rank, since a notice may
come before this rank's own run of its generation; `team` and `member` name the participant; `timerNs` counts half
nanoseconds, `quiet` is how many it still stands still after an op's completion (log entry 117), and `timerOff` says that
it waits for the participant to resume (R402); `lines` are the chunk lines taken in a network cycle, whose number plus
one stands first (R412). -/
structure Coll where
  n : Nat := 1
  r : Nat := 0
  wf : Nat := 0
  tmo : Nat := 1
  bsize : List Nat := []
  param : Word := 0
  chans : List ChanRec := []
  ops : List OpRec := []
  units : Nat := 0
  part : Nat := 0
  team : Nat := 0
  member : Nat := 0
  launch : Nat := 0
  vf : Nat := 0
  pasid : Nat := 0
  gen : BitVec 32 := 0
  open_ : Bool := false
  ran : Bool := false
  status : Nat := 2
  late : BitVec 32 := 0
  bases : List Nat := []
  cls : Nat := 0
  opst : SMap OpSt := []
  chst : SMap ChanSt := []
  aborted : List Nat := []
  done : List Nat := []
  absent : List Nat := []
  timerNs : Nat := 0
  quiet : Nat := 0
  timerOff : Bool := false
  heldFault : Option FaultRec := none
  cmd : BitVec 32 := 0
  mpc : Nat := 0
  lines : Nat × Nat := (0, 0)
  deriving DecidableEq, Repr

/-- A data section of an image: place (0 spad, 1 sbank), member or none for all, bytes (02 R45, R56). -/
structure DataSec where
  place : Nat := 0
  member : Option Nat := none
  bytes : List Byte := []
  deriving DecidableEq, Repr

/-- A loaded image: code of each stream by its code, data sections for members, the hbm ranges it wrote, and the
handle and flow records it installed (02 R55-R59). -/
structure Image where
  pasid : Nat := 0
  code : SMap (List Half) := []
  data : List DataSec := []
  hbm : List (Nat × Nat) := []
  handles : List (Nat × HRec) := []
  flows : List FRec := []
  launches : List (List Byte) := []
  codePages : List Nat := []
  deflaunch : Nat := 0
  deriving DecidableEq, Repr

/-- A command of the migration queue (16 R367, R370). `stage` counts the steps of R367 done, with 7 for a copy that has
failed, whose record says `flags` (R369); `target` is where the page translates to. `sent` says that the page is copied
but for a peer's acknowledgement (17 R382). -/
structure MigCmd where
  pasid : Nat := 0
  va : Nat := 0
  deadline : Nat := 0
  num : BitVec 32 := 0
  vf : Nat := 0
  stage : Nat := 0
  frame : Nat := 0
  target : Nat := 0
  flags : Nat := 0
  sent : Bool := false
  deriving DecidableEq, Repr

/-- The registers of a partition's page that only hold a value, with those the device advances, and the log records
beyond RECHEAD that a replay has already taken (16 R379, 17 R385, 19 R441, 24 R492, R494). -/
structure PartRegs where
  flqbase : Word := 0
  flqsize : Word := 0
  flqhead : Word := 0
  flqtail : Word := 0
  prtimer : Nat := 2000
  ltimeout : Nat := 100000
  kalive : Nat := 20000
  escpol : Bool := false
  dbgatt : Bool := false
  dbgsel : Word := 0
  dbgstat : Word := 0
  dbgdata : Word := 0
  recctl : Nat := 0
  recbase : Word := 0
  recsize : Word := 0
  rechead : Word := 0
  rectail : Word := 0
  rectaken : List Nat := []
  deriving DecidableEq, Repr

/-- Migration and compression counters of a partition, its resets and what the hub discards at its boundary
(16 R378; 17 R383; 23 R478). -/
structure PartStats where
  slip : Nat := 0
  aband : Nat := 0
  rmw : Nat := 0
  saved : Nat := 0
  resets : Nat := 0
  hubBound : Nat := 0
  deriving DecidableEq, Repr

/-- A saved team: its area, the bytes it takes and the number of the save, the live members' threads with their memories
(scratchpad and stacked-bank bytes with poison) and the thread number that each had (19 R440, R443). Once the pool has placed
it, `placed` are the tile and the context that each member will have when its area has been read (R444). -/
structure SavedTeam where
  team : Nat := 0
  area : Nat := 0
  bytes : Nat := 0
  no : Nat := 0
  members : List (Nat × Thread) := []
  mems : List (Memory × List Nat) := []
  mons : List (SMap Monitor) := []
  placed : List (Nat × Nat) := []
  deriving DecidableEq, Repr

/-- The process group of a multi-module launch (17 R405, R407, R409). -/
structure Group where
  gen : BitVec 32 := 0
  n : Nat := 1
  rank : Nat := 0
  members : List (Nat × Nat) := []
  queues : List (Nat × Nat) := []
  arrived : List Nat := []
  startNs : Nat := 0
  released : Bool := false
  failed : Bool := false
  seen : SMap Nat := []
  sentNs : Nat := 0
  deriving DecidableEq, Repr

/-- A partition (23 R464), with the numbers of its slice's key and of its save areas' (25 R502). Flow entries have the key router * 65536 + id; `early` are start-barrier messages of launches
not yet started here, by generation and module, with true for fail (17 R407). While the partition drains, `draining` is
the time in half nanoseconds at which its drain ends (23 R479). -/
structure Partition where
  cfg : PartCfg := {}
  key : Nat := 0
  saveKey : Nat := 0
  regs : PartRegs := {}
  handles : SMap Handle := []
  gens : SMap (BitVec 32) := []
  flows : SMap FlowEntry := []
  colls : SMap Coll := []
  images : SMap Image := []
  frames : List Nat := []
  migs : List MigCmd := []
  migNext : BitVec 32 := 1
  areas : List Word := []
  saved : List SavedTeam := []
  stats : PartStats := {}
  draining : Option Nat := none
  logWait : List (List Byte) := []
  hubNodes : List PoolNode := []
  early : List (Nat × Nat × Bool) := []
  kept : List Group := []
  deriving DecidableEq, Repr

/-- One barrier of a team (04 R113, R114). -/
structure Barrier where
  phase : BitVec 32 := 0
  arrived : List Nat := []
  deriving DecidableEq, Repr

/-- A team: its thread numbers by member, with 3456 for one that had ended before a restore, and the members still live
(04 R91, R113; 19 R444); whether a pre-emption of it is
asked, the number under which it is saved, when its node entered the pool, and the network cycle from which its members
see a debug stop request (19 R440; 23 R475; 24 R490). -/
structure Team where
  part : Nat := 0
  launch : Nat := 0
  node : Nat := 0
  members : List Nat := []
  live : List Nat := []
  bars : SMap Barrier := []
  preempt : Bool := false
  savedAt : Option Nat := none
  sinceNs : Nat := 0
  stops : Option Nat := none
  deriving DecidableEq, Repr

/-- A node record (23 R470). -/
structure NodeRec where
  size : Nat := 1
  rows : Nat := 0
  cols : Nat := 0
  entry : Nat := 0
  spad : Nat := 0
  sbank : Nat := 0
  ldw : Nat := 1
  stw : Nat := 1
  caps : Nat := 0
  preds : List Nat := []
  deriving DecidableEq, Repr

/-- Where a node stands (23 R471, R473). -/
inductive NodeSt where
  | waiting | ready | running | complete
  deriving DecidableEq, Repr

/-- A node of a launch (23 R470, R473). -/
structure Node where
  nrec : NodeRec := {}
  st : NodeSt := .waiting
  awaiting : Nat := 0
  posted : Bool := false
  deriving DecidableEq, Repr

/-- A launch that has started; `vf` and `queue` are those of the queue whose entry started it (23 R466, R470). -/
structure Launch where
  part : Nat := 0
  vf : Nat := 0
  queue : Nat := 0
  idx : Nat := 0
  seq : BitVec 32 := 0
  cpl : Nat := 0
  energy : Nat := 0
  modules : Nat := 1
  pasid : Nat := 0
  pgt : Nat := 0
  args : Nat := 0
  image : Nat := 0
  npost : Nat := 0
  nnodes : Nat := 0
  posted : Nat := 0
  nodes : SMap Node := []
  group : Option Group := none
  status : Nat := 0
  killed : Bool := false
  mode : Nat := 0
  fatal : Bool := false
  deriving DecidableEq, Repr

/-- A launch queue of a virtual function (23 R465). `started` are the indices of entries that have started and `ended`
those that have completed beyond QHEAD; `sent` holds entries that another module replicated here, each with its launch
record (17 R408), and `begun` those that have begun and wait, each with its bytes and the status it ends with once that is
settled (23 R469). `ovrAt` and `cplAt` are the network cycles after those in which the device last set ovr and cplerr (00
R10). -/
structure Queue where
  base : Word := 0
  size : Word := 0
  tail : BitVec 32 := 0
  head : BitVec 32 := 0
  enable : Bool := false
  prio : Nat := 0
  ovr : Bool := false
  cplerr : Bool := false
  ovrAt : Nat := 0
  cplAt : Nat := 0
  fence : BitVec 32 := 0
  fenced : Bool := false
  restart : BitVec 32 := 0
  started : List Nat := []
  ended : List Nat := []
  lastTick : Nat := 0
  pasid : Nat := 0
  resets : Nat := 0
  sent : SMap (List Byte × List Byte) := []
  begun : SMap (List Byte × Option Nat) := []
  deriving DecidableEq, Repr

/-! ## Security, health and the outside -/

/-- The states of a TDISP interface (25 R501). -/
inductive Tdisp where
  | unlocked | locked | run | error
  deriving DecidableEq, Repr

/-- Where the module stands in its life (25 R497, R504). -/
inductive Life where
  | off | ready | recovery
  deriving DecidableEq, Repr

/-- Security and health of the module (25 R497-R507). `tests` counts the self-tests that bring-up has run on every enabled
tile (R504); `rows` holds for each HBM stack the repair rows that it uses and has, and `recur` says that an uncorrectable
error has come again on a spared row (R506). `plan` is the image of the plan that bring-up loaded, `ide` holds the number of the key of the
IDE stream of an interface that runs (R501), and `health` is HSTAT at the end of the network cycle before (R500). -/
structure Sec where
  life : Life := .off
  slots : List (List Byte) := List.replicate 5 (List.replicate 32 0)
  version : Bool := false
  caps : Bool := false
  algs : Bool := false
  keys : Nat := 0
  tdisp : SMap Tdisp := []
  repl : Bool := false
  reason : Nat := 0
  lost : List Nat := []
  badRouters : List Nat := []
  hrows : Nat := 0
  rows : List (Nat × Nat) := []
  recur : Bool := false
  tests : Nat := 0
  hotHold : Bool := false
  plan : List Byte := []
  ide : SMap Nat := []
  health : Word := 576 <<< 48
  deriving DecidableEq, Repr

/-- A quad's last sensor reading, the power placed in it since, and its temperature; the network cycle after that of the
reading with the room that the reading before it left, and since when it reads 115 °C or more (23 R472, R481; 25
R507). -/
structure Sensor where
  milliwatt : Nat := 0
  placed : Nat := 0
  celsius : Int := 0
  readAt : Nat := 0
  oldRoom : Nat := 18000
  hotNs : Option Nat := none
  deriving DecidableEq, Repr

/-- A message the module sends to the outside: to the host over the host link, to another module over the fabric, or
to the die supervisor. A row request `rowOut` names the thread, or 3456 and the partition for a unit of the hub; `bad` are
the words that its data poisons, and bits 0 and 1 of `half` say that the low nibble of its first byte and the high one
of its last are not written (17 R382). A message that leaves by a port has the side bands of its beats, the head's first
(R381); one of an interface that runs travels on its IDE stream, under the key of a number (25 R501). The answer to a read
brings blocks of HBM as they are stored: `blocks` gives the mode of each and how many bytes it has here (17 R382). -/
inductive Msg where
  | atsRequest (agent vf pasid page : Nat)
  | pageRequest (vf idx pasid page : Nat) (w last : Bool)
  | invalidationDone (agent va size : Nat)
  | beats (port : Nat) (bs : List Beat)
  | leave (port : Nat) (sides : List Nat) (m : Msg)
  | onIde (key : Nat) (m : Msg)
  | ringLimit (dmod flow pch : Nat) (gen : BitVec 32) (limit : Nat)
  | doneNotice (dmod flow : Nat) (gen : BitVec 32) (rank : Nat)
  | abortNotice (dmod flow : Nat) (gen : BitVec 32) (rank : Nat)
  | absentNotice (dmod flow : Nat) (gen : BitVec 32) (rank : Nat)
  | presentNotice (dmod flow : Nat) (gen : BitVec 32) (rank : Nat)
  | arrive (dmod : Nat) (gen : BitVec 32)
  | failNotice (dmod : Nat) (gen : BitVec 32)
  | replicate (dmod vf queue : Nat) (entry record : List Byte)
  | keepAlive (dmod : Nat)
  | farOut (dmod tid pa : Nat) (r : FarReq)
  | rowOut (dmod tid idx pa size : Nat) (write : Bool) (bytes : List Byte) (bad : List Nat) (half : Nat)
  | ptp (kind port ns : Nat)
  | spdm (who : Nat) (kind : Nat) (bytes : List Byte)
  | stallReport (tid : Nat) (waits : List (List Nat))
  | escalation (tid : Nat)
  | hostData (v : Word)
  | windowData (bytes : List Byte) (poison : Bool)
  | resetNotice (dmod : Nat) (gen : BitVec 32)
  | loadResult (part num : Nat) (ok : Bool) (deflaunch : Nat)
  | gangPreempt (dmod flow : Nat) (gen : BitVec 32)
  | peerReply (dmod : Nat) (blocks : List (Nat × Nat)) (bytes : List Byte) (poison refused : Bool)
  | capacity (n : Nat)
  deriving DecidableEq, Repr

/-! ## Time and the step's own order -/

/-- What one place in the order of a network cycle's issues is (08 R200, 04 R109, R110): an engine at a block boundary or
at its word, the order of a tile's engines, the step of its nest, the updates of its lists, an L or S queue, a context
at the control core, a quad's copy streamer, the rows that its copies write, and the deliveries of a tile. -/
inductive Slot where
  | block (tile st : Nat)
  | word (tile st : Nat)
  | order (tile : Nat)
  | nest (tile : Nat)
  | updates (tile : Nat)
  | rows (quad : Nat)
  | deliver (tile : Nat)
  | blockQ (tid st : Nat)
  | wordQ (tid st : Nat)
  | ctl (tile ctx : Nat)
  | streamer (quad : Nat)
  deriving DecidableEq, Repr

/-- The phases of a network cycle in the model: results land, words issue, the other units work, time advances
(log entry 10). -/
inductive Phase where
  | land
  | issue (todo : List Slot)
  | work (left : Nat)
  | tick
  deriving DecidableEq, Repr

/-- Time: network cycles since module reset, the nanosecond counter in half nanoseconds, and the phase
(00 R6, 24 R482). -/
structure Clock where
  now : Nat := 0
  halfNs : Nat := 0
  phase : Phase := .land
  deriving DecidableEq, Repr

/-- Something that comes from outside at a network cycle: an event and what it names and brings in. -/
structure Input where
  at_ : Nat := 0
  what : Instr := .nop
  arg : EvArg := {}
  deriving DecidableEq, Repr

/-- The hub (17 R380-R411). `asked` are the reads that its units have asked of peers, and `got` what the peers have
answered: bytes, poison and the cause of a refusal; `wrote` are the writes of its units that peers have yet to acknowledge,
and those that a peer has refused until the unit takes note; `next` numbers them (R382). -/
structure Hub where
  ports : SMap Port := []
  routes : SMap Nat := []
  windows : SMap Nat := []
  window : Nat := 0x10000000000
  module : Nat := 0
  time : TimeEng := {}
  ready : Bool := false
  asked : List HubAccess := []
  got : List (HubAccess × List Byte × Bool × Nat) := []
  wrote : List HubAccess := []
  next : Nat := 0
  held : List Msg := []
  deriving DecidableEq, Repr

/-- One module. Threads have the key tile * 6 + context (00 R8). Dies have the keys 0 to 3, and key 4 holds the hub's
own cache, requests and waiting pages. `cur` is the thread whose word is at issue and `strm` its stream. `freeCount`
counts the free values drawn (log entry 20). `ready` are the threads of a tile whose C heads could issue when the
control core last had a YIELD at issue there (05 R144). `prgAlloc` holds the page requests that the host lets a function
have outstanding, where it has said so (16 R359). `hostUr` are the ranges of the host's memory, as address and bytes, that
answer with Unsupported Request or Completer Abort (16 R369; log entry 115). -/
structure State where
  clock : Clock := {}
  arg : EvArg := {}
  cur : Nat := 0
  strm : Nat := 0
  ready : List Nat := []
  offTiles : List Nat := []
  offQuads : List Nat := []
  threads : SMap Thread := []
  tiles : SMap Tile := []
  quads : SMap Streamer := []
  sensors : SMap Sensor := []
  dies : SMap Die := []
  refusedVf : List Nat := []
  prgAlloc : SMap Nat := []
  packets : List Packet := []
  hub : Hub := {}
  hbm : Hbm := {}
  host : Memory := []
  hostPoison : List Nat := []
  hostUr : List (Nat × Nat) := []
  old : List OldWord := []
  parts : SMap Partition := []
  teams : SMap Team := []
  nextTeam : Nat := 0
  launches : SMap Launch := []
  nextLaunch : Nat := 0
  queues : SMap Queue := []
  sec : Sec := {}
  inputs : List Input := []
  out : List Msg := []
  freeCount : Nat := 0
  deriving DecidableEq, Repr

/-- Why a run stops. Each is raised only where its docstring says. -/
inductive Fault where
  /-- An event was run in a state in which the manual does not let it happen: raised by the events' meanings; the step
  itself chooses only enabled events, and an input that names one that is not enabled stops here. Safe: the model
  stops where the hardware would not take that step. -/
  | notEnabled (event : String)
  /-- A word was run for a context that holds no thread: raised by the words' meanings. Safe: no such word issues. -/
  | noThread
  deriving DecidableEq, Repr

/-- Why an instruction has no meaning. -/
inductive Refusal where
  /-- The instruction is not modelled: raised by no meaning; kept for an arm still rejected by name. Safe. -/
  | notModelled (mnemonic : String)
  deriving DecidableEq, Repr

/-- The module right after module reset (25 R497, R504): no partition, no thread, no translation, nothing in flight;
every register of the module at the value its chapter states, and where none is stated at the value the log names
(entries 1, 10 to 16). -/
def State.reset : State := {}

end Sys2Proof.Machine
end

