-- ==== Sys2Proof/Machine/Sparse.lean ====
section
/-!
DEFINITION. Sparse tables, memories by byte, sorted sets of numbers, and the conversions between bytes, numbers and
lanes. Byte order is decided here and nowhere else: little-endian (00 R4).
-/
namespace Sys2Proof.Machine

/-- The value at a key, and the default where the key is not listed. -/
def look {α : Type} (d : α) : SMap α → Nat → α
  | [], _ => d
  | (a, v) :: rest, k => if a = k then v else look d rest k

/-- The value at a key, if it is listed. -/
def find {α : Type} : SMap α → Nat → Option α
  | [], _ => none
  | (a, v) :: rest, k => if a = k then some v else find rest k

/-- The table with a value at a key, in rising key. -/
def put {α : Type} (k : Nat) (v : α) : SMap α → SMap α
  | [] => [(k, v)]
  | (a, x) :: rest => if k < a then (k, v) :: (a, x) :: rest else if a = k then (k, v) :: rest else (a, x) :: put k v rest

/-- The table without a key. -/
def del {α : Type} (k : Nat) : SMap α → SMap α
  | [] => []
  | (a, x) :: rest => if a = k then del k rest else (a, x) :: del k rest

/-- The table with a value at a key, which lists no default value. -/
def put0 {α : Type} [DecidableEq α] (d : α) (k : Nat) (v : α) (m : SMap α) : SMap α :=
  if v = d then del k m else put k v m

/-- The table with the value at a key changed by a function, where the key is listed. -/
def adjust {α : Type} (k : Nat) (f : α → α) : SMap α → SMap α
  | [] => []
  | (a, x) :: rest => if a = k then (a, f x) :: rest else (a, x) :: adjust k f rest

/-- The table with every value changed by a function of its key. -/
def mapVals {α : Type} (f : Nat → α → α) (m : SMap α) : SMap α := m.map fun p => (p.1, f p.1 p.2)

/-- The keys of a table. -/
def keys {α : Type} (m : SMap α) : List Nat := m.map Prod.fst

/-- A sorted set of numbers with one more. -/
def addNat (k : Nat) : List Nat → List Nat
  | [] => [k]
  | a :: rest => if k < a then k :: a :: rest else if a = k then a :: rest else a :: addNat k rest

/-- A set of numbers without one. -/
def delNat (k : Nat) (l : List Nat) : List Nat := l.filter (fun a => a != k)

/-- The list with its element at a place changed by a function. -/
def modAt {α : Type} (f : α → α) : Nat → List α → List α
  | _, [] => []
  | 0, x :: rest => f x :: rest
  | n + 1, x :: rest => x :: modAt f n rest

/-- The list without its element at a place. -/
def dropAt {α : Type} : Nat → List α → List α
  | _, [] => []
  | 0, _ :: rest => rest
  | n + 1, x :: rest => x :: dropAt n rest

/-- The numbers from `a` on, `n` of them. -/
def upFrom (a : Nat) : Nat → List Nat
  | 0 => []
  | n + 1 => a :: upFrom (a + 1) n

/-- The place of the first element that meets a test, counted from `i`. -/
def placeOf {α : Type} (p : α → Bool) : Nat → List α → Option Nat
  | _, [] => none
  | i, x :: rest => if p x then some i else placeOf p (i + 1) rest

/-- A saturating count. -/
def satAdd (limit x n : Nat) : Nat := min limit (x + n)

/-! ## Bytes and numbers -/

/-- The number whose bytes are listed, the lowest first (00 R4). -/
def leNat : List Byte → Nat
  | [] => 0
  | b :: rest => b.toNat + 256 * leNat rest

/-- The low `n` bytes of a number, the lowest first (00 R4). -/
def toBytes : Nat → Nat → List Byte
  | 0, _ => []
  | n + 1, x => BitVec.ofNat 8 x :: toBytes n (x / 256)

/-- The 64-bit word of the bytes listed. -/
def leWord (bs : List Byte) : Word := BitVec.ofNat 64 (leNat bs)

/-- The 32-bit lane of the bytes listed. -/
def leLane (bs : List Byte) : Lane := BitVec.ofNat 32 (leNat bs)

/-- A field of a record: `n` bytes at an offset, as a number. -/
def field (bs : List Byte) (off n : Nat) : Nat := leNat ((bs.drop off).take n)

/-- Whether `n` bytes at an offset are all zero. -/
def zeroAt (bs : List Byte) (off n : Nat) : Bool := ((bs.drop off).take n).all (fun b => b == 0)

/-- The group size of a code (09 R219). -/
def groupSize (g : Nat) : Nat := 16 * 2 ^ g

/-- A quotient rounded up. -/
def ceilDiv (a b : Nat) : Nat := (a + b - 1) / b

/-- Bits `lo` to `lo + n - 1` of a number. -/
def bitsOf (x lo n : Nat) : Nat := x / 2 ^ lo % 2 ^ n

/-- Bit `i` of a number. -/
def bitOf (x i : Nat) : Bool := x / 2 ^ i % 2 == 1

/-- The low `n` bits of a number read as a two's-complement integer. -/
def signed (n x : Nat) : Int := if x % 2 ^ n < 2 ^ (n - 1) then (x % 2 ^ n : Nat) else (x % 2 ^ n : Nat) - (2 ^ n : Nat)

/-- A word of 64 bits from an integer, modulo 2 to the power 64. -/
def wordOfInt (x : Int) : Word := BitVec.ofInt 64 x

/-- A row of 64 lanes, all zero. -/
def zeroRow : Row := List.replicate 64 0

/-- Lane `n` of a row; a row lists its lanes from lane 0, and a lane it does not list is zero. -/
def lane (r : Row) (n : Nat) : Lane := r.getD n 0

/-- The row whose lane `n` is `f n`. -/
def rowOf (f : Nat → Lane) : Row := (upFrom 0 64).map f

/-- The 64 bits of a predicate from a test of each lane. -/
def maskOf (f : Nat → Bool) : Word :=
  BitVec.ofNat 64 ((upFrom 0 64).foldr (fun n acc => if f n then 2 ^ n + acc else acc) 0)

/-! ## Memories -/

/-- The byte at an address; an unlisted address reads zero (log entry 1). -/
def readByte (m : Memory) (a : Nat) : Byte := look 0 m a

/-- A memory after a byte is written; writing zero removes the entry. -/
def writeByte (m : Memory) (a : Nat) (b : Byte) : Memory := put0 0 a b m

/-- The `n` bytes from an address. -/
def readBytes (m : Memory) (a : Nat) : Nat → List Byte
  | 0 => []
  | n + 1 => readByte m a :: readBytes m (a + 1) n

/-- A memory after bytes are written from an address on. -/
def writeBytes (m : Memory) (a : Nat) : List Byte → Memory
  | [] => m
  | b :: rest => writeBytes (writeByte m a b) (a + 1) rest

/-- The canonical form: addresses strictly rising from a bound, no zero byte listed. -/
def wfFrom (lo : Nat) : Memory → Bool
  | [] => true
  | (a, b) :: rest => decide (lo ≤ a) && b != 0 && wfFrom (a + 1) rest

/-- The canonical form of a memory (addresses strictly rising, no entry equal to what an unlisted address reads). -/
def Memory.wf (m : Memory) : Bool := wfFrom 0 m

/-- The aligned 8-byte words that `n` bytes from an address touch, by their addresses (08 R203). -/
def wordsOf (a n : Nat) : List Nat := if n = 0 then [] else (upFrom (a / 8) ((a + n - 1) / 8 - a / 8 + 1)).map (· * 8)

/-- Whether some of `n` bytes from an address lies in a poisoned word. -/
def poisonedIn (p : List Nat) (a n : Nat) : Bool := (wordsOf a n).any p.contains

/-- The 64 bytes of a flit or more, zero-filled to a length. -/
def padTo (n : Nat) (bs : List Byte) : List Byte := bs.take n ++ List.replicate (n - bs.length) 0

/-- The list cut into pieces of `n` elements; `fuel` bounds the pieces. -/
def cut {α : Type} (n : Nat) : Nat → List α → List (List α)
  | 0, _ => []
  | _ + 1, [] => []
  | fuel + 1, l => l.take n :: cut n fuel (l.drop n)

end Sys2Proof.Machine
end

