-- ==== Sys2Proof/Machine/Beats.lean ====
section
/-!
DEFINITION. Beats: their side band, the head flit of a packet as it crosses, the head and the lines of a chunk, and which
messages leave on the fabric (12 R288; 17 R381, R387, R388).
-/
namespace Sys2Proof.Machine

/-! ## The side band (17 R381) -/

/-- The 96 side-band bits of a beat. -/
def sideBand (b : Beat) : Nat :=
  b.dmod % 256 * 2 ^ 88 + b.smod % 256 * 2 ^ 80 + b.kind % 256 * 2 ^ 72 + b.vc % 4 * 2 ^ 70 + b.poison.toNat * 2 ^ 69 + b.flag.toNat

/-- The beat that a side band and a payload give. -/
def beatOf (n : Nat) (payload : List Byte) : Beat :=
  { dmod := bitsOf n 88 8, smod := bitsOf n 80 8, kind := bitsOf n 72 8, vc := bitsOf n 70 2, poison := bitOf n 69,
    flag := BitVec.ofNat 64 n, payload := payload }

/-- Whether a beat is one that a port may carry: channel 3 is never sent, only a chunk line has a flag word, and the
payload is 64 bytes. -/
def beatGood (b : Beat) : Bool :=
  b.dmod < 256 && b.smod < 256 && b.kind ≤ 5 && b.vc ≤ 2 && (b.kind = 3 || b.flag == 0) && b.payload.length = 64

/-- The beat count at which a port takes a new key pair (25 R503). -/
def keyLimit : Nat := 2 ^ 48 - 1

/-! ## Packets (12 R288) -/

/-- The dkind and mcast byte of a head. -/
def headKind (p : Packet) : Nat := p.dkind + p.mcast.toNat * 4

/-- The bytes of a head flit, with the field taken (12 R288). -/
def headBytes (p : Packet) (taken : Nat) : List Byte :=
  toBytes 2 p.flow ++ toBytes 1 p.part ++ toBytes 1 (headKind p) ++ toBytes 2 p.src ++ toBytes 1 p.sctx ++
  toBytes 1 p.cls ++ toBytes 4 p.seq.toNat ++ toBytes 4 p.gen.toNat ++ toBytes 1 p.len ++ toBytes 1 p.q ++
  toBytes 1 p.dctx ++ toBytes 1 taken ++ toBytes 2 p.dtile ++ toBytes 2 p.rlo ++ toBytes 2 p.rhi ++
  toBytes 1 p.err.toNat ++ toBytes 5 0 ++ toBytes 8 p.addr ++ toBytes 8 p.dv ++ toBytes 8 p.flag ++ toBytes 8 0

/-- The packet that a head flit gives, its data flits still to come (12 R288). -/
def headPacket (b : List Byte) : Packet :=
  { flow := field b 0 2, part := field b 2 1, dkind := field b 3 1 % 4, mcast := bitOf (field b 3 1) 2, src := field b 4 2,
    sctx := field b 6 1, cls := field b 7 1, seq := BitVec.ofNat 32 (field b 8 4), gen := BitVec.ofNat 32 (field b 12 4),
    len := field b 16 1, q := field b 17 1, dctx := field b 18 1, dtile := field b 20 2, rlo := field b 22 2,
    rhi := field b 24 2, err := bitOf (field b 26 1) 0, addr := field b 32 8, dv := field b 40 8, flag := field b 48 8 }

/-- The beats of a flow packet: its head and one for each data flit (17 R381). `b` gives their modules and partitions. -/
def packetBeats (b : Beat) (p : Packet) : List Beat :=
  { b with kind := 0, vc := 0, payload := headBytes p 0 } ::
    p.data.map fun f => { b with kind := 1, vc := 0, payload := f.bytes, poison := f.poison }

/-! ## Chunks (17 R387, R388) -/

/-- The payload of a chunk's head beat: flow, generation, number, span and the sender's channel index. -/
def chunkHead (flow : Nat) (gen : BitVec 32) (seq lo hi ch : Nat) : List Byte :=
  toBytes 2 flow ++ toBytes 2 0 ++ toBytes 4 gen.toNat ++ toBytes 4 seq ++ toBytes 2 lo ++ toBytes 2 hi ++ toBytes 1 ch ++ toBytes 47 0

/-- The flag word of a chunk line. -/
def lineFlag (gen : BitVec 32) (line num seq : Nat) : Word :=
  BitVec.ofNat 64 (gen.toNat % 256 * 2 ^ 56 + line % 64 * 2 ^ 48 + num % 65536 * 2 ^ 32 + seq % 2 ^ 32)

/-- The beats of a chunk: its head and its lines. -/
def chunkBeats (b : Beat) (flow : Nat) (gen : BitVec 32) (seq num lo hi ch : Nat) (lines : List Flit) : List Beat :=
  { b with kind := 2, vc := 0, payload := chunkHead flow gen seq lo hi ch } ::
    (lines.zip (upFrom 0 lines.length)).map fun l =>
      { b with kind := 3, vc := 0, payload := l.1.bytes, poison := l.1.poison, flag := lineFlag gen l.2 num seq }

/-- What a chunk's head beat says. -/
def readHead (b : Beat) : ChunkBeat :=
  { smod := b.smod, flow := field b.payload 0 2, pch := field b.payload 16 1, gen := field b.payload 4 4,
    seq := field b.payload 8 4, lo := field b.payload 12 2, hi := field b.payload 14 2 }

/-- What a chunk line says that follows a head: it comes from the module that its own side band names. -/
def readLine (h : ChunkBeat) (b : Beat) : ChunkBeat :=
  { h with smod := b.smod, head := false, gen := bitsOf b.flag.toNat 56 8, line := bitsOf b.flag.toNat 48 6, num := bitsOf b.flag.toNat 32 16,
           seq := bitsOf b.flag.toNat 0 32, bytes := b.payload, poison := b.poison }

/-! ## Messages to other modules (17 R380-R382) -/

/-- The module that a message is for, where it leaves on the fabric. -/
def fabricTo : Msg → Option Nat
  | .beats _ bs => bs.head?.map Beat.dmod
  | .ringLimit m _ _ _ _ => some m
  | .doneNotice m _ _ _ => some m
  | .abortNotice m _ _ _ => some m
  | .absentNotice m _ _ _ => some m
  | .presentNotice m _ _ _ => some m
  | .arrive m _ => some m
  | .failNotice m _ => some m
  | .replicate m _ _ _ _ => some m
  | .keepAlive m => some m
  | .farOut m _ _ _ => some m
  | .rowOut m _ _ _ _ _ _ _ _ => some m
  | .resetNotice m _ => some m
  | .gangPreempt m _ _ => some m
  | .peerReply m _ _ _ _ => some m
  | _ => none

/-- The virtual channel on which a message for another module travels: requests and replies have one each, and everything else
takes the flow channel (17 R381; DESIGN CHOICE, log entry 119, for limits and notices). -/
def channelOf : Msg → Nat
  | .rowOut .. => 1
  | .farOut .. => 1
  | .peerReply .. => 2
  | .beats _ bs => (bs.head?.map Beat.vc).getD 0
  | _ => 0

/-- The kind of a message's head beat (17 R381). -/
def kindOf : Msg → Nat
  | .rowOut .. => 0
  | .farOut .. => 0
  | .peerReply .. => 0
  | .ringLimit .. => 4
  | _ => 5

/-- The poison bits of the data beats that follow a message's head: one for each 64 bytes (17 R381). -/
def dataPoison : Msg → List Bool
  | .rowOut _ _ _ pa _ _ bytes bad _ => (upFrom 0 ((bytes.length + 63) / 64)).map fun i =>
      bad.any fun w => decide (w < pa + 64 * i + 64) && decide (pa + 64 * i < w + 8)
  | .peerReply _ _ bytes poison _ => List.replicate ((bytes.length + 63) / 64) poison
  | .farOut _ _ _ r => if r.kind = 0 then [] else [false]
  | .replicate _ _ _ entry record => List.replicate ((entry.length + record.length + 63) / 64) false
  | _ => []

/-- The side bands of the beats of a message that a module sends: its head and its data (17 R381). -/
def sidesOf (smod : Nat) (m : Msg) : List Nat :=
  let b : Beat := { dmod := (fabricTo m).getD 0, smod := smod, kind := kindOf m, vc := channelOf m }
  sideBand b :: (dataPoison m).map fun p => sideBand { b with kind := if kindOf m = 0 then 1 else kindOf m, poison := p }

/-- The beats of a message: a request or a reply has one more for each 64 bytes of data (17 R381). -/
def beatCount : Msg → Nat
  | .beats _ bs => bs.length
  | m => 1 + (dataPoison m).length

/-- A message of a module as it leaves by a port. -/
def byPort (smod q : Nat) : Msg → Msg
  | .beats _ bs => .beats q bs
  | m => .leave q (sidesOf smod m) m

end Sys2Proof.Machine
end

