-- ==== Sys2Proof/Machine/Num.lean ====
section
/-!
DEFINITION. Number formats and the shared functions of file 06: classification, rounding, exact sums and products,
the matrix chunk, the scale application, the canonical tree, and the functions of the transcendental words (07 R176,
R178). Finite values are exact rationals; every function here is total and rounds as its rule says.
-/
namespace Sys2Proof.Machine

/-- A floating format: exponent bits and fraction bits (06 R149). -/
structure FloatFmt where
  eb : Nat
  fb : Nat
  deriving DecidableEq, Repr

/-- IEEE 754 binary32 (06 R149). -/
def fp32 : FloatFmt := ⟨8, 23⟩

/-- The device's BF16, the upper half of FP32 (06 R149). -/
def bf16 : FloatFmt := ⟨8, 7⟩

/-- IEEE 754 binary16 (06 R149). -/
def fp16 : FloatFmt := ⟨5, 10⟩

/-- The bias of a format (06 R149). -/
def bias (f : FloatFmt) : Nat := 2 ^ (f.eb - 1) - 1

/-- The all-ones exponent of a format (06 R150). -/
def emaxField (f : FloatFmt) : Nat := 2 ^ f.eb - 1

/-- A classified value: NaN, an infinity, or a finite value with the sign that a zero keeps (06 R161). -/
inductive FVal where
  | nan
  | inf (neg : Bool)
  | fin (neg : Bool) (v : Rat)
  deriving DecidableEq, Repr

/-- Two to an integer power, exactly. -/
def pow2 (e : Int) : Rat := if 0 ≤ e then ((2 ^ e.toNat : Nat) : Rat) else 1 / ((2 ^ (-e).toNat : Nat) : Rat)

/-- classify(x, fmt) for a floating format (06 R150, R161). -/
def classify (f : FloatFmt) (x : Nat) : FVal :=
  let neg := bitOf x (f.eb + f.fb)
  let e := bitsOf x f.fb f.eb
  let m := bitsOf x 0 f.fb
  if e = emaxField f then (if m = 0 then .inf neg else .nan)
  else
    let mag := if e = 0 then (m : Rat) * pow2 (1 - (bias f : Int) - f.fb)
      else ((2 ^ f.fb + m : Nat) : Rat) * pow2 ((e : Int) - bias f - f.fb)
    .fin neg (if neg then -mag else mag)

/-- classify(x, INT32): the integer itself (06 R161). -/
def classifyInt (x : Nat) : FVal := .fin (decide (signed 32 x < 0)) ((signed 32 x : Int) : Rat)

/-- The canonical NaN of a format (06 R150, R158). -/
def canonNan (f : FloatFmt) : Nat := emaxField f * 2 ^ f.fb + 2 ^ (f.fb - 1)

/-- An infinity of a format. -/
def infOf (f : FloatFmt) (neg : Bool) : Nat := neg.toNat * 2 ^ (f.eb + f.fb) + emaxField f * 2 ^ f.fb

/-- The integer nearest a rational by a rounding mode (06 R154, R162). -/
def nearest (r : Rnd) (x : Rat) : Int :=
  let lo := x.num / (x.den : Int)
  let rest := x - (lo : Rat)
  match r with
  | .ne => if rest < 1 / 2 then lo else if 1 / 2 < rest then lo + 1 else if lo % 2 = 0 then lo else lo + 1
  | .tz => if rest = 0 then lo else if x < 0 then lo + 1 else lo
  | .pinf => if rest = 0 then lo else lo + 1
  | .minf => lo

/-- floor(log2 x) of a positive rational. -/
def floorLog2 (x : Rat) : Int :=
  let e : Int := (Nat.log2 x.num.natAbs : Int) - (Nat.log2 x.den : Int)
  if x < pow2 e then e - 1 else e

/-- The encoding of a magnitude in a format: the multiple of the spacing, with the exponent field that carries it. -/
def encodeMag (f : FloatFmt) (neg : Bool) (r : Rnd) (v : Rat) : Nat :=
  let mag := if v < 0 then -v else v
  let e := max (floorLog2 mag) (1 - (bias f : Int))
  let q := pow2 (e - f.fb)
  let m := nearest (match r, neg with | .pinf, true => .minf | .minf, true => .pinf | m, _ => m) (mag / q)
  let enc := (e + bias f - 1) * (2 ^ f.fb : Nat) + m
  let sign := neg.toNat * 2 ^ (f.eb + f.fb)
  if enc < (emaxField f * 2 ^ f.fb : Nat) then sign + enc.toNat
  else if r = .ne || (r = .pinf && !neg) || (r = .minf && neg) then infOf f neg
  else sign + emaxField f * 2 ^ f.fb - 1

/-- round_ne(c, fmt, rnd) for a floating format (06 R162). -/
def roundTo (f : FloatFmt) (c : FVal) (r : Rnd := .ne) : Nat :=
  match c with
  | .nan => canonNan f
  | .inf neg => infOf f neg
  | .fin neg v => if v = 0 then neg.toNat * 2 ^ (f.eb + f.fb) else encodeMag f (decide (v < 0)) r v

/-- round_ne(c, INT32, rnd): saturating, NaN gives 0 (06 R162). -/
def roundInt (c : FVal) (r : Rnd := .ne) : Nat :=
  match c with
  | .nan => 0
  | .inf neg => if neg then 2 ^ 31 else 2 ^ 31 - 1
  | .fin _ v => (BitVec.ofInt 32 (min (max (nearest r v) (-(2 ^ 31 : Nat) : Int)) ((2 ^ 31 - 1 : Nat) : Int))).toNat

/-- widen(x, fmt) (06 R163). -/
def widen (f : FloatFmt) (x : Nat) : Nat := roundTo fp32 (classify f x)

/-- narrow(x, fmt, rnd) (06 R163). -/
def narrow (f : FloatFmt) (x : Nat) (r : Rnd := .ne) : Nat := roundTo f (classify fp32 x) r

/-- The sign of a classified value; a NaN counts as positive. -/
def signOf : FVal → Bool
  | .nan => false
  | .inf n => n
  | .fin n _ => n

/-- The value with its sign reversed (07 R176). -/
def negF : FVal → FVal
  | .nan => .nan
  | .inf n => .inf (!n)
  | .fin n v => .fin (!n) (-v)

/-- The value with a given sign (07 R176). -/
def withSign (neg : Bool) : FVal → FVal
  | .nan => .nan
  | .inf _ => .inf neg
  | .fin n v => if n = neg then .fin n v else .fin neg (-v)

/-- Whether a value is a NaN. -/
def isNan : FVal → Bool
  | .nan => true
  | _ => false

/-- Whether a value is an infinity. -/
def isInf : FVal → Bool
  | .inf _ => true
  | _ => false

/-- Whether a value is a zero. -/
def isZero : FVal → Bool
  | .fin _ v => v = 0
  | _ => false

/-- The exact value of a finite classified value; zero for the others. -/
def valOf : FVal → Rat
  | .fin _ v => v
  | _ => 0

/-- exact_sum(list) (06 R164); an exact zero is +0 unless every addend is -0 (R159). -/
def exactSum (l : List FVal) : FVal :=
  if l.any isNan then .nan
  else if l.any (fun c => isInf c && !signOf c) && l.any (fun c => isInf c && signOf c) then .nan
  else match l.find? isInf with
    | some c => c
    | none =>
      let v := l.foldl (fun acc c => acc + valOf c) 0
      if v = 0 then .fin (l.all signOf) 0 else .fin (decide (v < 0)) v

/-- prod(c1, c2) (06 R164). -/
def prod (x y : FVal) : FVal :=
  if isNan x || isNan y then .nan
  else if (isInf x && isZero y) || (isZero x && isInf y) then .nan
  else
    let s := signOf x != signOf y
    if isInf x || isInf y then .inf s else .fin s (valOf x * valOf y)

/-- fmin and fmax (06 R160); `hi` selects the maximum. -/
def fminmax (hi : Bool) (x y : FVal) : FVal :=
  match x, y with
  | .nan, _ => .nan
  | _, .nan => .nan
  | .inf n, c => if n != hi then .inf n else c
  | c, .inf n => if n != hi then .inf n else c
  | .fin n v, .fin m w =>
    if v = 0 && w = 0 then .fin (if hi then n && m else n || m) 0
    else if (decide (v < w)) != hi then .fin n v else .fin m w

/-- exact_dot16(acc, a, b, n, fmt) over the pairs of elements listed (06 R165). -/
def exactDot (f : FloatFmt) (acc : Nat) (ps : List (Nat × Nat)) : Nat :=
  roundTo fp32 (exactSum (classify fp32 acc :: ps.map (fun p => prod (classify f p.1) (classify f p.2))))

/-- scale_acc(acc, part, sa, sb) (06 R166). -/
def scaleAcc (acc part sa sb : Nat) : Nat :=
  let x := classify fp16 sa
  let y := classify fp16 sb
  let p := classifyInt part
  if isNan x || isNan y then canonNan fp32
  else if (isInf x || isInf y) && (isZero p || isZero x || isZero y) then canonNan fp32
  else roundTo fp32 (exactSum [classify fp32 acc, prod (prod p x) y])

/-- m of tree(n) for a node of `d` ranks: the largest power of two below `d` (06 R168). -/
def splitOf (d : Nat) : Nat := 2 ^ Nat.log2 (d - 1)

/-- The canonical tree over a list of ranks with a leaf and a node function; `fuel` bounds its depth (06 R168). -/
def treeFold {α : Type} (leaf : α → α) (node : α → α → α) (d : α) : Nat → List α → α
  | 0, l => leaf (l.headD d)
  | fuel + 1, l =>
    if l.length ≤ 1 then leaf (l.headD d)
    else
      let m := splitOf l.length
      node (treeFold leaf node d fuel (l.take m)) (treeFold leaf node d fuel (l.drop m))

/-- leaf of an add, max or min reduction: a NaN becomes canonical (12 R298). -/
def leafF (f : FloatFmt) (x : Nat) : Nat := narrow f (widen f x)

/-- One inner node of canon_sum (06 R168). -/
def nodeAdd (f : FloatFmt) (x y : Nat) : Nat :=
  narrow f (roundTo fp32 (exactSum [classify fp32 (widen f x), classify fp32 (widen f y)]))

/-- One inner node of a maximum or minimum reduction (06 R170). -/
def nodeMM (f : FloatFmt) (hi : Bool) (x y : Nat) : Nat := roundTo f (fminmax hi (classify f x) (classify f y))

/-- canon_sum over the contributions listed, in a wire format (06 R168). -/
def canonSum (f : FloatFmt) (l : List Nat) : Nat := treeFold (leafF f) (nodeAdd f) 0 (l.length + 1) l

/-- quot(x, y) (07 R176). -/
def quot (x y : FVal) : FVal :=
  if isNan x || isNan y then .nan
  else if (isZero x && isZero y) || (isInf x && isInf y) then .nan
  else
    let s := signOf x != signOf y
    if isInf x || isZero y then .inf s
    else if isZero x || isInf y then .fin s 0
    else .fin s (valOf x / valOf y)

/-- rint(x): the integral value, ties to even, with the sign kept (07 R176). -/
def rint : FVal → FVal
  | .fin n v => .fin n ((nearest .ne v : Int) : Rat)
  | c => c

/-- The integer square root by one bit at a time from bit `i`. -/
def isqrtFrom : Nat → Nat → Nat → Nat
  | 0, n, r => if (r + 1) * (r + 1) ≤ n then r + 1 else r
  | i + 1, n, r =>
    let r' := r + 2 ^ (i + 1)
    isqrtFrom i n (if r' * r' ≤ n then r' else r)

/-- The integer square root. -/
def isqrt (n : Nat) : Nat := isqrtFrom (Nat.log2 n / 2 + 1) n 0

/-- A rational that rounds, in every format of the device, as the exact square root of a positive rational does: the
root itself where it has at most 200 fraction bits, and otherwise a value between the same neighbours there. -/
def sqrtRep (v : Rat) : Rat :=
  let n := v.num.natAbs * 4 ^ 200 / v.den
  let r := isqrt n
  if r * r = n && v.num.natAbs * 4 ^ 200 % v.den = 0 then (r : Rat) / ((2 ^ 200 : Nat) : Rat)
  else ((2 * r + 1 : Nat) : Rat) / ((2 ^ 201 : Nat) : Rat)

/-- sqroot(x) (07 R176), up to the representative of `sqrtRep`. -/
def sqroot : FVal → FVal
  | .nan => .nan
  | .inf n => if n then .nan else .inf false
  | .fin n v => if v = 0 then .fin n v else if n then .nan else .fin false (sqrtRep v)

/-- The exact reciprocal with the special inputs of 07 R179. -/
def recip (x : FVal) : FVal := quot (.fin false 1) x

/-- The exact reciprocal square root with the special inputs of 07 R179, up to a representative. -/
def rsqrt : FVal → FVal
  | .nan => .nan
  | .inf n => if n then .nan else .fin false 0
  | .fin n v => if v = 0 then .inf n else if n then .nan else .fin false (sqrtRep (1 / v))

/-- The precision, in bits, of the fixed-point evaluations below; it exceeds by far what any FP32 input needs for the
rounding to be that of the exact value. -/
def prec : Nat := 320

/-- The product of the roots 2^(2^-i) over the set bits of a fraction, in units of 2 to the power -prec. `x` holds the
fraction in the same units, `root` is the current root, and `acc` the product so far. -/
def exp2Bits : Nat → Nat → Nat → Nat → Nat
  | 0, _, _, acc => acc
  | i + 1, x, root, acc =>
    let root' := isqrt (root * 2 ^ prec)
    let bit := 2 * x / 2 ^ prec
    exp2Bits i (2 * x % 2 ^ prec) root' (if bit = 1 then acc * root' / 2 ^ prec else acc)

/-- 2 to a rational power, to the precision above: exact where the power is an integer, and otherwise strictly between
the exact value's neighbours. Powers beyond 300 in magnitude are cut there, where every format has overflowed or
underflowed. -/
def exp2Rep (x : Rat) : Rat :=
  let x := if x < -300 then -300 else if 300 < x then 300 else x
  let k := x.num / (x.den : Int)
  let fr := x - (k : Rat)
  if fr = 0 then pow2 k
  else
    let num := (fr.num.natAbs * 2 ^ prec) / fr.den
    let y := exp2Bits 200 num (2 * 2 ^ prec) (2 ^ prec)
    pow2 k * (((2 * y + 1 : Nat) : Rat) / ((2 ^ (prec + 1) : Nat) : Rat))

/-- VEXP2's exact function with its special inputs (07 R179), up to a representative. -/
def exp2F : FVal → FVal
  | .nan => .nan
  | .inf n => if n then .fin false 0 else .inf false
  | .fin _ v => .fin false (exp2Rep v)

/-- The bits of log2 of a number from 1 up to 2, held in units of 2 to the power -2 * prec, by repeated squaring. -/
def log2Bits : Nat → Nat → Nat → Nat
  | 0, _, acc => acc
  | i + 1, m, acc =>
    let s := m * m / 2 ^ (2 * prec)
    if 2 ^ (2 * prec + 1) ≤ s then log2Bits i (s / 2) (2 * acc + 1) else log2Bits i s (2 * acc)

/-- log2 of a positive rational to the precision above: exact for a power of two, and otherwise strictly between the
exact value's neighbours. -/
def log2Rep (v : Rat) : Rat :=
  let k := floorLog2 v
  let m := v / pow2 k
  if m = 1 then (k : Rat)
  else
    let num := m.num.natAbs * 2 ^ (2 * prec) / m.den
    (k : Rat) + ((2 * log2Bits 240 num 0 + 1 : Nat) : Rat) / ((2 ^ 241 : Nat) : Rat)

/-- VLOG2's exact function with its special inputs (07 R179), up to a representative. -/
def log2F : FVal → FVal
  | .nan => .nan
  | .inf n => if n then .nan else .inf false
  | .fin n v => if v = 0 then .inf true else if n then .nan else
      let r := log2Rep v
      .fin (decide (r < 0)) r

/-- The Taylor sum of e^x for a small x, in units of 2 to the power -prec: `k` terms are left, `n` is the next
factorial's factor, `term` the current term. -/
def expTerms : Nat → Nat → Nat → Nat → Nat → Nat
  | 0, _, _, _, acc => acc
  | k + 1, x, n, term, acc =>
    let t := term * x / 2 ^ prec / n
    expTerms k x (n + 1) t (acc + t)

/-- Squaring `k` times in units of 2 to the power -prec. -/
def squares : Nat → Nat → Nat
  | 0, y => y
  | k + 1, y => squares k (y * y / 2 ^ prec)

/-- tanh of a positive rational: below 2^-13 a value just under the input, as the function is; above 20 a value just
under 1; between them from e^2x to the precision above (07 R178). -/
def tanhRep (x : Rat) : Rat :=
  if x < pow2 (-13) then x * (1 - pow2 (-40))
  else if 20 < x then 1 - pow2 (-40)
  else
    let y := 2 * x / 64
    let num := y.num.natAbs * 2 ^ prec / y.den
    let e := squares 6 (expTerms 90 num 1 (2 ^ prec) (2 ^ prec))
    ((e - 2 ^ prec : Nat) : Rat) / ((e + 2 ^ prec : Nat) : Rat)

/-- VTANH's exact function with its special inputs (07 R179), up to a representative. -/
def tanhF : FVal → FVal
  | .nan => .nan
  | .inf n => .fin n (if n then -1 else 1)
  | .fin n v => if v = 0 then .fin n v else .fin n (if v < 0 then -(tanhRep (-v)) else tanhRep v)

/-- The result of a transcendental word: FP32 rounded once; a 16-bit form rounds to FP32 and then to its format
(06 R155, 07 R178). -/
def transc (g : FVal → FVal) (f : FloatFmt) (x : Nat) : Nat :=
  narrow f (roundTo fp32 (g (classify fp32 (widen f x))))

end Sys2Proof.Machine
end

