-- ==== Sys2Proof/Machine/Ops.lean ====
section
/-!
DEFINITION. The named operations over threads, registers, tiles and local memory that every meaning calls: reading and
writing registers, local loads and stores with poison and conservation monitors, tokens, waiting, retiring, and taking
a fault.
-/
namespace Sys2Proof.Machine

/-- The outcome of a meaning. -/
abbrev Out := Host.Outcome State Fault Refusal

/-! ## Places in the state -/

/-- The tile of a thread number (00 R8). -/
def tileOf (tid : Nat) : Nat := tid / 6

/-- The context of a thread number (00 R8). -/
def ctxOf (tid : Nat) : Nat := tid % 6

/-- The die of a tile (00 R7). -/
def dieOf (tile : Nat) : Nat := tile / 144

/-- The row of a tile in its die (00 R7). -/
def rowNo (tile : Nat) : Nat := tile % 144 / 12

/-- The column of a tile in its die (00 R7). -/
def colNo (tile : Nat) : Nat := tile % 12

/-- The quad of a tile (00 R7). -/
def quadOf (tile : Nat) : Nat := dieOf tile * 36 + rowNo tile / 2 * 6 + colNo tile / 2

/-- Whether a tile position is enabled (01 R14, 00 R7). -/
def enabled (s : State) (tile : Nat) : Bool :=
  decide (tile < 576) && !(s.offTiles.contains tile) && !(s.offQuads.contains (quadOf tile))

/-- A thread, or an empty record where the context is not occupied. -/
def thr (s : State) (tid : Nat) : Thread := look {} s.threads tid

/-- Whether a context holds a thread. -/
def occupied (s : State) (tid : Nat) : Bool := (find s.threads tid).isSome

/-- The state with a thread's record changed. -/
def modThr (tid : Nat) (f : Thread → Thread) (s : State) : State := { s with threads := adjust tid f s.threads }

/-- The thread whose word is at issue. -/
def me (s : State) : Thread := thr s s.cur

/-- The state with the record of the thread at issue changed. -/
def modMe (f : Thread → Thread) (s : State) : State := modThr s.cur f s

/-- A tile; a tile whose record is not listed is as after reset. -/
def tile (s : State) (n : Nat) : Tile := look {} s.tiles n

/-- The state with a tile changed. -/
def modTile (n : Nat) (f : Tile → Tile) (s : State) : State := { s with tiles := put n (f (tile s n)) s.tiles }

/-- A partition, or an empty record where none is created. -/
def part (s : State) (p : Nat) : Partition := look {} s.parts p

/-- The state with a partition changed, where it is created. -/
def modPart (p : Nat) (f : Partition → Partition) (s : State) : State := { s with parts := adjust p f s.parts }

/-- A die; key 4 is the hub's own unit. -/
def die (s : State) (d : Nat) : Die := look {} s.dies d

/-- The state with a die changed. -/
def modDie (d : Nat) (f : Die → Die) (s : State) : State := { s with dies := put d (f (die s d)) s.dies }

/-- A launch. -/
def launch (s : State) (l : Nat) : Launch := look {} s.launches l

/-- The state with a launch changed. -/
def modLaunch (l : Nat) (f : Launch → Launch) (s : State) : State := { s with launches := adjust l f s.launches }

/-- A team. -/
def team (s : State) (t : Nat) : Team := look {} s.teams t

/-- The state with a team changed. -/
def modTeam (t : Nat) (f : Team → Team) (s : State) : State := { s with teams := adjust t f s.teams }

/-- The partition number of a thread. -/
def partOf (s : State) (tid : Nat) : Nat := (thr s tid).id.part

/-- The team and the member that a thread is, which no other thread has been or will be (04 R91). -/
def memberOf (s : State) (tid : Nat) : Nat × Nat := ((thr s tid).id.team, (thr s tid).id.member)

/-- The context in which the thread of a team and a member number lives, if it does: one that is saved has none
(19 R440). -/
def liveAs (s : State) (tm m : Nat) : Option Nat :=
  (s.threads.find? fun e => e.2.id.team = tm && e.2.id.member = m && e.2.tillerOf.isNone).map Prod.fst

/-- The state with the saved thread of a team and a member number in a partition changed (19 R443). -/
def modSaved (p tm m : Nat) (f : Thread → Thread) (s : State) : State :=
  let g := fun (x : Nat × Thread) => if x.2.id.team = tm && x.2.id.member = m then (x.1, f x.2) else x
  modPart p (fun pt => { pt with saved := pt.saved.map fun sv => { sv with members := sv.members.map g } }) s

/-- Whether the thread of a team and a member number is saved in a partition (19 R443). -/
def isSaved (s : State) (p tm m : Nat) : Bool :=
  (part s p).saved.any fun sv => sv.members.any fun x => x.2.id.team = tm && x.2.id.member = m

/-- The current cycle: two network cycles make one (00 R6). -/
def cycle (s : State) : Nat := s.clock.now / 2

/-- The nanosecond counter (24 R482). -/
def nsNow (s : State) : Nat := s.clock.halfNs / 2

/-- The counter as a register reads it. -/
def nsWord (s : State) : Word := BitVec.ofNat 64 (nsNow s)

/-- The schedule tick of a partition (05 R122). -/
def tickOf (s : State) (p : Nat) : Nat := nsNow s / (part s p).cfg.tickns

/-- A fabric port. -/
def portOf (s : State) (n : Nat) : Port := look {} s.hub.ports n

/-- Whether a port carries beats: it is up, and neither direction waits for a new key (17 R380; 25 R503). -/
def carries (x : Port) : Bool := x.up && decide (x.txBeats < keyLimit) && decide (x.rxBeats < keyLimit)

/-- The port by which traffic for a module leaves now: that of the route table, where it carries beats (17 R380, R382;
25 R503). -/
def portTo (s : State) (m : Nat) : Option Nat :=
  match find s.hub.routes m with
  | some q => if carries (portOf s q) then some q else none
  | none => none

/-- Whether a message for a module must wait though a port carries its beats: the neighbour has raised stop on its channel, or
an earlier one of the channel waits (17 R381). -/
def msgHeld (s : State) (d q : Nat) (m : Msg) : Bool :=
  (portOf s q).stop.contains (channelOf m) || s.hub.held.any fun x => fabricTo x = some d && channelOf x = channelOf m

/-- The port by which a message for a module leaves now, if any. -/
def portFor (s : State) (d : Nat) (m : Msg) : Option Nat :=
  match portTo s d with
  | some q => if msgHeld s d q m then none else some q
  | none => none

/-- What leaves the module when a message is sent: nothing where no port carries its beats (17 R380, R382). -/
def leaving (m : Msg) (s : State) : List Msg :=
  match fabricTo m with
  | none => [m]
  | some d => ((portFor s d m).map fun q => byPort s.hub.module q m).toList

/-- The hub after a message is sent: it counts the beats at their port, and a message that no port takes waits there
(DESIGN CHOICE, log entry 90; 17 R380-R382; 25 R503). -/
def hubSends (m : Msg) (s : State) : Hub :=
  match fabricTo m with
  | none => s.hub
  | some d =>
    match portFor s d m with
    | some q => { s.hub with ports := put q { portOf s q with txBeats := (portOf s q).txBeats + beatCount m } s.hub.ports }
    | none => { s.hub with held := s.hub.held ++ [m] }

/-- Send a message to the outside, after those already sent; one for another module leaves by its port. -/
def emit (m : Msg) (s : State) : State := { s with out := s.out ++ leaving m s, hub := hubSends m s }

/-- The TDISP state of a virtual function (25 R501). -/
def tdispOf (s : State) (vf : Nat) : Tdisp := look .unlocked s.sec.tdisp vf

/-- The state with a virtual function's TDISP state changed; only in RUN does its IDE stream have a key (25 R501). -/
def setTdisp (vf : Nat) (x : Tdisp) (s : State) : State :=
  { s with sec := { s.sec with tdisp := put vf x s.sec.tdisp, ide := if x = .run then s.sec.ide else del vf s.sec.ide } }

/-- A message of a virtual function to the host: in RUN it travels on the interface's IDE stream (25 R501). -/
def onStream (s : State) (vf : Nat) (m : Msg) : Msg :=
  match tdispOf s vf, find s.sec.ide vf with
  | .run, some k => .onIde k m
  | _, _ => m

/-- A transaction of a virtual function that fails IDE integrity, or that does not come on the stream of an interface that
runs: it is dropped, and such an interface moves to ERROR (25 R501; log entry 100). -/
def integrityFails (vf : Nat) (s : State) : State := if tdispOf s vf = .run then setTdisp vf .error s else s

/-- What a transaction of a virtual function does: nothing but this where it fails IDE integrity, and nothing at all in
recovery, which exposes no function (25 R497, R501). -/
def fromHost (vf : Nat) (f : State → Out) (s : State) : Out :=
  if s.sec.life = .recovery then .next s else if s.arg.badIde then .next (integrityFails vf s) else f s

/-- The state after the messages that wait at the hub are sent again. -/
def sendHeld (s : State) : State :=
  s.hub.held.foldl (fun s m => emit m s) { s with hub := { s.hub with held := [] } }

/-- The counters of a tile for a partition. -/
def countAt (t : Tile) (p : Nat) : PartCount := look {} t.parts p

/-- The state with a tile's counters for a partition changed. -/
def modCount (n p : Nat) (f : PartCount → PartCount) (s : State) : State :=
  modTile n (fun t => { t with parts := put p (f (countAt t p)) t.parts }) s

/-- Whether a thread is a tiller (04 R92). -/
def isTiller (tid : Nat) : Bool := decide (4 ≤ ctxOf tid)

/-! ## Registers -/

/-- A g register; g0 reads zero (03 R75). -/
def gOf (t : Thread) (n : Nat) : Word := if n = 0 then 0 else look 0 t.c.g n

/-- The thread with a g register written; a write to g0 is discarded (03 R75). -/
def setG (n : Nat) (v : Word) (t : Thread) : Thread :=
  if n = 0 then t else { t with c := { t.c with g := put0 0 n v t.c.g } }

/-- A p register; p0 reads all ones (05 R118). -/
def pOf (t : Thread) (n : Nat) : Word := if n = 0 then BitVec.allOnes 64 else look 0 t.c.p n

/-- The thread with a p register written; a write to p0 is discarded (03 R75). -/
def setP (n : Nat) (v : Word) (t : Thread) : Thread :=
  if n = 0 then t else { t with c := { t.c with p := put0 0 n v t.c.p } }

/-- A t register (05 R117). -/
def tOf (t : Thread) (n : Nat) : Word := look 0 t.c.t n

/-- The thread with a t register written (05 R139). -/
def setT (n : Nat) (v : Word) (t : Thread) : Thread := { t with c := { t.c with t := put0 0 n v t.c.t } }

/-- The thread at a macro PC. -/
def setPc (v : Word) (t : Thread) : Thread := { t with c := { t.c with pc := v } }

/-- A v register (05 R118). -/
def vOf (t : Thread) (n : Nat) : Row := look zeroRow t.e.v n

/-- The thread with a v register written. -/
def setV (n : Nat) (r : Row) (t : Thread) : Thread := { t with e := { t.e with v := put0 zeroRow n r t.e.v } }

/-- A bypass latch (07 R172). -/
def bOf (t : Thread) (n : Nat) : Row := look zeroRow t.e.b n

/-- The thread with a bypass latch written. -/
def setB (n : Nat) (r : Row) (t : Thread) : Thread := { t with e := { t.e with b := put0 zeroRow n r t.e.b } }

/-- Accumulator element (i, j) of a set (10 R238). -/
def accOf (t : Thread) (set i j : Nat) : Lane := look 0 t.e.acc (set * 8192 + i * 128 + j)

/-- The thread with an accumulator element written. -/
def setAcc (set i j : Nat) (v : Lane) (t : Thread) : Thread :=
  { t with e := { t.e with acc := put0 0 (set * 8192 + i * 128 + j) v t.e.acc } }

/-- The state of a copy token (11 R279). -/
def kOf (t : Thread) (n : Nat) : TokSt := look .idle t.e.k n

/-- The thread with a copy token moved (11 R279). -/
def setK (n : Nat) (v : TokSt) (t : Thread) : Thread := { t with e := { t.e with k := put0 .idle n v t.e.k } }

/-- An engine stream of a thread. -/
def engOf (t : Thread) (st : Nat) : EngStream := look {} t.eng st

/-- The thread with an engine stream changed. -/
def modEng (st : Nat) (f : EngStream → EngStream) (t : Thread) : Thread :=
  { t with eng := put st (f (engOf t st)) t.eng }

/-! ## Local memory -/

/-- Whether `n` bytes from an address lie in one allocation of the thread (08 R195). -/
def inAlloc (t : Thread) (a n : Nat) : Bool :=
  (decide (t.sr.spbase.toNat ≤ a) && decide (a + n ≤ t.sr.spbase.toNat + t.sr.spsize.toNat)) ||
  (decide (t.sr.sbbase.toNat ≤ a) && decide (a + n ≤ t.sr.sbbase.toNat + t.sr.sbsize.toNat))

/-- The bytes of a monitored field (21 R453). -/
def fieldSize (m : Monitor) : Nat := if m.fmt = 0 || m.fmt = 3 then 4 else 2

/-- The address of field `k` of a monitor (21 R453). -/
def fieldAddr (m : Monitor) (k : Nat) : Nat := m.base + k * m.stride + m.foff

/-- A field's finite value in units of 2 to the power -149, and none where it is not finite or lies in a poisoned word
(21 R453, R454). -/
def fieldVal (t : Tile) (m : Monitor) (k : Nat) : Option Int :=
  let a := fieldAddr m k
  if poisonedIn t.poison a (fieldSize m) then none
  else
    let x := leNat (readBytes t.mem a (fieldSize m))
    let c := match m.fmt with
      | 0 => classify fp32 x
      | 1 => classify bf16 x
      | 2 => classify fp16 x
      | _ => classifyInt x
    match c with
    | .fin _ v => some ((v * pow2 149).num)
    | _ => none

/-- Whether a monitor of a tile belongs to a member of a saved team that has been placed there and is still to be restored
(19 R443, R444; 21 R452). -/
def monComing (s : State) (t i : Nat) : Bool :=
  s.parts.any fun e => e.2.saved.any fun sv => (sv.mons.zip sv.placed).any fun x => x.2.1 = t && (find x.1 i).isSome

/-- The fields that a monitor counts whose bytes meet `n` bytes from an address. -/
def fieldsIn (m : Monitor) (a n : Nat) : List Nat :=
  if m.stride = 0 then [] else
  let k0 := (a - (m.base + m.foff + fieldSize m - 1)) / m.stride
  ((upFrom k0 (n / m.stride + 3)).filter fun k =>
    decide (k < m.scan) && decide (fieldAddr m k < a + n) && decide (a < fieldAddr m k + fieldSize m))

/-- A monitor after the bytes of its fields have changed from those of `t0` to those of `t1` within `n` bytes of an
address (21 R454). -/
def monFollow (t0 t1 : Tile) (a n : Nat) (m : Monitor) : Monitor :=
  (fieldsIn m a n).foldl (fun m k =>
    let m1 := match fieldVal t0 m k with
      | some o => { m with acc := m.acc - o }
      | none => { m with nf := m.nf - 1 }
    match fieldVal t1 m k with
    | some v => { m1 with acc := m1.acc + v }
    | none => { m1 with nf := min (2 ^ 25 - 1) (m1.nf + 1) }) m

/-- The tile `t1` with its monitors following a change from `t0` (21 R454). -/
def follow (t0 t1 : Tile) (a n : Nat) : Tile :=
  { t1 with mons := t1.mons.map fun p => (p.1, monFollow t0 t1 a n p.2) }

/-- A run of bytes to store; `none` leaves its byte as it is. -/
abbrev Run := List (Option Byte)

/-- Whether a run from an address gives all eight bytes of the word at `w`. -/
def covers (run : Run) (a w : Nat) : Bool :=
  decide (a ≤ w) && decide (w + 8 ≤ a + run.length) && ((run.drop (w - a)).take 8).all Option.isSome

/-- Whether a run from an address gives some byte of the word at `w`. -/
def touches (run : Run) (a w : Nat) : Bool :=
  (upFrom w 8).any fun x => decide (a ≤ x) && (run.getD (x - a) none).isSome

/-- The bytes of a run that are written: those in words that are not poisoned or that it covers whole (08 R203). -/
def writeRun (p : List Nat) (run : Run) (a0 : Nat) : Memory → Nat → Run → Memory
  | m, _, [] => m
  | m, a, none :: rest => writeRun p run a0 m (a + 1) rest
  | m, a, some b :: rest =>
    let w := a / 8 * 8
    writeRun p run a0 (if p.contains w && !(covers run a0 w) then m else writeByte m a b) (a + 1) rest

/-- One access that stores a run of bytes at a local address: poison, the discarded partial writes and the monitors, which
follow every field of the words it touches (08 R203, 21 R454). `bad` says which words the data poisons (08 R202). -/
def storeRun (run : Run) (a : Nat) (bad : Nat → Bool) (t : Tile) : Tile :=
  let ws := (wordsOf a run.length).filter (touches run a)
  let dropped := (ws.filter fun w => t.poison.contains w && !(covers run a w)).length
  let mem := writeRun t.poison run a t.mem a run
  let cleared := t.poison.filter fun w => !(covers run a w)
  let poison := (ws.filter bad).foldl (fun p w => addNat w p) cleared
  follow t { t with mem := mem, poison := poison, pdrop := satAdd 65535 t.pdrop dropped } (a / 8 * 8) (8 * (wordsOf a run.length).length)

/-- A store of whole bytes that carry no poison. -/
def storeBytes (bs : List Byte) (a : Nat) (t : Tile) : Tile := storeRun (bs.map some) a (fun _ => false) t

/-- A monitor after a word that holds some of its fields is found in error: it loses each field as found, and counts it
as not finite whatever it counted before (21 R508). -/
def monPoison (t : Tile) (w : Nat) (m : Monitor) : Monitor :=
  (fieldsIn m w 8).foldl (fun m k =>
    { m with acc := m.acc - (fieldVal t m k).getD 0, nf := min (2 ^ 25 - 1) (m.nf + 1) }) m

/-- The tile after an uncorrectable error found in a word poisons it (08 R202, 21 R508). -/
def poisonWord (w : Nat) (t : Tile) : Tile :=
  if t.poison.contains w then t
  else { t with poison := addNat w t.poison, uncorr := satAdd 65535 t.uncorr 1,
                mons := t.mons.map fun p => (p.1, monPoison t w p.2) }

/-! ## Faults of issue -/

/-- An illegal-instruction fault with a reason (03 R88, R89; 19 R424). -/
def illegalRec (st r : Nat) : FaultRec := { code := 4, engine := st, lo := BitVec.ofNat 64 r }

/-- A local-bounds fault: cause 1 misaligned, 2 outside the allocations (19 R424). -/
def boundsRec (st cause a : Nat) : FaultRec :=
  { code := 3, engine := st, lo := BitVec.ofNat 64 cause, addr := BitVec.ofNat 64 a }

/-- A poisoned-data fault at an address (19 R424). -/
def poisonRec (st a : Nat) : FaultRec := { code := 6, engine := st, addr := BitVec.ofNat 64 a }

/-- An access-permission fault with its cause (19 R424). -/
def accessRec (st cause a : Nat) : FaultRec :=
  { code := 1, engine := st, lo := BitVec.ofNat 64 cause, addr := BitVec.ofNat 64 a }

/-- A flow-table-misuse fault with its flow and cause (19 R424). -/
def flowRec (st flow cause : Nat) (idx : Nat := 0) : FaultRec :=
  { code := 10, engine := st, lo := BitVec.ofNat 64 (flow % 65536 + cause * 65536 + idx * 16777216) }

/-- The fault of reading `n` bytes of local memory at an address that must be a multiple of `align`, if any: first
alignment, then the allocations, then poison (05 R140, 09 R230, 10 R255, 12 R310). -/
def readFault (t : Thread) (tl : Tile) (st a n align : Nat) : Option FaultRec :=
  if a % align != 0 then some (boundsRec st 1 a)
  else if !(inAlloc t a n) then some (boundsRec st 2 a)
  else if poisonedIn tl.poison a n then some (poisonRec st a)
  else none

/-- The fault of writing `n` bytes of local memory, if any. -/
def writeFault (t : Thread) (st a n align : Nat) : Option FaultRec :=
  if a % align != 0 then some (boundsRec st 1 a)
  else if !(inAlloc t a n) then some (boundsRec st 2 a)
  else none

/-! ## Tracing (24 R486-R489) -/

/-- The four words of a trace record (24 R486). -/
def traceRec (s : State) (type ctx st mpc pos : Nat) (a b : Word) : List Word :=
  [nsWord s, BitVec.ofNat 64 (type + (ctx + st * 16) * 256 + mpc % 65536 * 65536 + pos % 2 ^ 32 * 2 ^ 32), a, b]

/-- The state after an event of the thread is offered to its tile's trace buffer, which takes the events of a network cycle
at its end: `always` for a stop record; `bit` is the class of the event in the field ev (24 R487, R488). -/
def traceEv (tid : Nat) (always : Bool) (bit type st mpc pos : Nat) (a b : Word) (s : State) : State :=
  let ctx := ctxOf tid
  modTile (tileOf tid) (fun t =>
    let ctl := t.trace.ctl.toNat
    if bitOf ctl 63 && !(bitOf ctl 62) && (always || (bitOf ctl (57 + bit) && bitOf ctl (51 + ctx))) then
      { t with trace := { t.trace with evs := t.trace.evs ++ [(ctx * 8 + st, traceRec s type ctx st mpc pos a b)] } }
    else t) s

/-- The state after trigger `n` is asserted on a tile by a context, at the word of stream `st` that `mpc` and `pos` name: it
acts at the end of the network cycle where it is armed, recording is not frozen and no earlier trigger's post count runs
(24 R486, R489). -/
def trigger (tid n st mpc pos : Nat) (s : State) : State :=
  modTile (tileOf tid) (fun t =>
    let ctl := t.trace.ctl.toNat
    if bitOf ctl (35 + n) && !(bitOf ctl 62) && t.trace.post.isNone then
      { t with trace := { t.trace with trigs := t.trace.trigs ++ [(n, traceRec s 4 (ctxOf tid) st mpc pos (BitVec.ofNat 64 n) 0)] } }
    else t) s

/-- A trace buffer that freezes (24 R489). -/
def freezeTrace (t : Trace) : Trace := { t with post := none, ctl := t.ctl ||| BitVec.ofNat 64 (2 ^ 62) }

/-- A trace buffer after a record is written at its place, with the post count of a trigger that has acted (24 R486,
R489). -/
def writeRecord (w : List Word) (t : Trace) : Trace :=
  let next := (t.next + 1) % 2048
  let t1 : Trace := { t with
    buf := (w.zip (upFrom (t.next * 4) 4)).foldl (fun b p => put0 0 p.2 p.1 b) t.buf
    next := next, wrapped := t.wrapped || next = 0 }
  match t.post with
  | some n => if n ≤ 1 then freezeTrace t1 else { t1 with post := some (n - 1) }
  | none => t1

/-- A trace buffer, with the number of records that it has taken in the network cycle, after one more: none while it is
frozen, at most two in a cycle, and none into a full buffer that does not wrap (24 R487, R488). -/
def record (x : Trace × Nat) (w : List Word) : Trace × Nat :=
  let (t, used) := x
  let ctl := t.ctl.toNat
  if bitOf ctl 62 then x
  else if (t.wrapped && !(bitOf ctl 61)) || 2 ≤ used then ({ t with lost := satAdd (2 ^ 32 - 1) t.lost 1 }, used)
  else (writeRecord w t, used + 1)

/-- The trigger of the lowest number of those asserted in a network cycle (24 R496). -/
def firstTrigger (l : List (Nat × List Word)) : Option (Nat × List Word) := (upFrom 0 16).findSome? fun n => l.find? fun x => x.1 = n

/-- A trace buffer after a trigger acts: its record comes first, and the post count starts (24 R489, R496). -/
def actTrigger (n : Nat) (w : List Word) (t : Trace) : Trace × Nat :=
  let (t1, used) := if bitOf t.ctl.toNat 63 then record (t, 0) w else (t, 0)
  let c := t1.ctl.toNat
  let post := bitsOf c 24 11
  let t2 : Trace := { t1 with ctl := BitVec.ofNat 64 (c - bitsOf c 20 4 * 2 ^ 20 + n * 2 ^ 20) }
  (if post = 0 then freezeTrace t2 else { t2 with post := some post }, used)

/-- A trace buffer at the end of a network cycle: the trigger that acts, then the events in order of context and stream
(24 R488, R489, R496). -/
def tickTrace (t : Trace) : Trace :=
  if t.evs.isEmpty && t.trigs.isEmpty then t
  else
    let t0 : Trace := { t with evs := [], trigs := [] }
    let x := match firstTrigger t.trigs with
      | some (n, w) => actTrigger n w t0
      | none => (t0, 0)
    (((upFrom 0 48).flatMap fun k => (t.evs.filter fun e => e.1 = k).map Prod.snd).foldl record x).1

/-! ## Host memory, device memory and the fault-log ring -/

/-- The words of host or device memory that `n` bytes from an address touch, with their old values: what a speculative
read may still return within 1000 ns (14 R342). -/
def oldWords (s : State) (host : Bool) (a n : Nat) : List OldWord :=
  (wordsOf a n).map fun w =>
    { host := host, addr := w, value := leWord (readBytes (if host then s.host else s.hbm.mem) w 8)
      bad := (if host then s.hostPoison else s.hbm.poison).contains w, ns := nsNow s }

/-- The state with the old values of words about to be written remembered, and those older than 1000 ns forgotten. -/
def remember (host : Bool) (a n : Nat) (s : State) : State :=
  { s with old := oldWords s host a n ++ s.old.filter fun o => decide (nsNow s ≤ o.ns + 1000) }

/-- The `n` bytes of host memory from an address. -/
def hostRead (s : State) (a n : Nat) : List Byte := readBytes s.host a n

/-- The state after bytes are written to host memory. -/
def hostWrite (a : Nat) (bs : List Byte) (s : State) : State :=
  let s1 := remember true a bs.length s
  { s1 with host := writeBytes s1.host a bs }

/-- Whether the fault-log ring of a partition has room, with nothing waiting before it (16 R361). -/
def flqRoom (s : State) (p : Nat) : Bool :=
  let pt := part s p
  pt.logWait.isEmpty && decide ((pt.regs.flqtail - pt.regs.flqhead).toNat < pt.regs.flqsize.toNat)

/-- The bytes of a fault-log record (16 R361). -/
def flqRec (kind flags p vf pasid va count prgi : Nat) (extra : Word) : List Byte :=
  toBytes 1 kind ++ toBytes 1 flags ++ toBytes 1 p ++ toBytes 1 vf ++ toBytes 4 pasid ++ toBytes 8 va ++ toBytes 4 count ++
    toBytes 4 prgi ++ toBytes 8 extra.toNat

/-- The state after a record is written at FLQTAIL and FLQTAIL advances (16 R361). -/
def flqWrite (p : Nat) (bs : List Byte) (s : State) : State :=
  let g := (part s p).regs
  let a := g.flqbase.toNat + g.flqtail.toNat % g.flqsize.toNat * 32
  modPart p (fun pt => { pt with regs := { pt.regs with flqtail := pt.regs.flqtail + 1 } }) (hostWrite a bs s)

/-- The state after a record is offered to the ring: where the ring is full its unit holds it (16 R361). -/
def flqPut (p : Nat) (bs : List Byte) (s : State) : State :=
  if flqRoom s p then flqWrite p bs s else modPart p (fun pt => { pt with logWait := pt.logWait ++ [bs] }) s

/-- The state after records that wait are written while the ring has room; `fuel` bounds them. -/
def flqFlush (p : Nat) : Nat → State → State
  | 0, s => s
  | fuel + 1, s =>
    let pt := part s p
    match pt.logWait with
    | [] => s
    | bs :: rest =>
      if (pt.regs.flqtail - pt.regs.flqhead).toNat < pt.regs.flqsize.toNat then
        flqFlush p fuel (flqWrite p bs (modPart p (fun pt => { pt with logWait := rest }) s))
      else s

/-! ## Record and replay (24 R493-R495) -/

/-- The recording mode a thread's words are under: a thread that has diverged runs live (24 R495). -/
def recMode (t : Thread) : Nat := if t.replay.div then 0 else t.replay.mode

/-- Whether a word that writes `n` log records waits for room in the ring (24 R493). -/
def logFull (s : State) (tid n : Nat) : Bool :=
  let g := (part s (partOf s tid)).regs
  recMode (thr s tid) = 1 && decide (g.recsize.toNat < (g.rectail - g.rechead).toNat + n)

/-- The sixteen bytes of a log record (24 R493). -/
def logRec (v : Word) (tid kind stream : Nat) (idx : BitVec 32) : List Byte :=
  toBytes 8 v.toNat ++ toBytes 2 tid ++ toBytes 1 kind ++ toBytes 1 stream ++ toBytes 4 idx.toNat

/-- The state after a thread writes its next log record, and the ring place the record took; a word whose value comes
later fills it in there. -/
def logPut (tid kind stream : Nat) (v : Word) (s : State) : Nat × State :=
  let p := partOf s tid
  let g := (part s p).regs
  let a := g.recbase.toNat + g.rectail.toNat % g.recsize.toNat * 16
  (a, modPart p (fun pt => { pt with regs := { pt.regs with rectail := pt.regs.rectail + 1 } })
    (modThr tid (fun t => { t with replay := { t.replay with count := t.replay.count + 1 } })
      (hostWrite a (logRec v tid kind stream (thr s tid).replay.count) s)))

/-- The state after the value of a log record whose place is taken has come. -/
def logFill (a : Nat) (v : Word) (s : State) : State := hostWrite a (toBytes 8 v.toNat) s

/-- A replaying thread diverges: div is set and a kind-7 record is written (24 R495). -/
def diverge (tid flags : Nat) (idx : Nat) (s : State) : State :=
  let t := thr s tid
  flqPut t.id.part (flqRec 7 flags t.id.part t.id.vf t.id.pasid idx tid 0 (nsWord s))
    (modThr tid (fun t => { t with replay := { t.replay with div := true } }) s)

/-- The log index of the next record of a thread from RECHEAD onward, in a ring of `fuel` records (24 R494). -/
def logFind (s : State) (g : PartRegs) (tid : Nat) : Nat → Nat → Option Nat
  | 0, _ => none
  | fuel + 1, i =>
    if g.rectail.toNat ≤ i then none
    else if !(g.rectaken.contains i) &&
        leNat (hostRead s (g.recbase.toNat + i % g.recsize.toNat * 16 + 8) 2) = tid then some i
    else logFind s g tid fuel (i + 1)

/-- RECHEAD past the records taken at its front. -/
def logAdvance : Nat → Nat → List Nat → Nat × List Nat
  | 0, h, l => (h, l)
  | fuel + 1, h, l => if l.contains h then logAdvance fuel (h + 1) (delNat h l) else (h, l)

/-- A replaying thread takes its next record: the value where kind and stream match, and otherwise it diverges
(24 R494, R495). -/
def logTake (tid kind stream : Nat) (s : State) : Option Word × State :=
  let p := partOf s tid
  let g := (part s p).regs
  match logFind s g tid (g.rectail.toNat - g.rechead.toNat) g.rechead.toNat with
  | none => (none, diverge tid 2 g.rectail.toNat s)
  | some i =>
    let r := hostRead s (g.recbase.toNat + i % g.recsize.toNat * 16) 16
    if field r 10 1 = kind && field r 11 1 = stream then
      let (h, l) := logAdvance (g.rectaken.length + 1) g.rechead.toNat (addNat i g.rectaken)
      (some (BitVec.ofNat 64 (field r 0 8)),
        modPart p (fun pt => { pt with regs := { pt.regs with rechead := BitVec.ofNat 64 h, rectaken := l } })
          (modThr tid (fun t => { t with replay := { t.replay with count := t.replay.count + 1 } }) s))
    else (none, diverge tid 2 i s)

/-- The value of a replaying thread's next record, where kind and stream match; nothing is taken yet. -/
def logPeek (tid kind stream : Nat) (s : State) : Option Word :=
  let g := (part s (partOf s tid)).regs
  match logFind s g tid (g.rectail.toNat - g.rechead.toNat) g.rechead.toNat with
  | none => none
  | some i =>
    let r := hostRead s (g.recbase.toNat + i % g.recsize.toNat * 16) 16
    if field r 10 1 = kind && field r 11 1 = stream then some (BitVec.ofNat 64 (field r 0 8)) else none

/-- A word of a thread consumes a shared input with the live value `v`: what it takes is `v` itself, recorded where the
thread records, or the recorded value where the thread replays (24 R493, R494). -/
def consume (tid kind stream : Nat) (v : Word) (s : State) : Word × State :=
  match recMode (thr s tid) with
  | 1 => (v, (logPut tid kind stream v s).2)
  | 2 =>
    match logTake tid kind stream s with
    | (some x, s1) => (x, s1)
    | (none, s1) => (v, s1)
  | _ => (v, s)

/-! ## Taking a fault (19 R416-R419, R438, R439) -/

/-- Where a stream of a thread stands: command index and mPC of the call in expansion, or of the head entry
(19 R431). -/
def posOf (t : Thread) (st : Nat) : BitVec 32 × Nat × Nat :=
  let e := engOf t st
  match e.call with
  | some c => (c.entry.cmd, c.mpc, c.iter)
  | none =>
    match e.queue with
    | q :: _ => (q.cmd, if q.one then 0 else 2, 0)
    | [] => (e.next, 65535, 4095)

/-- The stream that a fault stops at its word: that of a precise fault (19 R416, R418). -/
def failingOf (f : FaultRec) : Option Nat := if f.defer then none else some f.engine

/-- The streams that issue nothing more: the failing one, and the C stream where it is held (19 R418). -/
def stopsOf (failing : Option Nat) (holdC : Bool) : List Nat := failing.toList ++ (if holdC then [0] else [])

/-- The freeze a fault begins in network cycle `now` (19 R418): a precise fault stops its stream at the failing word,
a deferred one and an interrupt let every stream go on to the end of the cycle; `holdC` keeps the C stream at its
position, as TRAP and EBRK do. -/
def freezeOf (s : State) (f : Option FaultRec) (holdC : Bool) (taken : Nat) : Freeze :=
  { fault := f
    failing := f.bind failingOf
    stops := stopsOf (f.bind failingOf) holdC
    raisedAt := s.clock.now
    cut := cycle s * 2 + 1
    taken := taken
    ns := nsWord s }

/-- The mPC and position of the word that a fault names: of an asynchronous one the word that started the work, and
otherwise where its stream stands (19 R423, R424; log entry 113). -/
def faultPos (t : Thread) (f : FaultRec) : Nat × Nat :=
  if f.async then (bitsOf f.lo.toNat 16 16, f.cmd.toNat)
  else if f.engine = 0 then (0, t.c.pc.toNat)
  else ((posOf t f.engine).2.1, (posOf t f.engine).1.toNat)

/-- A fault is counted on its tile with what goes with it: trigger 15 (24 R489), the count of refused translations and
permissions (16 R378), and the divergence of a replaying thread (24 R495). -/
def countFault (tid : Nat) (f : FaultRec) (s : State) : State :=
  let s0 := if f.code = 1 && (f.lo.toNat % 256 = 2 || f.lo.toNat % 256 = 3) then
      modCount (tileOf tid) (partOf s tid) (fun c => { c with refused := satAdd 65535 c.refused 1 }) s else s
  let w := faultPos (thr s tid) f
  let s1 := trigger tid 15 f.engine w.1 w.2 (modTile (tileOf tid) (fun t => { t with faults := satAdd 65535 t.faults 1 }) s0)
  let g := (part s1 (partOf s1 tid)).regs
  if recMode (thr s1 tid) = 2 then
    diverge tid 1 ((logFind s1 g tid (g.rectail.toNat - g.rechead.toNat) g.rechead.toNat).getD g.rectail.toNat) s1
  else s1

/-- The freeze of an interrupt after a fault of its shadow: the fault is recorded, and the interrupt is pending
(19 R439). -/
def shadowFault (s : State) (f : FaultRec) (holdC : Bool) (z : Freeze) : Freeze :=
  { z with
    fault := some f, failing := failingOf f, stops := z.stops ++ stopsOf (failingOf f) holdC, raisedAt := s.clock.now
    was := z.closed, pending := if z.taken = 0 then z.pending else z.taken
    behind := if z.taken = 0 then z.behind else z.pending, taken := 0, closed := false, ns := nsWord s }

/-- Whether a fault takes the place of the one recorded: both are raised in this network cycle, and its stream is the
smaller (19 R447). -/
def precedes (s : State) (f g : FaultRec) (z : Freeze) : Bool :=
  !z.closed && z.raisedAt = s.clock.now && f.engine < g.engine

/-- Take a fault on a thread. A running thread begins its freeze. A thread that an interrupt is stopping, or has
stopped before its save or report, takes the fault first and keeps the interrupt pending (19 R439); one whose debug stop
is reported holds a deferred fault. A thread that is already frozen for a fault holds a deferred one (19 R419); a
precise one is found again when its word is run again. Of two faults of one network cycle that of the smaller stream is
recorded, and a deferred one that gives way is held (19 R447). The streams that the fault stops stand still in every
case. -/
def raise (tid : Nat) (f : FaultRec) (holdC : Bool) (s : State) : State :=
  let still := fun (z : Freeze) => { z with stops := z.stops ++ stopsOf (failingOf f) holdC }
  let hold := fun (g : FaultRec) (t : Thread) => if g.defer then { t with held := t.held ++ [g] } else t
  match (thr s tid).frz with
  | none => countFault tid f (modThr tid (fun t => { t with frz := some (freezeOf s (some f) holdC 0) }) s)
  | some z =>
    match z.fault with
    | none =>
      if z.closed && z.taken = 2 then modThr tid (hold f) s
      else countFault tid f (modThr tid (fun t => { t with frz := some (shadowFault s f holdC z) }) s)
    | some g =>
      if precedes s f g z then
        modThr tid (fun t => hold g { t with frz := some { still z with fault := some f, failing := failingOf f } }) s
      else modThr tid (fun t => hold f { t with frz := some (still z) }) s

/-! ## Issue and waiting -/

/-- The state with the class of a stream head recorded (24 R483, R484). -/
def setHead (tid st : Nat) (h : Head) (s : State) : State :=
  modThr tid (fun t => { t with heads := put st h t.heads }) s

/-- The word at issue waits on the flag of a number (24 R484): nothing else changes. -/
def waitFlag (n : Nat) (s : State) : Out := .next (setHead s.cur s.strm (.flag n) s)

/-- The word at issue waits on something that has no flag number and that the stall watchdog counts (04 R112). -/
def waitStuck (n : Nat) (s : State) : Out := .next (setHead s.cur s.strm (.stuck n) s)

/-- The word at issue waits on something that has no flag number (24 R483). -/
def waitBusy (s : State) : Out := .next (setHead s.cur s.strm .busy s)

/-- The word at issue raises a precise fault: it has not issued (19 R416). -/
def faultAt (f : FaultRec) (s : State) : Out :=
  let (cmd, _, _) := posOf (me s) s.strm
  let f := if s.strm = 0 then f else { f with cmd := cmd }
  .next (setHead s.cur s.strm .busy (raise s.cur { f with engine := s.strm } false s))

/-- The word at issue is illegal with a reason found only at its issue (03 R88). -/
def illegalAt (r : Nat) (s : State) : Out := faultAt (illegalRec s.strm r) s

/-- What every issue of a word by a thread does: the stall count returns to zero, the head is issuing, and the word
takes the thread's next word number (04 R112, 24 R483). -/
def issued (tid st : Nat) (s : State) : State :=
  setHead tid st .issuing (modThr tid (fun t => { t with
    stallNs := 0, kn := t.kn + 1, noMatch := delNat st t.noMatch }) s)

/-- Whether a far request's declared use keeps the order of its class (14 R340). -/
def keepsOrder (r : FarReq) : Bool :=
  match r.ord with
  | .rlx .unpaired => true
  | .rlx _ => false
  | _ => true

/-- Whether a far request is an acquire, or may be one when its compare-and-swap fails (14 R333, R343). -/
def isAcquire (r : FarReq) : Bool :=
  match r.ord with
  | .acq _ => true
  | .acqrel _ => true
  | _ => r.failAcq

/-- Whether an acquire of a thread has not retired: no later C access issues (14 R334). -/
def acquiring (t : Thread) : Bool := t.far.any fun r => isAcquire r && !r.replied

/-- Whether a local access of the C stream in a class must wait for a far request of the thread (14 R330, R334). -/
def classHeld (t : Thread) (cls : Nat) : Bool :=
  acquiring t || t.far.any fun r => !r.done && keepsOrder r && (r.cls = cls || r.cls = 15 || cls = 15)

/-- The state after a C word of `n` halfwords has issued and completed: the thread's record changes by `f`, the macro PC
advances, and the control core counts the issue for its round robin (04 R109). -/
def wordDone (n : Nat) (f : Thread → Thread) (s : State) : State :=
  modTile (tileOf s.cur) (fun t => { t with coreLast := ctxOf s.cur, coreAt := some s.clock.now })
    (modMe (fun t => f (setPc (t.c.pc + BitVec.ofNat 64 n) { t with cn := t.cn + 1 })) (issued s.cur 0 s))

/-- A C word of `n` halfwords issues and completes. -/
def doneC (n : Nat) (f : Thread → Thread) (s : State) : Out :=
  if !(occupied s s.cur) then .fault .noThread else .next (wordDone n f s)

/-- A C word of `n` halfwords issues and changes the whole state by `f` after the macro PC has advanced. -/
def doneCS (n : Nat) (f : State → State) (s : State) : Out :=
  match doneC n (fun t => t) s with
  | .next s1 => .next (f s1)
  | o => o

/-- A C word that stays at its position this network cycle but counts as issued by the core (a word that works over
several network cycles). -/
def workC (f : State → State) (s : State) : Out :=
  if !(occupied s s.cur) then .fault .noThread
  else .next (modTile (tileOf s.cur) (fun t => { t with coreLast := ctxOf s.cur, coreAt := some s.clock.now })
    (f (setHead s.cur 0 .issuing s)))

/-! ## Tokens (04 R103-R107) -/

/-- Tokens in the FIFO from one stream to another (04 R103). -/
def fifo (t : Thread) (x y : Nat) : Nat := look 0 t.fifo (x * 7 + y)

/-- Places reserved in a FIFO (04 R105). -/
def rsvd (t : Thread) (x y : Nat) : Nat := look 0 t.rsv (x * 7 + y)

/-- The thread with a FIFO's count changed. -/
def setFifo (x y n : Nat) (t : Thread) : Thread := { t with fifo := put0 0 (x * 7 + y) n t.fifo }

/-- The thread with a FIFO's reservations changed. -/
def setRsv (x y n : Nat) (t : Thread) : Thread := { t with rsv := put0 0 (x * 7 + y) n t.rsv }

/-- The words of a stream that have issued and not both retired and released (04 R105). -/
def wordsIn (t : Thread) (st : Nat) : List Issued := if st = 0 then t.cwords else (engOf t st).words

/-- The thread with a stream's issued words changed. -/
def modWords (st : Nat) (f : List Issued → List Issued) (t : Thread) : Thread :=
  if st = 0 then { t with cwords := f t.cwords } else modEng st (fun e => { e with words := f e.words }) t

/-- The list without the retired words at its head that push nothing. -/
def prune : List Issued → List Issued
  | [] => []
  | w :: rest => if w.retired && w.push.isNone then prune rest else w :: rest

/-- The thread after a word of a stream is listed as issued; a push reserves its place (04 R105). -/
def listWord (st wid : Nat) (retired : Bool) (push : Option Nat) (t : Thread) : Thread :=
  let t1 := match push with
    | some y => setRsv st y (rsvd t st y + 1) t
    | none => t
  modWords st (fun ws => prune (ws ++ [{ wid := wid, retired := retired, push := push }])) t1

/-- The thread whose word of a number counts as retired from a network cycle on. -/
def setDue (st wid due : Nat) (t : Thread) : Thread :=
  modWords st (fun ws => ws.map fun w => if w.wid = wid then { w with due := due } else w) t

/-- The thread in which a word retires one network cycle later. -/
def delayDue (st wid : Nat) (t : Thread) : Thread :=
  modWords st (fun ws => ws.map fun w => if w.wid = wid then { w with due := w.due + 1 } else w) t

/-- The thread at the end of a network cycle: the words that were to retire in it have (12 R310). -/
def retireDue (st now : Nat) (t : Thread) : Thread :=
  modWords st (fun ws => prune (ws.map fun w => if !w.retired && 0 < w.due && w.due ≤ now then { w with retired := true } else w)) t

/-- The thread after a word has retired (04 R99). -/
def retire (st wid : Nat) (t : Thread) : Thread :=
  modWords st (fun ws => prune (ws.map fun w => if w.wid = wid then { w with retired := true } else w)) t

/-- The network cycle from which every local load that a thread has issued has landed (05 R141). -/
def loadsLand (t : Thread) : Nat := t.gReady.foldl (fun n e => max n e.2) 0

/-- Whether every word a stream has issued has retired (04 R102). -/
def allRetired (t : Thread) (st : Nat) : Bool := (wordsIn t st).all (·.retired)

/-- Whether a FIFO has no room for a push in a cycle: it is full with its reservations, a place freed by a pop of this
same cycle not counted (04 R105, R107). -/
def noRoom (cyc : Nat) (t : Thread) (x y : Nat) : Bool :=
  decide (16 ≤ fifo t x y + rsvd t x y + (if look 0 t.pops (x * 7 + y) = cyc + 1 then 1 else 0))

/-- The thread after a stream pops a token (04 R105). -/
def popFrom (cyc x y : Nat) (t : Thread) : Thread :=
  { setFifo x y (fifo t x y - 1) t with pops := put (x * 7 + y) (cyc + 1) t.pops }

/-- The flag number on which a token field makes its word wait, if it must wait: a pop from an empty FIFO or a push
that finds no room (04 R105, 24 R484). -/
def tokWait (cyc : Nat) (t : Thread) (st : Nat) (tk : Tok) : Option Nat :=
  if tk.pop && fifo t tk.chan st = 0 then some (tk.chan * 7 + st)
  else if tk.push && noRoom cyc t st tk.chan then some (st * 7 + tk.chan)
  else none

/-- The thread after a word pops as its token field says. -/
def popTok (cyc st : Nat) (tk : Tok) (t : Thread) : Thread := if tk.pop then popFrom cyc tk.chan st t else t

/-- The stream a token field pushes to. -/
def pushOf (tk : Tok) : Option Nat := if tk.push then some tk.chan else none

/-! ## Engine words -/

/-- The entries of a stream that have left its queue in network cycle `now` (04 R98). -/
def departed (now : Nat) (e : EngStream) : Nat := if e.leftAt.1 = now + 1 then e.leftAt.2 else 0

/-- A stream whose head entry leaves its queue in network cycle `now` (04 R97, R98). -/
def dropEntry (now : Nat) (e : EngStream) : EngStream :=
  { e with queue := e.queue.tail, leftAt := (now + 1, departed now e + 1) }

/-- A stream as a word of its call issues: the entry leaves the queue with the first word of the last iteration
(04 R97). -/
def leaveQueue (now : Nat) (e : EngStream) : EngStream :=
  match e.call with
  | none => e
  | some c =>
    if c.iter + 1 = c.rep && !c.left then
      { dropEntry now e with call := some { c with left := true } }
    else e

/-- The position after a word of `n` halfwords of a call has issued, with nothing held there; none where the call ends
with the last word of its last iteration (03 R67, 04 R99). -/
def nextPlace (n : Nat) (c : Call) : Option Call :=
  let c1 := { c with prog := 0, held := false, snapA := [], snapB := [], got := [], part := 0 }
  if c.mpc + n < c.len then some { c1 with mpc := c.mpc + n }
  else if c.iter + 1 = c.rep then none
  else some { c1 with mpc := 2, iter := c.iter + 1 }

/-- The thread's stream after a word of `n` halfwords of its call has issued: the entry leaves the queue at the first of
the last iteration, and the position advances (03 R67; 04 R97, R99). -/
def advance (now n : Nat) (e : EngStream) : EngStream :=
  let e1 := leaveQueue now e
  { e1 with call := e1.call.bind (nextPlace n) }

/-- The tile's engine after a block call of a context has ended: it is free and the round robin goes on after that
context (04 R109). -/
def freeEngine (tid st : Nat) (s : State) : State :=
  modTile (tileOf tid) (fun t =>
    let a := look {} t.eng st
    if a.owner = some (ctxOf tid) then { t with eng := put st { a with owner := none, last := ctxOf tid } t.eng }
    else t) s

/-- An engine word of `n` halfwords has issued: its position advances, and where its call has ended the engine is
free. -/
def advEng (n : Nat) (s : State) : State :=
  let s1 := modMe (modEng s.strm (advance s.clock.now n)) s
  if (engOf (me s1) s.strm).call.isNone then freeEngine s.cur s.strm s1 else s1

/-- The state after an engine word has issued: its token field has acted, it is listed as issued under the thread's word
number, and its position has advanced (04 R97, R105). -/
def engDone (n : Nat) (tk : Tok) (retired : Bool) (s : State) : State :=
  advEng n (issued s.cur s.strm
    (modMe (fun t => listWord s.strm (me s).kn retired (pushOf tk) (popTok (cycle s) s.strm tk t)) s))

/-- An engine word issues, and `f` gives its effect from its word number. `retired` says that all its effects are made
at issue. -/
def issueEng (n : Nat) (tk : Tok) (retired : Bool) (f : Nat → State → State) (s : State) : Out :=
  if !(occupied s s.cur) then .fault .noThread else .next (f (me s).kn (engDone n tk retired s))

/-- An engine word with a token field and checks: it waits for its token and for room, then raises the fault its
checks find, and otherwise issues (04 R105, 03 R88, 19 R418). -/
def engWord (n : Nat) (tk : Tok) (retired : Bool) (check : State → Option FaultRec) (f : Nat → State → State)
    (s : State) : Out :=
  if !(occupied s s.cur) then .fault .noThread
  else match tokWait (cycle s) (me s) s.strm tk with
  | some fl => waitFlag fl s
  | none =>
    match check s with
    | some r => faultAt r s
    | none => issueEng n tk retired f s

/-- The iteration index of the call at issue (03 R67). -/
def iterOf (s : State) : Nat :=
  match (engOf (me s) s.strm).call with
  | some c => c.iter
  | none => 0

/-- The call at issue. -/
def callOf (s : State) : Call := (engOf (me s) s.strm).call.getD {}

/-- The state with the call at issue changed. -/
def modCall (f : Call → Call) (s : State) : State :=
  modMe (modEng s.strm fun e => { e with call := e.call.map f }) s

/-! ## Barriers (04 R113-R115) -/

/-- A barrier of a team. -/
def barOf (tm : Team) (n : Nat) : Barrier := look {} tm.bars n

/-- The flits that a receive queue holds, heads included (12 R291). -/
def queueFlits (l : List RxPkt) : Nat := l.foldl (fun n r => n + 1 + (r.arrived - r.taken)) 0

/-- Whether a thread has an arrival outstanding at a barrier. -/
def arrivedAt (t : Thread) (n : Nat) : Bool := t.arrivals.contains n

/-- The state after a thread arrives at a barrier of its team: its arrival is outstanding (04 R115). -/
def arriveBar (tid n : Nat) (s : State) : State :=
  let t := thr s tid
  modTeam t.id.team (fun tm =>
    let b := barOf tm n
    { tm with bars := put n { b with arrived := addNat t.id.member b.arrived } tm.bars })
    (modThr tid (fun t => { t with arrivals := addNat n t.arrivals }) s)

/-- The state of a C word that consumes a shared input of a kind, with its result register written: what recording
captures and replay gives goes through this one operation (24 R493, R494). -/
def setShared (d kind : Nat) (v : Word) (s : State) : State :=
  let (x, s1) := consume s.cur kind 0 v s
  modMe (setG d x) s1

end Sys2Proof.Machine
end

