-- ==== Sys2Proof/Machine/Flags.lean ====
section
/-!
DEFINITION. Predicates: the relations of the compares of both streams, the one operation that writes a predicate
(05 R120), and the trace records of predicate writes and memory accesses (24 R486). The machine has no other flags.
-/
namespace Sys2Proof.Machine

/-- The whole-register result of a scalar compare: all ones when the relation holds, all zeros otherwise (05 R133). -/
def relWord (h : Bool) : Word := if h then BitVec.allOnes 64 else 0

/-- The six relations of CMP and CMPI on 64-bit values, in the order of the function code (05 R133). -/
def relEq (a b : Word) : Bool := a == b

/-- NE (05 R133). -/
def relNe (a b : Word) : Bool := a != b

/-- LT, signed (05 R133). -/
def relLt (a b : Word) : Bool := a.slt b

/-- LE, signed (05 R133). -/
def relLe (a b : Word) : Bool := a.sle b

/-- LTU, unsigned (05 R133). -/
def relLtu (a b : Word) : Bool := a.ult b

/-- LEU, unsigned (05 R133). -/
def relLeu (a b : Word) : Bool := a.ule b

/-- The order of two classified values, if they are ordered: neither is a NaN (07 R184). Zeros compare equal. -/
def fcmp (x y : FVal) : Option Ordering :=
  match x, y with
  | .nan, _ => none
  | _, .nan => none
  | .inf a, .inf b => some (if a = b then .eq else if a then .lt else .gt)
  | .inf a, _ => some (if a then .lt else .gt)
  | _, .inf b => some (if b then .gt else .lt)
  | .fin _ v, .fin _ w => some (if v < w then .lt else if v = w then .eq else .gt)

/-- The bits of a predicate write that stand: those that no engine word of a larger stream wrote in the same network
cycle (05 R120). A C word is stream 0. -/
def bitsLeft (t : Thread) (now st n : Nat) (bits : Word) : Word :=
  t.pEng.foldl (fun m e => if e.1 = n && e.2.1 = now && st < e.2.2.1 then m &&& ~~~e.2.2.2 else m) bits

/-- The thread after a stream writes the named bits of a predicate (05 R120). -/
def putP (now st n : Nat) (bits v : Word) (t : Thread) : Thread :=
  let m := bitsLeft t now st n bits
  let t1 := setP n ((pOf t n &&& ~~~m) ||| (v &&& m)) t
  if st = 0 then t1
  else { t1 with pEng := (n, now, st, m) :: t.pEng.filter (fun e => e.2.1 == now) }

/-- The state after a stream of a thread writes the named bits of a predicate; the write is an event of the trace
(24 R486). `mpc` and `pos` name the word. -/
def writeP (tid st n : Nat) (bits v : Word) (mpc pos : Nat) (s : State) : State :=
  let s1 := modThr tid (putP s.clock.now st n bits v) s
  if n = 0 then s1
  else traceEv tid false 1 2 st mpc pos (BitVec.ofNat 64 n) (pOf (thr s1 tid) n) s1

/-- The state after a memory access of a word is offered to the trace: `bit` 2 for local memory, 3 for far, copy and
flow memory (24 R486, R487). -/
def traceMem (tid st bit mpc pos a n cls : Nat) (wr : Bool) (s : State) : State :=
  traceEv tid false bit 3 st mpc pos (BitVec.ofNat 64 a) (BitVec.ofNat 64 (n + cls * 65536 + wr.toNat * 1048576)) s

/-- The trace's mPC and position of the word at issue (24 R486). -/
def here (s : State) : Nat × Nat :=
  if s.strm = 0 then (0, (me s).c.pc.toNat)
  else match posOf (me s) s.strm with
    | (cmd, mpc, _) => (mpc, cmd.toNat)

/-- The state after a memory access of the word at issue is offered to the trace. -/
def traceHere (bit a n cls : Nat) (wr : Bool) (s : State) : State :=
  traceMem s.cur s.strm bit (here s).1 (here s).2 a n cls wr s

end Sys2Proof.Machine
end

