-- ==== Sys2Proof/Machine/Control.lean ====
section
/-!
DEFINITION. The control core's arithmetic, compares, predicate logic, select, branches, local loads and stores, and
the plain words of the system group (05 R127-R144, R147, R148).
-/
namespace Sys2Proof.Machine

/-! ## Arithmetic (05 R127-R132) -/

/-- A C word of two halfwords that writes a g register from the thread's registers (05 R127). -/
def alu (d : Nat) (v : Thread → Word) (s : State) : Out := doneC 2 (fun t => setG d (v t) t) s

/-- The sign-extended immediate of format CI (05 R128). -/
def sx12 (imm : BitVec 12) : Word := imm.signExtend 64

/-- The shift count of the shifts and rotates: the low six bits (05 R127). -/
def shc (b : Word) : Nat := b.toNat % 64

/-- The number of one bits of the low `n` bits of a number (05 R127). -/
def ones : Nat → Nat → Nat
  | 0, _ => 0
  | n + 1, x => x % 2 + ones n (x / 2)

/-- The number of leading zero bits of an `n`-bit number (05 R127). -/
def leadingZeros (n x : Nat) : Nat := if x = 0 then n else n - 1 - Nat.log2 x

/-- The quotient of DIV with its corners (05 R130). -/
def divS (a b : Word) : Word := if b = 0 then BitVec.allOnes 64 else a.sdiv b

/-- The quotient of DIVU with its corner (05 R130). -/
def divU (a b : Word) : Word := if b = 0 then BitVec.allOnes 64 else a / b

/-- The remainder of REM with its corners (05 R130). -/
def remS (a b : Word) : Word := if b = 0 then a else a.srem b

/-- The remainder of REMU with its corner (05 R130). -/
def remU (a b : Word) : Word := if b = 0 then a else a % b

/-- A dividing word: with dzen set, a zero divisor raises the divide-by-zero fault and writes nothing (05 R130). -/
def divWord (d a b : Nat) (f : Word → Word → Word) (s : State) : Out :=
  if !(occupied s s.cur) then .fault .noThread
  else if gOf (me s) b = 0 && (me s).sr.dzen then faultAt { code := 5 } s
  else alu d (fun t => f (gOf t a) (gOf t b)) s

/-- ADD (05 R127). -/
def execAdd (d a b : Nat) (s : State) : Out := alu d (fun t => gOf t a + gOf t b) s

/-- SUB (05 R127). -/
def execSub (d a b : Nat) (s : State) : Out := alu d (fun t => gOf t a - gOf t b) s

/-- MUL (05 R127). -/
def execMul (d a b : Nat) (s : State) : Out := alu d (fun t => gOf t a * gOf t b) s

/-- MULH, the high half of the signed product (05 R127). -/
def execMulh (d a b : Nat) (s : State) : Out :=
  alu d (fun t => BitVec.ofInt 64 ((gOf t a).toInt * (gOf t b).toInt / (2 ^ 64 : Nat))) s

/-- MULHU, the high half of the unsigned product (05 R127). -/
def execMulhu (d a b : Nat) (s : State) : Out :=
  alu d (fun t => BitVec.ofNat 64 ((gOf t a).toNat * (gOf t b).toNat / 2 ^ 64)) s

/-- DIV (05 R127, R130). -/
def execDiv (d a b : Nat) (s : State) : Out := divWord d a b divS s

/-- DIVU (05 R127, R130). -/
def execDivu (d a b : Nat) (s : State) : Out := divWord d a b divU s

/-- REM (05 R127, R130). -/
def execRem (d a b : Nat) (s : State) : Out := divWord d a b remS s

/-- REMU (05 R127, R130). -/
def execRemu (d a b : Nat) (s : State) : Out := divWord d a b remU s

/-- AND (05 R127). -/
def execAnd (d a b : Nat) (s : State) : Out := alu d (fun t => gOf t a &&& gOf t b) s

/-- OR (05 R127). -/
def execOr (d a b : Nat) (s : State) : Out := alu d (fun t => gOf t a ||| gOf t b) s

/-- XOR (05 R127). -/
def execXor (d a b : Nat) (s : State) : Out := alu d (fun t => gOf t a ^^^ gOf t b) s

/-- ANDN (05 R127). -/
def execAndn (d a b : Nat) (s : State) : Out := alu d (fun t => gOf t a &&& ~~~(gOf t b)) s

/-- SHL (05 R127). -/
def execShl (d a b : Nat) (s : State) : Out := alu d (fun t => gOf t a <<< shc (gOf t b)) s

/-- SHR (05 R127). -/
def execShr (d a b : Nat) (s : State) : Out := alu d (fun t => gOf t a >>> shc (gOf t b)) s

/-- SAR (05 R127). -/
def execSar (d a b : Nat) (s : State) : Out := alu d (fun t => (gOf t a).sshiftRight (shc (gOf t b))) s

/-- MIN, signed (05 R127). -/
def execMin (d a b : Nat) (s : State) : Out :=
  alu d (fun t => if (gOf t a).slt (gOf t b) then gOf t a else gOf t b) s

/-- MAX, signed (05 R127). -/
def execMax (d a b : Nat) (s : State) : Out :=
  alu d (fun t => if (gOf t a).slt (gOf t b) then gOf t b else gOf t a) s

/-- MINU (05 R127). -/
def execMinu (d a b : Nat) (s : State) : Out :=
  alu d (fun t => if (gOf t a).ult (gOf t b) then gOf t a else gOf t b) s

/-- MAXU (05 R127). -/
def execMaxu (d a b : Nat) (s : State) : Out :=
  alu d (fun t => if (gOf t a).ult (gOf t b) then gOf t b else gOf t a) s

/-- ROL (05 R127). -/
def execRol (d a b : Nat) (s : State) : Out := alu d (fun t => (gOf t a).rotateLeft (shc (gOf t b))) s

/-- ROR (05 R127). -/
def execRor (d a b : Nat) (s : State) : Out := alu d (fun t => (gOf t a).rotateRight (shc (gOf t b))) s

/-- CLZ (05 R127). -/
def execClz (d a : Nat) (s : State) : Out := alu d (fun t => BitVec.ofNat 64 (leadingZeros 64 (gOf t a).toNat)) s

/-- POPC (05 R127). -/
def execPopc (d a : Nat) (s : State) : Out := alu d (fun t => BitVec.ofNat 64 (ones 64 (gOf t a).toNat)) s

/-- SEXTW (05 R127). -/
def execSextw (d a : Nat) (s : State) : Out := alu d (fun t => ((gOf t a).setWidth 32).signExtend 64) s

/-- ZEXTW (05 R127). -/
def execZextw (d a : Nat) (s : State) : Out := alu d (fun t => ((gOf t a).setWidth 32).setWidth 64) s

/-- ADDI (05 R128). -/
def execAddi (d a : Nat) (imm : BitVec 12) (s : State) : Out := alu d (fun t => gOf t a + sx12 imm) s

/-- ANDI (05 R128). -/
def execAndi (d a : Nat) (imm : BitVec 12) (s : State) : Out := alu d (fun t => gOf t a &&& sx12 imm) s

/-- ORI (05 R128). -/
def execOri (d a : Nat) (imm : BitVec 12) (s : State) : Out := alu d (fun t => gOf t a ||| sx12 imm) s

/-- XORI (05 R128). -/
def execXori (d a : Nat) (imm : BitVec 12) (s : State) : Out := alu d (fun t => gOf t a ^^^ sx12 imm) s

/-- SHLI (05 R128). -/
def execShli (d a n : Nat) (s : State) : Out := alu d (fun t => gOf t a <<< n) s

/-- SHRI (05 R128). -/
def execShri (d a n : Nat) (s : State) : Out := alu d (fun t => gOf t a >>> n) s

/-- SARI (05 R128). -/
def execSari (d a n : Nat) (s : State) : Out := alu d (fun t => (gOf t a).sshiftRight n) s

/-- MULI (05 R128). -/
def execMuli (d a : Nat) (imm : BitVec 12) (s : State) : Out := alu d (fun t => gOf t a * sx12 imm) s

/-- The compact ADDI, a word of one halfword (05 R129). -/
def execAddiCompact (g : Nat) (imm : BitVec 5) (s : State) : Out :=
  doneC 1 (fun t => setG g (gOf t g + imm.signExtend 64) t) s

/-- LUI (05 R131). -/
def execLui (d : Nat) (imm : BitVec 18) (s : State) : Out := alu d (fun _ => imm.signExtend 64 <<< 12) s

/-- ADDPC: the offset is added to the place of the word itself (05 R132). -/
def execAddpc (d : Nat) (imm : BitVec 12) (s : State) : Out :=
  let pc := (me s).c.pc
  alu d (fun _ => pc + sx12 imm) s

/-! ## Compares, predicate logic, select (05 R133-R135) -/

/-- A C word that writes a whole predicate register (05 R120). -/
def predWord (p : Nat) (v : Thread → Word) (s : State) : Out :=
  let pc := (me s).c.pc.toNat
  let w := v (me s)
  doneCS 2 (writeP s.cur 0 p (BitVec.allOnes 64) w 0 pc) s

/-- A register compare (05 R133). -/
def cmpWord (p a b : Nat) (rel : Word → Word → Bool) (s : State) : Out :=
  predWord p (fun t => relWord (rel (gOf t a) (gOf t b))) s

/-- An immediate compare; the immediate is sign-extended first (05 R133). -/
def cmpiWord (p a : Nat) (imm : BitVec 12) (rel : Word → Word → Bool) (s : State) : Out :=
  predWord p (fun t => relWord (rel (gOf t a) (sx12 imm))) s

/-- CMP.EQ (05 R133). -/
def execCmpEq (p a b : Nat) (s : State) : Out := cmpWord p a b relEq s

/-- CMP.NE (05 R133). -/
def execCmpNe (p a b : Nat) (s : State) : Out := cmpWord p a b relNe s

/-- CMP.LT (05 R133). -/
def execCmpLt (p a b : Nat) (s : State) : Out := cmpWord p a b relLt s

/-- CMP.LE (05 R133). -/
def execCmpLe (p a b : Nat) (s : State) : Out := cmpWord p a b relLe s

/-- CMP.LTU (05 R133). -/
def execCmpLtu (p a b : Nat) (s : State) : Out := cmpWord p a b relLtu s

/-- CMP.LEU (05 R133). -/
def execCmpLeu (p a b : Nat) (s : State) : Out := cmpWord p a b relLeu s

/-- CMPI.EQ (05 R133). -/
def execCmpiEq (p a : Nat) (imm : BitVec 12) (s : State) : Out := cmpiWord p a imm relEq s

/-- CMPI.NE (05 R133). -/
def execCmpiNe (p a : Nat) (imm : BitVec 12) (s : State) : Out := cmpiWord p a imm relNe s

/-- CMPI.LT (05 R133). -/
def execCmpiLt (p a : Nat) (imm : BitVec 12) (s : State) : Out := cmpiWord p a imm relLt s

/-- CMPI.LE (05 R133). -/
def execCmpiLe (p a : Nat) (imm : BitVec 12) (s : State) : Out := cmpiWord p a imm relLe s

/-- CMPI.LTU (05 R133). -/
def execCmpiLtu (p a : Nat) (imm : BitVec 12) (s : State) : Out := cmpiWord p a imm relLtu s

/-- CMPI.LEU (05 R133). -/
def execCmpiLeu (p a : Nat) (imm : BitVec 12) (s : State) : Out := cmpiWord p a imm relLeu s

/-- PAND (05 R134). -/
def execPand (d a b : Nat) (s : State) : Out := predWord d (fun t => pOf t a &&& pOf t b) s

/-- POR (05 R134). -/
def execPor (d a b : Nat) (s : State) : Out := predWord d (fun t => pOf t a ||| pOf t b) s

/-- PXOR (05 R134). -/
def execPxor (d a b : Nat) (s : State) : Out := predWord d (fun t => pOf t a ^^^ pOf t b) s

/-- PANDN (05 R134). -/
def execPandn (d a b : Nat) (s : State) : Out := predWord d (fun t => pOf t a &&& ~~~(pOf t b)) s

/-- PNOT (05 R134). -/
def execPnot (d a : Nat) (s : State) : Out := predWord d (fun t => ~~~(pOf t a)) s

/-- SEL, on bit 0 of the predicate (05 R135). -/
def execSel (d p a b : Nat) (s : State) : Out := alu d (fun t => if (pOf t p).getLsbD 0 then gOf t a else gOf t b) s

/-! ## Branches (05 R136-R139) -/

/-- A word that writes a target register: the fetch at the target starts, and a taken branch waits three network
cycles from here (05 R139). -/
def target (n : Nat) (v : Thread → Word) (s : State) : Out :=
  doneC 2 (fun t => { setT n (v t) t with tReady := put n (s.clock.now + 3) t.tReady }) s

/-- PBR: the displacement is added to the place of the word itself (05 R136). -/
def execPbr (n : Nat) (disp : BitVec 22) (s : State) : Out :=
  let pc := (me s).c.pc
  target n (fun _ => pc + disp.signExtend 64) s

/-- PBRR (05 R137). -/
def execPbrr (n a : Nat) (imm : BitVec 12) (s : State) : Out := target n (fun t => gOf t a + sx12 imm) s

/-- The thread after a taken branch to `pc`, with the link written where the word is a CALL (05 R138). -/
def branchTo (link : Bool) (back pc : Word) (t : Thread) : Thread :=
  setPc pc (if link then setG 62 back t else t)

/-- BR and CALL: a taken branch waits until its target's fetch is three network cycles old and then goes there; the
branch is an event of the trace (05 R138, R139; 24 R486). -/
def branchWord (p n : Nat) (link : Bool) (s : State) : Out :=
  let t := me s
  if !((pOf t p).getLsbD 0) then doneC 1 (fun t => t) s
  else if s.clock.now < look 0 t.tReady n then waitBusy s
  else
    let pc := t.c.pc
    let dest := tOf t n
    doneCS 1 (fun s1 => traceEv s1.cur false 0 1 0 0 pc.toNat dest pc
      (modMe (branchTo link (pc + 1) dest) s1)) s

/-- BR (05 R138). -/
def execBr (p t : Nat) (s : State) : Out := branchWord p t false s

/-- CALL (05 R138). -/
def execCall (p t : Nat) (s : State) : Out := branchWord p t true s

/-! ## Local loads and stores (05 R140-R142) -/

/-- The address of a local access of `size` bytes (05 R140). -/
def localAddr (t : Thread) (a size : Nat) (off : BitVec 8) : Nat :=
  (gOf t a + off.signExtend 64 * BitVec.ofNat 64 size).toNat

/-- The value of a load: its bytes extended by sign or by zero (05 R140). -/
def extendBytes (sgn : Bool) (bs : List Byte) : Word :=
  if sgn then wordOfInt (signed (8 * bs.length) (leNat bs)) else leWord bs

/-- The network cycles from the issue of a local load to the first C word that may name its register: 8 for scratchpad,
16 for the stacked bank (05 R141, 08 R195). -/
def loadTime (x : Nat) : Nat := if 0x1000000 ≤ x then 16 else 8

/-- The thread with a register written whose value a C word can name `k` network cycles after `now` (05 R119). -/
def landsIn (now k d : Nat) (v : Word) (t : Thread) : Thread :=
  { setG d v t with gReady := if d = 0 then t.gReady else put d (now + k) t.gReady }

/-- The thread after a local load at `x` has issued in network cycle `now` (05 R140, R141). -/
def loaded (now d x : Nat) (v : Word) (t : Thread) : Thread := landsIn now (loadTime x) d v t

/-- A local load: its register reaches later C words through the interlock (05 R140, R141). -/
def loadWord (d a cls size : Nat) (off : BitVec 8) (sgn : Bool) (s : State) : Out :=
  if !(occupied s s.cur) then .fault .noThread
  else if classHeld (me s) cls then waitBusy s
  else
    let x := localAddr (me s) a size off
    let tl := tile s (tileOf s.cur)
    match readFault (me s) tl 0 x size size with
    | some f => faultAt f s
    | none => doneCS 2 (fun s1 => modMe (loaded s.clock.now d x (extendBytes sgn (readBytes tl.mem x size)))
        (traceMem s1.cur 0 2 0 (me s).c.pc.toNat x size cls false s1)) s

/-- A local store; a write into a poisoned word's part is discarded, and monitors follow (05 R140, R141). -/
def storeWord (d a cls size : Nat) (off : BitVec 8) (s : State) : Out :=
  if !(occupied s s.cur) then .fault .noThread
  else if classHeld (me s) cls then waitBusy s
  else
    let x := localAddr (me s) a size off
    match writeFault (me s) 0 x size size with
    | some f => faultAt f s
    | none =>
      let bs := toBytes size (gOf (me s) d).toNat
      doneCS 2 (fun s1 => modTile (tileOf s1.cur) (storeBytes bs x)
        (traceMem s1.cur 0 2 0 (me s).c.pc.toNat x size cls true s1)) s

/-- LD.B (05 R140). -/
def execLdB (d a cls : Nat) (off : BitVec 8) (s : State) : Out := loadWord d a cls 1 off true s

/-- LD.H (05 R140). -/
def execLdH (d a cls : Nat) (off : BitVec 8) (s : State) : Out := loadWord d a cls 2 off true s

/-- LD.W (05 R140). -/
def execLdW (d a cls : Nat) (off : BitVec 8) (s : State) : Out := loadWord d a cls 4 off true s

/-- LD.D (05 R140). -/
def execLdD (d a cls : Nat) (off : BitVec 8) (s : State) : Out := loadWord d a cls 8 off true s

/-- LDU.B (05 R140). -/
def execLduB (d a cls : Nat) (off : BitVec 8) (s : State) : Out := loadWord d a cls 1 off false s

/-- LDU.H (05 R140). -/
def execLduH (d a cls : Nat) (off : BitVec 8) (s : State) : Out := loadWord d a cls 2 off false s

/-- LDU.W (05 R140). -/
def execLduW (d a cls : Nat) (off : BitVec 8) (s : State) : Out := loadWord d a cls 4 off false s

/-- ST.B (05 R140). -/
def execStB (d a cls : Nat) (off : BitVec 8) (s : State) : Out := storeWord d a cls 1 off s

/-- ST.H (05 R140). -/
def execStH (d a cls : Nat) (off : BitVec 8) (s : State) : Out := storeWord d a cls 2 off s

/-- ST.W (05 R140). -/
def execStW (d a cls : Nat) (off : BitVec 8) (s : State) : Out := storeWord d a cls 4 off s

/-- ST.D (05 R140). -/
def execStD (d a cls : Nat) (off : BitVec 8) (s : State) : Out := storeWord d a cls 8 off s

/-! ## The system group (05 R143-R148) -/

/-- NOP (05 R143). -/
def execNop (s : State) : Out := doneC 1 (fun t => t) s

/-- YIELD: the context stays out of arbitration until the other contexts that were ready have issued one C word each, or
for 6 network cycles; `State.ready` names those that the control core found ready (05 R144). -/
def execYield (s : State) : Out :=
  let others := (s.ready.filter fun u => tileOf u = tileOf s.cur && u != s.cur && occupied s u).map
    fun u => (ctxOf u, (thr s u).cn)
  doneC 1 (fun t => { t with yieldTo := some (s.clock.now + 6, others) }) s

/-- TRIG (05 R147, 24 R489). -/
def execTrig (n : Nat) (s : State) : Out := doneCS 1 (trigger s.cur n 0 0 (me s).c.pc.toNat) s

/-- TRAP: it retires, and then raises the deferred software-trap fault with the C stream held after it (05 R148,
19 R418). -/
def execTrap (code : Nat) (s : State) : Out :=
  doneCS 2 (raise s.cur { code := 11, defer := true, lo := BitVec.ofNat 64 code } true) s

end Sys2Proof.Machine
end

