-- ==== Sys2Proof/Machine/Queues.lean ====
section
/-!
DEFINITION. Code sections, engine queues, tokens given and taken by the C stream, block calls, the nest table with its
checks (03 R60-R68, 04 R96-R110, 10 R241-R244).
-/
namespace Sys2Proof.Machine

/-! ## Code (03 R60-R68) -/

/-- The image a thread runs (02 R58, 19 R425). -/
def imageOf (s : State) (tid : Nat) : Image :=
  let id := (thr s tid).id
  look {} (part s id.part).images id.image

/-- The code section of a stream of a thread's image (03 R62). -/
def codeOf (s : State) (tid st : Nat) : List Half := look [] (imageOf s tid).code st

/-- The halfwords from an offset to the end of a section: nothing where the offset lies outside it (03 R62). -/
def codeFrom (s : State) (tid st off : Nat) : List Half := (codeOf s tid st).drop off

/-- The header word of a block, if both its halfwords lie in the section (03 R64). -/
def headerAt (s : State) (tid st off : Nat) : Option Nat :=
  match codeFrom s tid st off with
  | h0 :: h1 :: _ => some (h0.toNat + h1.toNat * 65536)
  | _ => none

/-- The field len of a header; 0 encodes 1024 (03 R64). -/
def hdrLen (h : Nat) : Nat := if bitsOf h 22 10 = 0 then 1024 else bitsOf h 22 10

/-- The field rep of a header (03 R64). -/
def hdrRep (h : Nat) : Nat := bitsOf h 10 12

/-- The field rg of a header (03 R64). -/
def hdrRg (h : Nat) : Nat := bitsOf h 4 6

/-- Whether a header breaks R64 (03 R64, R65). -/
def hdrBad (h : Nat) : Bool :=
  !(bitOf h 0) || bitOf h 1 || bitsOf h 2 2 == 3 || bitsOf h 22 10 == 1 || bitsOf h 22 10 == 2 ||
  (hdrRep h == 0) == (hdrRg h == 0)

/-- The reason for which a block call is illegal, if it is: a malformed header 5, a count above 4095 6, a block or
header outside the section 7, the smallest first (03 R65, R66, R89; 04 R101). -/
def callFault (s : State) (tid st : Nat) (q : QEntry) : Option Nat :=
  let code := codeFrom s tid st q.off
  if q.one then none
  else match code with
    | [] => some 7
    | h0 :: rest =>
      if h0.toNat % 2 = 0 then some 5
      else match rest with
        | [] => some 7
        | h1 :: _ =>
          let h := h0.toNat + h1.toNat * 65536
          if hdrBad h then some 5
          else if 4095 < q.cnt then some 6
          else if code.length < hdrLen h || 262144 ≤ q.off then some 7
          else none

/-- The count a push reads for a block: its rep field, or the register it names (03 R66, 04 R100). A header outside
the section gives 0; its fault comes when the entry reaches the engine. -/
def pushCount (s : State) (st off : Nat) : Nat :=
  match headerAt s s.cur st off with
  | none => 0
  | some h => if hdrRep h = 0 && hdrRg h ≠ 0 then (gOf (me s) (hdrRg h)).toNat else hdrRep h

/-! ## ENQ, FORK, JOIN, GIVE, TAKE (04 R98-R107) -/

/-- Whether a queue has a free place; the places freed in this network cycle are not yet free (04 R97, R98). -/
def queueRoom (now : Nat) (e : EngStream) : Bool :=
  decide (e.queue.length + departed now e < 32)

/-- The thread after an entry is pushed to a queue: it keeps the count at which it was pushed (04 R96, R97). -/
def pushEntry (st off : Nat) (one : Bool) (cnt : Nat) (t : Thread) : Thread :=
  modEng st (fun e => { e with
    queue := e.queue ++ [{ off := off, one := one, cnt := cnt, cmd := e.next }], next := e.next + 1 }) t

/-- A C word that a tiller context may not issue: reason 8 (04 R93). -/
def appOnly (k : State → Out) (s : State) : Out :=
  if !(occupied s s.cur) then .fault .noThread else if isTiller s.cur then illegalAt 8 s else k s

/-- ENQ (04 R100). -/
def execEnq (st off : Nat) (one : Bool) (s : State) : Out :=
  appOnly (fun s =>
    if queueRoom s.clock.now (engOf (me s) st) then
      doneC 2 (pushEntry st off one (if one then 1 else pushCount s st off)) s
    else waitStuck st s) s

/-- The pushes of FORK: the offsets come from consecutive registers in rising bit order (04 R101). -/
def forkPushes (s : State) (a mask : Nat) : List (Nat × Nat × Nat) :=
  let bs := (upFrom 0 6).filter (bitOf mask)
  (bs.zip (upFrom 0 6)).map fun p =>
    let off := (gOf (me s) (a + p.2)).toNat
    (p.1 + 1, off, pushCount s (p.1 + 1) off)

/-- FORK: all its pushes in one network cycle, when every named queue has room (04 R101). -/
def execFork (a mask : Nat) (s : State) : Out :=
  appOnly (fun s =>
    match (upFrom 0 6).find? (fun b => bitOf mask b && !(queueRoom s.clock.now (engOf (me s) (b + 1)))) with
    | some b => waitStuck (b + 1) s
    | none => doneC 2 (fun t => (forkPushes s a mask).foldl (fun t p => pushEntry p.1 p.2.1 false p.2.2 t) t) s) s

/-- Whether a queue is empty with no call in expansion and every word it issued has retired (04 R102). DESIGN CHOICE (log
entry 75): a call whose entry has left the queue with words still to issue is waited for. -/
def streamIdle (t : Thread) (st : Nat) : Bool :=
  let e := engOf t st
  e.queue.isEmpty && e.call.isNone && allRetired t st

/-- JOIN (04 R102). -/
def execJoin (mask : Nat) (s : State) : Out :=
  appOnly (fun s =>
    if (upFrom 0 6).all fun b => !(bitOf mask b) || streamIdle (me s) (b + 1) then doneC 1 (fun t => t) s
    else waitStuck 7 s) s

/-- GIVE: it reserves its place at issue; its token is released once it and every earlier C word have retired, local
loads among them (04 R106, 05 R141). -/
def execGive (x : Nat) (s : State) : Out :=
  appOnly (fun s =>
    if noRoom (cycle s) (me s) 0 x then waitFlag x s
    else doneC 1 (fun t => setDue 0 (me s).kn (loadsLand t) (listWord 0 (me s).kn true (some x) t)) s) s

/-- TAKE (04 R106). -/
def execTake (x : Nat) (s : State) : Out :=
  appOnly (fun s =>
    if fifo (me s) x 0 = 0 then waitFlag (x * 7) s
    else doneC 1 (popFrom (cycle s) x 0) s) s

/-- Whether a thread is past its cut: words that retire from then on retire into the frozen context (19 R418). -/
def pastCut (s : State) (t : Thread) : Bool :=
  match t.frz with
  | none => false
  | some z => z.closed || decide (z.cut < s.clock.now)

/-- Event TOKEN_RELEASE: the oldest listed word of a stream (`b`) of a thread (`a`) has retired and pushes, so its
reservation becomes a token (04 R105). A frozen context keeps its reservations (R107). -/
def execTokenRelease (s : State) : Out :=
  let tid := s.arg.a
  let st := s.arg.b
  let t := thr s tid
  match wordsIn t st with
  | { retired := true, push := some y, due := due, .. } :: rest =>
    if pastCut s t || s.clock.now < due then .fault (.notEnabled "TOKEN_RELEASE")
    else .next (modThr tid (fun t => modWords st (fun _ => prune rest)
      (setRsv st y (rsvd t st y - 1) (setFifo st y (fifo t st y + 1) t))) s)
  | _ => .fault (.notEnabled "TOKEN_RELEASE")

/-- Whether every far request of a thread has performed. -/
def farQuiet (t : Thread) : Bool := t.far.all (·.done)

/-! ## Block calls (04 R108-R110) -/

/-- The token field of an engine word that carries one (04 R104). -/
def tokOf : Instr → Option Tok
  | .vld _ _ _ _ _ tk => some tk
  | .vldh _ _ _ _ _ tk => some tk
  | .vst _ _ _ _ _ tk => some tk
  | .vsth _ _ _ _ _ tk => some tk
  | .vgath _ _ _ _ tk => some tk
  | .vscat _ _ _ _ tk => some tk
  | .vrecv _ _ _ tk => some tk
  | .vpass _ _ _ tk => some tk
  | .mlnt _ _ tk => some tk
  | .mcfg _ _ _ tk => some tk
  | .mzp _ tk => some tk
  | .mgo _ _ tk => some tk
  | .mwait tk => some tk
  | .mclr _ tk => some tk
  | .memit _ _ _ _ tk => some tk
  | .mtest tk => some tk
  | .mrd _ _ _ _ _ tk => some tk
  | .ldc _ _ _ _ tk => some tk
  | .ldt _ _ _ _ tk => some tk
  | .lfill _ _ _ tk => some tk
  | .stc _ _ _ tk => some tk
  | .stt _ _ _ tk => some tk
  | .sfill _ _ _ tk => some tk
  | .kwait _ tk => some tk
  | .aopen _ _ _ _ tk => some tk
  | .apush _ _ tk => some tk
  | .aflush tk => some tk
  | .aclose tk => some tk
  | .fsend _ _ _ tk => some tk
  | .frecv _ _ _ tk => some tk
  | .fbind _ _ tk => some tk
  | .funbind tk => some tk
  | .flowDef _ _ tk => some tk
  | .flowDel _ tk => some tk
  | .flowStat _ _ _ tk => some tk
  | .collLoad _ _ _ tk => some tk
  | .collRun _ _ _ tk => some tk
  | .collWait _ _ _ tk => some tk
  | .collAbort _ tk => some tk
  | _ => none

/-! ## The table of a nest and its conditions (10 R241, R242, R244) -/

/-- A field of a nest table. -/
def tabField (c : Shadow) (off n : Nat) : Nat := field c.table off n

/-- A signed halfword of a nest table. -/
def tabSigned (c : Shadow) (off : Nat) : Int := signed 16 (tabField c off 2)

/-- Output rows (10 R241). -/
def nRows (c : Shadow) : Nat := tabField c 4 1

/-- Output columns (10 R241). -/
def nCols (c : Shadow) : Nat := tabField c 5 1

/-- Reduction elements of a sweep (10 R241). -/
def nKext (c : Shadow) : Nat := tabField c 6 2

/-- The iterations of level `l` (10 R241). -/
def lvlCount (c : Shadow) (l : Nat) : Nat := tabField c (32 + 16 * l) 2

/-- A signed step of level `l`: dk, dm, dn, dpa, dpb at 2, 4, 6, 8, 10 (10 R241). -/
def lvlStep (c : Shadow) (l off : Nat) : Int := tabSigned c (32 + 16 * l + off)

/-- The accumulator-set step of level `l` (10 R241). -/
def lvlSet (c : Shadow) (l : Nat) : Nat := tabField c (32 + 16 * l + 12) 1

/-- The group size of a configuration (10 R256). -/
def nGroup (c : Shadow) : Nat := groupSize c.grp

/-- Whether a configuration's format is quantised (10 R256). -/
def quantised (c : Shadow) : Bool := decide (2 ≤ c.fmt)

/-- The steps of a sweep (10 R242). -/
def chunks (c : Shadow) : Nat := ceilDiv (nKext c) 16

/-- The steps of a nest (10 R242). -/
def nestSteps (c : Shadow) : Nat := (upFrom 0 6).foldl (fun n l => n * lvlCount c l) (chunks c)

/-- Whether a condition of R244 is broken. -/
def nestBad (c : Shadow) : Bool :=
  let lv := upFrom 0 6
  let g : Int := nGroup c
  !c.loaded || nRows c = 0 || 64 < nRows c || nCols c = 0 || 128 < nCols c || nKext c = 0 ||
  lv.any (fun l => lvlCount c l = 0 || 3 < lvlSet c l || !(zeroAt c.table (32 + 16 * l + 13) 3)) ||
  ((tabField c 0 2 = 0xFFFF) != c.queue) || tabField c 16 4 % 128 != 0 || lv.any (fun l => lvlStep c l 6 % 128 != 0) ||
  2 ^ 32 ≤ nestSteps c || (quantised c == (c.grp = 0)) ||
  (quantised c && (nKext c % nGroup c != 0 || tabField c 8 4 % nGroup c != 0 || tabField c 20 4 % nGroup c != 0 || lv.any (fun l => lvlStep c l 2 % g != 0)))

/-- Whether an engine word that decodes faults at decode as its engine stands, before its pop: an MGO, once it may be
decoded, whose table breaks a condition or that finds the array disabled, and an APUSH with no window open (08 R212;
10 R244, R253). -/
def faultsNow (t : Thread) (off : Bool) : Instr → Bool
  | .mgo _ _ _ => allRetired t 2 && (nestBad t.shadow || off)
  | .apush _ _ _ => !t.win.isOpen
  | _ => false

/-- The halfwords of the first word of a head entry whose header is good: those of a block end with it (03 R67, R68,
R89). -/
def firstHalves (s : State) (tid st : Nat) (q : QEntry) : List Half :=
  if q.one then codeFrom s tid st q.off
  else (codeFrom s tid st (q.off + 2)).take (hdrLen ((headerAt s tid st q.off).getD 0) - 2)

/-- Whether the first word of a head entry could pop what it pops; an illegal one is ready to fault (03 R88, 04 R109). -/
def firstPops (s : State) (tid st : Nat) (q : QEntry) : Bool :=
  match decodeAt (Stream.ofCode st) (firstHalves s tid st q) with
  | .error _ => true
  | .ok (i, _) =>
    match tokOf i with
    | none => true
    | some tk => faultsNow (thr s tid) (tile s (tileOf tid)).arr.off i || !(tk.pop && fifo (thr s tid) tk.chan st = 0)

/-- Whether a thread's stream may issue in this network cycle: the thread lives, its launch has taken its time, and a
freeze that has begun has not reached the stream's cut (01 R22; 19 R418, R438). -/
def canIssue (s : State) (tid st : Nat) : Bool :=
  match find s.threads tid with
  | none => false
  | some t => !t.dying && decide (t.startAt ≤ s.clock.halfNs) && match t.frz with
    | none => true
    | some z => !z.closed && s.clock.now ≤ z.cut && !(z.stops.contains st)

/-- Whether a thread has a block call that an engine can take: an interrupted one, or a head entry that is ready
(04 R109, 19 R420). -/
def callReady (s : State) (tid st : Nat) : Bool :=
  match find s.threads tid with
  | none => false
  | some t =>
    let e := engOf t st
    canIssue s tid st && (match e.call with
      | some _ => e.back
      | none =>
        match e.queue with
        | [] => false
        | q :: _ => (callFault s tid st q).isSome || q.cnt = 0 || firstPops s tid st q)

/-- The context that a tile's engine serves next, if any: round robin after the last one served (04 R109). -/
def nextServed (s : State) (tile_ st : Nat) : Option Nat :=
  let last := (look ({} : EngArb) (tile s tile_).eng st).last
  ([1, 2, 3, 4].map fun k => (last + k) % 4).find? fun c => callReady s (tile_ * 6 + c) st

/-- Whether a stream's engine is one that the tile's threads share: V, M, A and F; the copy streamer serves each L and
S queue by itself (04 R109, R110). -/
def sharedEngine (st : Nat) : Bool := st = 1 || st = 2 || st = 5 || st = 6

/-- The results of a stream that wait with their remaining cycles land that many cycles after the engine serves the
thread again (19 R420). -/
def rebase (st cyc : Nat) (t : Thread) : Thread :=
  { t with fly := t.fly.map fun r => if r.stream = st && r.rel && !r.gone then { r with due := cyc + r.due, rel := false } else r }

/-- A group switch of the vector engine: the latches read zero, and results in flight write none (04 R108). -/
def switchGroup (t : Thread) : Thread :=
  { t with e := { t.e with b := [] }, fly := t.fly.map fun r => if r.rel then r else { r with latch := none } }

/-- The tile's engine taken by a context (04 R108). -/
def takeEngine (tid st : Nat) (s : State) : State :=
  if sharedEngine st then
    modTile (tileOf tid) (fun t =>
      { t with eng := put st { look {} t.eng st with owner := some (ctxOf tid), ran := some (memberOf s tid) } t.eng }) s
  else s

/-- A head entry leaves its queue without issuing a word: its count is 0 (03 R66). DESIGN CHOICE (log entry 76): such a
call is not one that the engine has run, so no group switch follows from it (04 R108). The engine has served the thread:
the results saved at a freeze are counted from now (19 R420). -/
def emptyCall (tid st : Nat) (s : State) : State :=
  let s1 := modThr tid (fun t => rebase st (cycle s) (modEng st (dropEntry s.clock.now) t)) s
  if sharedEngine st then
    modTile (tileOf tid) (fun t => { t with eng := put st { look {} t.eng st with last := ctxOf tid } t.eng }) s1
  else s1

/-- The call that a head entry begins (03 R67, R68). -/
def startCall (s : State) (tid st : Nat) (q : QEntry) : Call :=
  if q.one then { entry := q }
  else { entry := q, len := hdrLen ((headerAt s tid st q.off).getD 0), rep := q.cnt, mpc := 2 }

/-- An engine takes the block call of a thread: an interrupted one goes on where it stood, with no group switch; a head
entry is checked and starts; a call from another thread than the last is a group switch. The results saved at a freeze
are counted from now (03 R65, R66; 04 R108, R109; 19 R420). -/
def serveCall (tid st : Nat) (s : State) : State :=
  let e := engOf (thr s tid) st
  match e.call, e.queue with
  | some _, _ => takeEngine tid st (modThr tid (fun t => rebase st (cycle s) (modEng st (fun e => { e with back := false }) t)) s)
  | none, [] => s
  | none, q :: _ =>
    match callFault s tid st q with
    | some r => raise tid { illegalRec st r with cmd := q.cmd } false s
    | none =>
      if q.cnt = 0 then emptyCall tid st s
      else
        let switch := st = 1 && (look ({} : EngArb) (tile s (tileOf tid)).eng st).ran != some (memberOf s tid)
        takeEngine tid st (modThr tid (fun t =>
          let t1 := rebase st (cycle s) (modEng st (fun e => { e with call := some (startCall s tid st q) }) t)
          if switch then switchGroup t1 else t1) s)

/-- Event BLOCK_CALL: the engine of a stream (`b`) takes the ready block call of a thread (`a`), which must be the one
that the round robin serves next (04 R109). -/
def execBlockCall (s : State) : Out :=
  let tid := s.arg.a
  let st := s.arg.b
  let free := (look ({} : EngArb) (tile s (tileOf tid)).eng st).owner.isNone
  let ok := if sharedEngine st then free && nextServed s (tileOf tid) st == some (ctxOf tid) else st = 3 || st = 4
  if ok && callReady s tid st then .next (serveCall tid st s) else .fault (.notEnabled "BLOCK_CALL")

end Sys2Proof.Machine
end

