-- ==== Sys2Proof/Machine/Operands.lean ====
section
/-!
DEFINITION. Operand forms of the engine words: the source selectors with the constants c0 to c7, elements by type,
guards, and the addresses of rows (03 R70-R80, 07 R171).
-/
namespace Sys2Proof.Machine

/-- The 32-bit column of the constants (03 R71). -/
def const32 (n : Nat) : Nat :=
  [0x00000000, 0x3F800000, 0x40000000, 0x3F000000, 0xBF800000, 0x7F800000, 0x00000001, 0xFFFFFFFF].getD n 0

/-- The BF16 column of the constants (03 R71). -/
def constBf16 (n : Nat) : Nat := [0x0000, 0x3F80, 0x4000, 0x3F00, 0xBF80, 0x7F80, 0x0001, 0xFFFF].getD n 0

/-- The FP16 column of the constants (03 R71). -/
def constF16 (n : Nat) : Nat := [0x0000, 0x3C00, 0x4000, 0x3800, 0xBC00, 0x7C00, 0x0001, 0xFFFF].getD n 0

/-- The floating format of an element type; INT32 has none and takes FP32's place, unused (06 R149). -/
def fmtOf : VTy → FloatFmt
  | .f32 => fp32
  | .bf16 => bf16
  | .f16 => fp16
  | .i32 => fp32

/-- The register or latch that a source selector below 40 names (03 R70). -/
def srcReg (t : Thread) (sel : Nat) : Row := if sel < 32 then vOf t sel else bOf t (sel - 32)

/-- Lane `n` of a source as 32 bits (03 R70, R71). -/
def src32 (t : Thread) (sel n : Nat) : Nat := if sel < 40 then (lane (srcReg t sel) n).toNat else const32 (sel - 40)

/-- The element of lane `n` of a source in a type: a 16-bit element is bits [15:0] of its lane (07 R171). -/
def srcElem (t : Thread) (ty : VTy) (sel n : Nat) : Nat :=
  if sel < 40 then
    let x := (lane (srcReg t sel) n).toNat
    match ty with
    | .f32 => x
    | .i32 => x
    | .bf16 => x % 65536
    | .f16 => x % 65536
  else match ty with
    | .f32 => const32 (sel - 40)
    | .i32 => const32 (sel - 40)
    | .bf16 => constBf16 (sel - 40)
    | .f16 => constF16 (sel - 40)

/-- Lane `n` of the packed scales of VSACC: a constant supplies its FP16 column in both halves (03 R71). -/
def srcScales (t : Thread) (sel n : Nat) : Nat :=
  if sel < 40 then (lane (srcReg t sel) n).toNat else constF16 (sel - 40) * 65537

/-- The signed value of a 32-bit lane. -/
def laneInt (x : Nat) : Int := signed 32 x

/-- The low 32 bits of an integer as a lane's number. -/
def lowLane (x : Int) : Nat := (x % (2 ^ 32 : Nat)).toNat

/-- The address step of a row word in bytes (03 R80). -/
def stepBytes (step : Nat) : Nat := [0, 256, 128, 512].getD step 0

/-- The address of a row at iteration `i` (07 R189). -/
def rowAddr (t : Thread) (g step i : Nat) : Nat := (gOf t g + BitVec.ofNat 64 (i * stepBytes step)).toNat

/-- Whether a guard lets lane `n` act; p0 lets every lane (07 R189). -/
def guarded (t : Thread) (p n : Nat) : Bool := (pOf t p).getLsbD n

end Sys2Proof.Machine
end

