-- ==== Sys2Proof/Machine/Vector.lean ====
section
/-!
DEFINITION. The vector engine: how a result comes to land, and every V word but VRECV (07 R171-R194), which stands
with the receive queues.
-/
namespace Sys2Proof.Machine

/-! ## Landing (07 R172-R175) -/

/-- The cycle from which a freezing thread's results of a stream are saved and no longer land: the word that a precise
fault or a breakpoint stops would have issued in the cycle of the cut (19 R420, 24 R490). -/
def cutCycle (z : Freeze) (st : Nat) : Nat :=
  let precise := match z.fault with
    | some f => !f.defer
    | none => true
  if precise && z.failing = some st then z.cut / 2 else z.cut / 2 + 1

/-- Whether an entry in flight brings nothing but the retirement of its word: that of an MLNT or an MCLR, which complete
before a cut, or of a VSCAT, whose elements all have (07 R192, 10 R250). -/
def onlyRetires (r : InFlight) : Bool := !r.wb && r.latch.isNone && r.pred.isNone

/-- Whether a result in flight lands in a cycle: its time has come, and the thread's cut does not save it
(07 R173, 10 R250, 19 R420). -/
def landsNow (t : Thread) (cyc : Nat) (r : InFlight) : Bool :=
  !r.rel && !r.gone && decide (r.due ≤ cyc) && (onlyRetires r || match t.frz with
   | none => true
   | some z => decide (r.due < cutCycle z r.stream))

/-- The thread after a result lands on its register in a cycle: a V word's value stands against that of an M word which
lands there in the same cycle (07 R173; 10 R263). -/
def landReg (cyc : Nat) (r : InFlight) (t : Thread) : Thread :=
  if !r.wb then t
  else if r.stream = 1 then setV r.reg r.row { t with vAt := put r.reg (cyc + 1) t.vAt }
  else if look 0 t.vAt r.reg = cyc + 1 then t
  else setV r.reg r.row t

/-- The thread after a result lands in its register and its latch in a cycle (07 R173). -/
def landRow (cyc : Nat) (r : InFlight) (t : Thread) : Thread :=
  let t1 := landReg cyc r t
  match r.latch with
  | some b => setB b r.row t1
  | none => t1

/-- The state after a result lands: register, latch or predicate is written and its word has retired
(04 R99, 07 R173). -/
def landResult (tid : Nat) (r : InFlight) (s : State) : State :=
  let s1 := modThr tid (fun t => retire r.stream r.wid (landRow (cycle s) r t)) s
  match r.pred with
  | some p => writeP tid r.stream p (BitVec.allOnes 64) r.mask r.pos.1 r.pos.2 s1
  | none => s1

/-- Event RESULT_LANDING: result `b` in flight of thread `a` lands (07 R173). -/
def execResultLanding (s : State) : Out :=
  let tid := s.arg.a
  let t := thr s tid
  match t.fly[s.arg.b]? with
  | some r =>
    if landsNow t (cycle s) r then
      .next (landResult tid r (modThr tid (fun t => { t with fly := dropAt s.arg.b t.fly }) s))
    else .fault (.notEnabled "RESULT_LANDING")
  | none => .fault (.notEnabled "RESULT_LANDING")

/-- The state with one more result in flight. -/
def addFly (r : InFlight) (s : State) : State := modMe (fun t => { t with fly := t.fly ++ [r] }) s

/-- A V word of two halfwords whose row, read from the thread at issue, lands after `lat` cycles in a unit's latch and,
with wb, in its register (07 R172, R173). -/
def vWord (unit lat : Nat) (wb : Bool) (d : Nat) (f : Thread → Nat → Nat) (s : State) : Out :=
  let t := me s
  engWord 2 {} false (fun _ => none) (fun wid s1 => addFly
    { wid := wid, latch := some unit, reg := d, wb := wb, row := rowOf fun n => BitVec.ofNat 32 (f t n),
      due := cycle s + lat } s1) s

/-! ## Floating arithmetic (07 R176-R179) -/

/-- A unary floating word on the element of each lane. -/
def vF1 (unit lat : Nat) (ty : VTy) (wb : Bool) (d a : Nat) (f : FVal → FVal) (s : State) : Out :=
  vWord unit lat wb d (fun t n => roundTo (fmtOf ty) (f (classify (fmtOf ty) (srcElem t ty a n)))) s

/-- A binary floating word on the elements of each lane, rounded once. -/
def vF2 (unit lat : Nat) (ty : VTy) (wb : Bool) (d a b : Nat) (f : FVal → FVal → FVal) (s : State) : Out :=
  vWord unit lat wb d (fun t n => roundTo (fmtOf ty)
    (f (classify (fmtOf ty) (srcElem t ty a n)) (classify (fmtOf ty) (srcElem t ty b n)))) s

/-- VADD.t (07 R176). -/
def execVadd (ty : VTy) (wb : Bool) (d a b : Nat) (s : State) : Out :=
  vF2 1 4 ty wb d a b (fun x y => exactSum [x, y]) s

/-- VSUB.t (07 R176). -/
def execVsub (ty : VTy) (wb : Bool) (d a b : Nat) (s : State) : Out :=
  vF2 1 4 ty wb d a b (fun x y => exactSum [x, negF y]) s

/-- VMUL.t (07 R176). -/
def execVmul (ty : VTy) (wb : Bool) (d a b : Nat) (s : State) : Out := vF2 1 4 ty wb d a b prod s

/-- VMIN.t (07 R176). -/
def execVmin (ty : VTy) (wb : Bool) (d a b : Nat) (s : State) : Out := vF2 0 1 ty wb d a b (fminmax false) s

/-- VMAX.t (07 R176). -/
def execVmax (ty : VTy) (wb : Bool) (d a b : Nat) (s : State) : Out := vF2 0 1 ty wb d a b (fminmax true) s

/-- VABS.t (07 R176). -/
def execVabs (ty : VTy) (wb : Bool) (d a : Nat) (s : State) : Out := vF1 0 1 ty wb d a (withSign false) s

/-- VNEG.t (07 R176). -/
def execVneg (ty : VTy) (wb : Bool) (d a : Nat) (s : State) : Out := vF1 0 1 ty wb d a negF s

/-- VCPSGN.t: for a NaN sign source the sign is 0 (07 R176). -/
def execVcpsgn (ty : VTy) (wb : Bool) (d a b : Nat) (s : State) : Out :=
  vF2 0 1 ty wb d a b (fun x y => withSign (signOf y) x) s

/-- VRINT.t, by the convert unit (07 R172, R176). -/
def execVrint (ty : VTy) (wb : Bool) (d a : Nat) (s : State) : Out := vF1 5 2 ty wb d a rint s

/-- VDIV.t (07 R176, R178). -/
def execVdiv (ty : VTy) (wb : Bool) (d a b : Nat) (s : State) : Out := vF2 2 8 ty wb d a b quot s

/-- VSQRT.t (07 R176, R178). -/
def execVsqrt (ty : VTy) (wb : Bool) (d a : Nat) (s : State) : Out := vF1 2 8 ty wb d a sqroot s

/-- A transcendental word: FP32 rounded once; the 16-bit forms rounded twice (07 R178). -/
def vTrans (ty : VTy) (wb : Bool) (d a : Nat) (g : FVal → FVal) (s : State) : Out :=
  vWord 2 8 wb d (fun t n => transc g (fmtOf ty) (srcElem t ty a n)) s

/-- VRCP.t (07 R178, R179). -/
def execVrcp (ty : VTy) (wb : Bool) (d a : Nat) (s : State) : Out := vTrans ty wb d a recip s

/-- VRSQ.t (07 R178, R179). -/
def execVrsq (ty : VTy) (wb : Bool) (d a : Nat) (s : State) : Out := vTrans ty wb d a rsqrt s

/-- VEXP2.t (07 R178, R179). -/
def execVexp2 (ty : VTy) (wb : Bool) (d a : Nat) (s : State) : Out := vTrans ty wb d a exp2F s

/-- VLOG2.t (07 R178, R179). -/
def execVlog2 (ty : VTy) (wb : Bool) (d a : Nat) (s : State) : Out := vTrans ty wb d a log2F s

/-- VTANH.t (07 R178, R179). -/
def execVtanh (ty : VTy) (wb : Bool) (d a : Nat) (s : State) : Out := vTrans ty wb d a tanhF s

/-- A fused word of major 0x04 to 0x0F: the product's and the addend's signs, one rounding (07 R177). -/
def vFused (ty : VTy) (wb : Bool) (d a b c : Nat) (np nz : Bool) (s : State) : Out :=
  let f := fmtOf ty
  vWord 1 4 wb d (fun t n =>
    let p := prod (classify f (srcElem t ty a n)) (classify f (srcElem t ty b n))
    let z := classify f (srcElem t ty c n)
    roundTo f (exactSum [if np then negF p else p, if nz then negF z else z])) s

/-- VFMA.F32 (07 R177). -/
def execVfmaF32 (wb : Bool) (d a b c : Nat) (s : State) : Out := vFused .f32 wb d a b c false false s

/-- VFMA.BF16 (07 R177). -/
def execVfmaBf16 (wb : Bool) (d a b c : Nat) (s : State) : Out := vFused .bf16 wb d a b c false false s

/-- VFMA.F16 (07 R177). -/
def execVfmaF16 (wb : Bool) (d a b c : Nat) (s : State) : Out := vFused .f16 wb d a b c false false s

/-- VFMS.F32 (07 R177). -/
def execVfmsF32 (wb : Bool) (d a b c : Nat) (s : State) : Out := vFused .f32 wb d a b c false true s

/-- VFMS.BF16 (07 R177). -/
def execVfmsBf16 (wb : Bool) (d a b c : Nat) (s : State) : Out := vFused .bf16 wb d a b c false true s

/-- VFMS.F16 (07 R177). -/
def execVfmsF16 (wb : Bool) (d a b c : Nat) (s : State) : Out := vFused .f16 wb d a b c false true s

/-- VFNMA.F32 (07 R177). -/
def execVfnmaF32 (wb : Bool) (d a b c : Nat) (s : State) : Out := vFused .f32 wb d a b c true false s

/-- VFNMA.BF16 (07 R177). -/
def execVfnmaBf16 (wb : Bool) (d a b c : Nat) (s : State) : Out := vFused .bf16 wb d a b c true false s

/-- VFNMA.F16 (07 R177). -/
def execVfnmaF16 (wb : Bool) (d a b c : Nat) (s : State) : Out := vFused .f16 wb d a b c true false s

/-- VFNMS.F32 (07 R177). -/
def execVfnmsF32 (wb : Bool) (d a b c : Nat) (s : State) : Out := vFused .f32 wb d a b c true true s

/-- VFNMS.BF16 (07 R177). -/
def execVfnmsBf16 (wb : Bool) (d a b c : Nat) (s : State) : Out := vFused .bf16 wb d a b c true true s

/-- VFNMS.F16 (07 R177). -/
def execVfnmsF16 (wb : Bool) (d a b c : Nat) (s : State) : Out := vFused .f16 wb d a b c true true s

/-! ## Integer words (07 R180) -/

/-- A binary integer word on the 32-bit lanes. -/
def vI2 (unit lat : Nat) (wb : Bool) (d a b : Nat) (f : Nat → Nat → Nat) (s : State) : Out :=
  vWord unit lat wb d (fun t n => f (src32 t a n) (src32 t b n)) s

/-- A unary integer word on the 32-bit lanes. -/
def vI1 (wb : Bool) (d a : Nat) (f : Nat → Nat) (s : State) : Out := vWord 0 1 wb d (fun t n => f (src32 t a n)) s

/-- The signed 32-bit saturation of an integer, as a lane's number (07 R180). -/
def satLane (x : Int) : Nat := lowLane (min (max x (-(2 ^ 31 : Nat) : Int)) ((2 ^ 31 - 1 : Nat) : Int))

/-- VADD.I32 (07 R180). -/
def execVaddI32 (wb : Bool) (d a b : Nat) (s : State) : Out := vI2 0 1 wb d a b (fun x y => (x + y) % 2 ^ 32) s

/-- VSUB.I32 (07 R180). -/
def execVsubI32 (wb : Bool) (d a b : Nat) (s : State) : Out :=
  vI2 0 1 wb d a b (fun x y => (x + (2 ^ 32 - y)) % 2 ^ 32) s

/-- VMUL.I32, by the FMA unit (07 R172, R180). -/
def execVmulI32 (wb : Bool) (d a b : Nat) (s : State) : Out := vI2 1 4 wb d a b (fun x y => x * y % 2 ^ 32) s

/-- VMIN.I32, signed (07 R180). -/
def execVminI32 (wb : Bool) (d a b : Nat) (s : State) : Out :=
  vI2 0 1 wb d a b (fun x y => if laneInt x < laneInt y then x else y) s

/-- VMAX.I32, signed (07 R180). -/
def execVmaxI32 (wb : Bool) (d a b : Nat) (s : State) : Out :=
  vI2 0 1 wb d a b (fun x y => if laneInt x < laneInt y then y else x) s

/-- VABS.I32; the most negative value maps to itself (07 R180). -/
def execVabsI32 (wb : Bool) (d a : Nat) (s : State) : Out := vI1 wb d a (fun x => lowLane (laneInt x).natAbs) s

/-- VNEG.I32 (07 R180). -/
def execVnegI32 (wb : Bool) (d a : Nat) (s : State) : Out := vI1 wb d a (fun x => lowLane (-(laneInt x))) s

/-- VMULH.I32 (07 R180). -/
def execVmulh (wb : Bool) (d a b : Nat) (s : State) : Out :=
  vI2 1 4 wb d a b (fun x y => lowLane (laneInt x * laneInt y / (2 ^ 32 : Nat))) s

/-- VAND.I32 (07 R180). -/
def execVand (wb : Bool) (d a b : Nat) (s : State) : Out := vI2 0 1 wb d a b (fun x y => x &&& y) s

/-- VOR.I32 (07 R180). -/
def execVor (wb : Bool) (d a b : Nat) (s : State) : Out := vI2 0 1 wb d a b (fun x y => x ||| y) s

/-- VXOR.I32 (07 R180). -/
def execVxor (wb : Bool) (d a b : Nat) (s : State) : Out := vI2 0 1 wb d a b (fun x y => x ^^^ y) s

/-- VANDN.I32 (07 R180). -/
def execVandn (wb : Bool) (d a b : Nat) (s : State) : Out := vI2 0 1 wb d a b (fun x y => x &&& (2 ^ 32 - 1 - y)) s

/-- VSHL.I32 (07 R180). -/
def execVshl (wb : Bool) (d a b : Nat) (s : State) : Out := vI2 0 1 wb d a b (fun x y => x * 2 ^ (y % 32) % 2 ^ 32) s

/-- VSHR.I32 (07 R180). -/
def execVshr (wb : Bool) (d a b : Nat) (s : State) : Out := vI2 0 1 wb d a b (fun x y => x / 2 ^ (y % 32)) s

/-- VSAR.I32 (07 R180). -/
def execVsar (wb : Bool) (d a b : Nat) (s : State) : Out :=
  vI2 0 1 wb d a b (fun x y => lowLane (laneInt x / (2 ^ (y % 32) : Nat))) s

/-- VMINU.I32 (07 R180). -/
def execVminu (wb : Bool) (d a b : Nat) (s : State) : Out := vI2 0 1 wb d a b (fun x y => if x < y then x else y) s

/-- VMAXU.I32 (07 R180). -/
def execVmaxu (wb : Bool) (d a b : Nat) (s : State) : Out := vI2 0 1 wb d a b (fun x y => if x < y then y else x) s

/-- VADDS.I32 (07 R180). -/
def execVadds (wb : Bool) (d a b : Nat) (s : State) : Out :=
  vI2 0 1 wb d a b (fun x y => satLane (laneInt x + laneInt y)) s

/-- VSUBS.I32 (07 R180). -/
def execVsubs (wb : Bool) (d a b : Nat) (s : State) : Out :=
  vI2 0 1 wb d a b (fun x y => satLane (laneInt x - laneInt y)) s

/-- VCLZ.I32 (07 R180). -/
def execVclz (wb : Bool) (d a : Nat) (s : State) : Out := vI1 wb d a (leadingZeros 32) s

/-- VPOPC.I32 (07 R180). -/
def execVpopc (wb : Bool) (d a : Nat) (s : State) : Out := vI1 wb d a (ones 32) s

/-- VMULHU.I32 (07 R180). -/
def execVmulhu (wb : Bool) (d a b : Nat) (s : State) : Out := vI2 1 4 wb d a b (fun x y => x * y / 2 ^ 32) s

/-- VSACC (07 R181). -/
def execVsacc (wb : Bool) (d a b c : Nat) (s : State) : Out :=
  vWord 1 4 wb d (fun t n =>
    let sc := srcScales t b n
    scaleAcc (src32 t c n) (src32 t a n) (sc % 65536) (sc / 65536)) s

/-! ## Conversions and immediates (07 R182, R183) -/

/-- A conversion of each lane's element, read in the type `ty` (07 R182). -/
def vCvt (ty : VTy) (wb : Bool) (d a : Nat) (f : Nat → Nat) (s : State) : Out :=
  vWord 5 2 wb d (fun t n => f (srcElem t ty a n)) s

/-- VCVT.BF16.F32 (07 R182). -/
def execVcvtBf16F32 (rnd : Rnd) (wb : Bool) (d a : Nat) (s : State) : Out :=
  vCvt .f32 wb d a (fun x => narrow bf16 x rnd) s

/-- VCVT.F16.F32 (07 R182). -/
def execVcvtF16F32 (rnd : Rnd) (wb : Bool) (d a : Nat) (s : State) : Out :=
  vCvt .f32 wb d a (fun x => narrow fp16 x rnd) s

/-- VCVT.F32.BF16; every rounding field is accepted and ignored (07 R182). -/
def execVcvtF32Bf16 (_ : Rnd) (wb : Bool) (d a : Nat) (s : State) : Out := vCvt .bf16 wb d a (widen bf16) s

/-- VCVT.F32.F16; every rounding field is accepted and ignored (07 R182). -/
def execVcvtF32F16 (_ : Rnd) (wb : Bool) (d a : Nat) (s : State) : Out := vCvt .f16 wb d a (widen fp16) s

/-- VCVT.I32.F32 (07 R182). -/
def execVcvtI32F32 (rnd : Rnd) (wb : Bool) (d a : Nat) (s : State) : Out :=
  vCvt .f32 wb d a (fun x => roundInt (classify fp32 x) rnd) s

/-- VCVT.F32.I32 (07 R182). -/
def execVcvtF32I32 (rnd : Rnd) (wb : Bool) (d a : Nat) (s : State) : Out :=
  vCvt .i32 wb d a (fun x => roundTo fp32 (classifyInt x) rnd) s

/-- VCVT.BF16.F16, one rounding (07 R182). -/
def execVcvtBf16F16 (rnd : Rnd) (wb : Bool) (d a : Nat) (s : State) : Out :=
  vCvt .f16 wb d a (fun x => roundTo bf16 (classify fp16 x) rnd) s

/-- VCVT.F16.BF16, one rounding (07 R182). -/
def execVcvtF16Bf16 (rnd : Rnd) (wb : Bool) (d a : Nat) (s : State) : Out :=
  vCvt .bf16 wb d a (fun x => roundTo fp16 (classify bf16 x) rnd) s

/-- The lane of VLIM (07 R183). -/
def limLane (kind : Kind) (imm : BitVec 16) : Nat :=
  match kind with
  | .zx => imm.toNat
  | .sx => (imm.signExtend 32).toNat
  | .hi => imm.toNat * 65536
  | .f16 => widen fp16 imm.toNat

/-- VLIM (07 R183). -/
def execVlim (wb : Bool) (d : Nat) (kind : Kind) (imm : BitVec 16) (s : State) : Out :=
  vWord 0 1 wb d (fun _ _ => limLane kind imm) s

/-! ## Compares and select (07 R184, R185) -/

/-- A compare: the relation of each lane, written to the predicate at latency 1 (07 R172, R184). -/
def vCmp (p : Nat) (rel : Thread → Nat → Bool) (s : State) : Out :=
  let t := me s
  engWord 2 {} false (fun _ => none) (fun wid s1 => addFly
    { wid := wid, pred := some p, mask := maskOf (rel t), due := cycle s + 1, pos := here s } s1) s

/-- The order of the elements of two sources in a type (07 R184). -/
def vOrder (t : Thread) (ty : VTy) (a b n : Nat) : Option Ordering :=
  let x := srcElem t ty a n
  let y := srcElem t ty b n
  match ty with
  | .i32 => some (if laneInt x < laneInt y then .lt else if laneInt x = laneInt y then .eq else .gt)
  | _ => fcmp (classify (fmtOf ty) x) (classify (fmtOf ty) y)

/-- VCMP.EQ.t (07 R184). -/
def execVcmpEq (ty : VTy) (p a b : Nat) (s : State) : Out := vCmp p (fun t n => vOrder t ty a b n == some .eq) s

/-- VCMP.NE.t: true of a NaN (07 R184). -/
def execVcmpNe (ty : VTy) (p a b : Nat) (s : State) : Out := vCmp p (fun t n => vOrder t ty a b n != some .eq) s

/-- VCMP.LT.t (07 R184). -/
def execVcmpLt (ty : VTy) (p a b : Nat) (s : State) : Out := vCmp p (fun t n => vOrder t ty a b n == some .lt) s

/-- VCMP.LE.t (07 R184). -/
def execVcmpLe (ty : VTy) (p a b : Nat) (s : State) : Out :=
  vCmp p (fun t n => vOrder t ty a b n == some .lt || vOrder t ty a b n == some .eq) s

/-- VCMP.GT.t (07 R184). -/
def execVcmpGt (ty : VTy) (p a b : Nat) (s : State) : Out := vCmp p (fun t n => vOrder t ty a b n == some .gt) s

/-- VCMP.GE.t (07 R184). -/
def execVcmpGe (ty : VTy) (p a b : Nat) (s : State) : Out :=
  vCmp p (fun t n => vOrder t ty a b n == some .gt || vOrder t ty a b n == some .eq) s

/-- VCMP.UN.t: some element is a NaN (07 R184). -/
def execVcmpUn (ty : VTy) (p a b : Nat) (s : State) : Out := vCmp p (fun t n => vOrder t ty a b n == none) s

/-- VCMP.OR.t: no element is a NaN (07 R184). -/
def execVcmpOr (ty : VTy) (p a b : Nat) (s : State) : Out := vCmp p (fun t n => vOrder t ty a b n != none) s

/-- VCMP.LTU.I32 (07 R184). -/
def execVcmpLtu (p a b : Nat) (s : State) : Out := vCmp p (fun t n => decide (src32 t a n < src32 t b n)) s

/-- VCMP.LEU.I32 (07 R184). -/
def execVcmpLeu (p a b : Nat) (s : State) : Out := vCmp p (fun t n => decide (src32 t a n ≤ src32 t b n)) s

/-- VCMP.GTU.I32 (07 R184). -/
def execVcmpGtu (p a b : Nat) (s : State) : Out := vCmp p (fun t n => decide (src32 t b n < src32 t a n)) s

/-- VCMP.GEU.I32 (07 R184). -/
def execVcmpGeu (p a b : Nat) (s : State) : Out := vCmp p (fun t n => decide (src32 t b n ≤ src32 t a n)) s

/-- VSEL: the bits of one source or the other, by the predicate's bit of the lane (07 R185). -/
def execVsel (wb : Bool) (d p a b : Nat) (s : State) : Out :=
  vWord 6 1 wb d (fun t n => if (pOf t p).getLsbD n then src32 t a n else src32 t b n) s

/-! ## Reductions, scans, permutes (07 R186, R187) -/

/-- A word of the permute and reduce unit (07 R172). -/
def vPerm (wb : Bool) (d : Nat) (f : Thread → Nat → Nat) (s : State) : Out := vWord 4 3 wb d f s

/-- The signed sum modulo 2 to the power 32 of the lanes listed. -/
def sumLanes (l : List Nat) : Nat := l.foldl (fun a x => (a + x) % 2 ^ 32) 0

/-- The signed maximum or minimum of the lanes listed. -/
def pickLanes (hi : Bool) : List Nat → Nat
  | [] => 0
  | x :: rest => rest.foldl (fun a y => if decide (laneInt a < laneInt y) == hi then y else a) x

/-- The canonical tree with fmax or fmin over the ranks listed (06 R170). -/
def treeMM (f : FloatFmt) (hi : Bool) (l : List Nat) : Nat := treeFold (leafF f) (nodeMM f hi) 0 (l.length + 1) l

/-- The sum of ranks in a type (07 R186). -/
def rankSum (ty : VTy) (l : List Nat) : Nat :=
  match ty with
  | .i32 => sumLanes l
  | _ => canonSum (fmtOf ty) l

/-- The maximum or minimum of ranks in a type (07 R186). -/
def rankMM (ty : VTy) (hi : Bool) (l : List Nat) : Nat :=
  match ty with
  | .i32 => pickLanes hi l
  | _ => treeMM (fmtOf ty) hi l

/-- The 128 ranks of a reduction: the lanes of sa and then those of sb (07 R186). -/
def ranks (t : Thread) (ty : VTy) (a b : Nat) : List Nat :=
  (upFrom 0 64).map (srcElem t ty a) ++ (upFrom 0 64).map (srcElem t ty b)

/-- The ranks of a scan at lane `n`: the carry from lane 63 of sb, then lanes 0 to n of sa (07 R186). -/
def scanRanks (t : Thread) (ty : VTy) (a b n : Nat) : List Nat :=
  srcElem t ty b 63 :: (upFrom 0 (n + 1)).map (srcElem t ty a)

/-- VRSUM.t (07 R186). -/
def execVrsum (ty : VTy) (wb : Bool) (d a b : Nat) (s : State) : Out :=
  let r := rankSum ty (ranks (me s) ty a b)
  vPerm wb d (fun _ _ => r) s

/-- VRMAX.t (07 R186). -/
def execVrmax (ty : VTy) (wb : Bool) (d a b : Nat) (s : State) : Out :=
  let r := rankMM ty true (ranks (me s) ty a b)
  vPerm wb d (fun _ _ => r) s

/-- VRMIN.t (07 R186). -/
def execVrmin (ty : VTy) (wb : Bool) (d a b : Nat) (s : State) : Out :=
  let r := rankMM ty false (ranks (me s) ty a b)
  vPerm wb d (fun _ _ => r) s

/-- VSCAN.t (07 R186). -/
def execVscan (ty : VTy) (wb : Bool) (d a b : Nat) (s : State) : Out :=
  vPerm wb d (fun t n => rankSum ty (scanRanks t ty a b n)) s

/-- VSCMX.t (07 R186). -/
def execVscmx (ty : VTy) (wb : Bool) (d a b : Nat) (s : State) : Out :=
  vPerm wb d (fun t n => rankMM ty true (scanRanks t ty a b n)) s

/-- VPERM.t: F32 and I32 have the same effect (07 R187). -/
def execVperm (_ : VTy) (wb : Bool) (d a b : Nat) (s : State) : Out :=
  vPerm wb d (fun t n => src32 t a (src32 t b n % 64)) s

/-- VBCAST.t (07 R187). -/
def execVbcast (_ : VTy) (wb : Bool) (d a k : Nat) (s : State) : Out := vPerm wb d (fun t _ => src32 t a k) s

/-- VROT.t (07 R187). -/
def execVrot (_ : VTy) (wb : Bool) (d a k : Nat) (s : State) : Out :=
  vPerm wb d (fun t n => src32 t a ((n + k) % 64)) s

/-- VZIP.t (07 R187). -/
def execVzip (_ : VTy) (wb : Bool) (d a b : Nat) (s : State) : Out :=
  vPerm wb d (fun t n => if n % 2 = 0 then src32 t a (n / 2) else src32 t b (n / 2)) s

/-- VUNZIP.t (07 R187). -/
def execVunzip (_ : VTy) (wb : Bool) (d a b : Nat) (s : State) : Out :=
  vPerm wb d (fun t n => if n < 32 then src32 t a (2 * n) else src32 t b (2 * n - 64)) s

/-- VMOV.F32 (07 R187). -/
def execVmov (wb : Bool) (d a : Nat) (s : State) : Out := vPerm wb d (fun t n => src32 t a n) s

/-! ## Zero-point and group helpers (07 R188) -/

/-- VUNPK4.I32 (07 R188). -/
def execVunpk4 (wb : Bool) (d a b : Nat) (s : State) : Out :=
  vWord 0 1 wb d (fun t n => (bitsOf (src32 t a (n / 8)) (4 * (n % 8)) 4 + (2 ^ 32 - src32 t b n)) % 2 ^ 32) s

/-- VUNPK8.I32 (07 R188). -/
def execVunpk8 (wb : Bool) (d a b : Nat) (s : State) : Out :=
  vWord 0 1 wb d (fun t n => (bitsOf (src32 t a (n / 4)) (8 * (n % 4)) 8 + (2 ^ 32 - src32 t b n)) % 2 ^ 32) s

/-- VZPS.I32: the sum formed exactly and clamped to 0 to 255 (07 R188). -/
def execVzps (wb : Bool) (d a b : Nat) (s : State) : Out :=
  vWord 0 1 wb d (fun t n => (min (max (laneInt (src32 t a n) + laneInt (src32 t b n)) 0) 255).toNat) s

/-- VGBC, by the permute unit: `ty` gives the group size 32, 64 or 128 (07 R172, R188). -/
def execVgbc (ty : Nat) (wb : Bool) (d a b : Nat) (s : State) : Out :=
  vPerm wb d (fun t n => src32 t a ((src32 t b 0 + n) / (32 * 2 ^ ty) % 64)) s

/-- VPASS (07 R194). -/
def execVpass (wb : Bool) (d a : Nat) (tk : Tok) (s : State) : Out :=
  let t := me s
  engWord 2 tk false (fun _ => none) (fun wid s1 => addFly
    { wid := wid, latch := some 0, reg := d, wb := wb, row := rowOf fun n => BitVec.ofNat 32 (src32 t a n),
      due := cycle s + 1 } s1) s

/-- VNOP: it issues and has no effect (03 R81). -/
def execVnop (s : State) : Out := engWord 1 {} true (fun _ => none) (fun _ s => s) s

/-! ## Rows of local memory (07 R189-R191) -/

/-- A row load of elements of `e` bytes: checked and read at issue, it lands six cycles later (07 R189, R190). -/
def vLoad (e : Nat) (wb : Bool) (d g step cls : Nat) (tk : Tok) (s : State) : Out :=
  let t := me s
  let tl := tile s (tileOf s.cur)
  let a := rowAddr t g step (iterOf s)
  engWord 2 tk false (fun _ => readFault t tl 1 a (64 * e) e) (fun wid s1 => addFly
    { wid := wid, latch := some 3, reg := d, wb := wb, row := rowOf fun n => leLane (readBytes tl.mem (a + e * n) e),
      due := cycle s + 6 }
    (traceMem s.cur 1 2 (here s).1 (here s).2 a (64 * e) cls false s1)) s

/-- The bytes a row store writes: those of the lanes its guard lets act (07 R189). -/
def storeRow (t : Thread) (p v e : Nat) : Run :=
  (upFrom 0 64).flatMap fun n =>
    if guarded t p n then (toBytes e (lane (vOf t v) n).toNat).map some else List.replicate e none

/-- A row store: the bounds are checked over the whole row, whatever the guard (07 R189). -/
def vStore (e : Nat) (p v g step cls : Nat) (tk : Tok) (s : State) : Out :=
  let t := me s
  let a := rowAddr t g step (iterOf s)
  engWord 2 tk true (fun _ => writeFault t 1 a (64 * e) e) (fun _ s1 =>
    modTile (tileOf s.cur) (storeRun (storeRow t p v e) a (fun _ => false))
      (traceMem s.cur 1 2 (here s).1 (here s).2 a (64 * e) cls true s1)) s

/-- VLD (07 R189). -/
def execVld (wb : Bool) (d g step cls : Nat) (tk : Tok) (s : State) : Out := vLoad 4 wb d g step cls tk s

/-- VLDH (07 R189). -/
def execVldh (wb : Bool) (d g step cls : Nat) (tk : Tok) (s : State) : Out := vLoad 2 wb d g step cls tk s

/-- VST (07 R189). -/
def execVst (p v g step cls : Nat) (tk : Tok) (s : State) : Out := vStore 4 p v g step cls tk s

/-- VSTH (07 R189). -/
def execVsth (p v g step cls : Nat) (tk : Tok) (s : State) : Out := vStore 2 p v g step cls tk s

/-! ## Long gathers and scatters (07 R192) -/

/-- A long word begins: it pops, reserves its push, is listed as issued, and reads its operands; as the first word of a
last iteration it takes its entry out of the queue (04 R97, 07 R192). -/
def beginLong (tk : Tok) (base : Nat) (a b : Row) (s : State) : State :=
  let wid := (me s).kn
  modMe (fun t => modEng s.strm (fun e => { leaveQueue s.clock.now e with call := (leaveQueue s.clock.now e).call.map fun c =>
      { c with held := true, base := base, snapA := a, snapB := b, got := [], prog := 0, part := 0, wid := wid } })
    (listWord s.strm wid false (pushOf tk) (popTok (cycle s) s.strm tk t))) (issued s.cur s.strm s)

/-- The fault of a long word at its progress index (07 R192, 19 R422). -/
def longFault (f : FaultRec) (s : State) : Out := faultAt { f with prog := (callOf s).prog } s

/-- The state after a VGATH, VSCAT or APUSH has progressed in this cycle, which the class of its head says (24 R483). -/
def progressed (s : State) : State := setHead s.cur s.strm .issuing (modMe (fun t => { t with stallNs := 0 }) s)

/-- The state after a cycle in which another word that had issued before goes on: its head is busy (24 R483). -/
def worked (s : State) : State := setHead s.cur s.strm .busy s

/-- The long word goes on to its next lane, or its next row, next cycle. -/
def stepLong (f : Call → Call) (s : State) : State := modCall (fun c => let c1 := f c; { c1 with prog := c1.prog + 1 }) s

/-- The long word has performed its last element: the engine goes on with the next word. -/
def endLong (n : Nat) (s : State) : State := advEng n s

/-- The address of a lane of a long gather or scatter (07 R192). -/
def longAddr (c : Call) : Nat := (c.base + 4 * (lane c.snapA c.prog).toNat) % 2 ^ 64

/-- One element of a VGATH that has begun; after the last one the row lands six cycles after its end (07 R192). -/
def gatherElem (d : Nat) (s : State) : Out :=
  let c := callOf s
  let tl := tile s (tileOf s.cur)
  let a := longAddr c
  match readFault (me s) tl 1 a 4 4 with
  | some f => longFault f s
  | none =>
    let got := c.got ++ [leLane (readBytes tl.mem a 4)]
    if c.prog < 63 then .next (stepLong (fun c => { c with got := got }) (progressed s))
    else .next (addFly { wid := c.wid, latch := some 3, reg := d, wb := true, row := got, due := cycle s + 7 } (endLong 2 (progressed s)))

/-- One element of a VSCAT that has begun; the word completes in the cycle after its last one (07 R192). -/
def scatterElem (s : State) : Out :=
  let c := callOf s
  let a := longAddr c
  match writeFault (me s) 1 a 4 4 with
  | some f => longFault f s
  | none =>
    let s1 := modTile (tileOf s.cur) (storeBytes (toBytes 4 (lane c.snapB c.prog).toNat) a) s
    if c.prog < 63 then .next (stepLong (fun c => c) (progressed s1))
    else .next (addFly { wid := c.wid, due := cycle s + 1 } (endLong 2 (progressed s1)))

/-- A long word of the vector engine: one element each cycle in which it is at issue. Its first cycle waits for its
token and room, reads the operands and performs element 0; the trace names its base and the four bytes of an element
(07 R192; 24 R486; log entry 114). -/
def longWord (tk : Tok) (g vi vd cls : Nat) (wr : Bool) (elem : State → Out) (s : State) : Out :=
  if !(occupied s s.cur) then .fault .noThread
  else if (callOf s).held then elem s
  else match tokWait (cycle s) (me s) s.strm tk with
    | some fl => waitFlag fl s
    | none =>
      let t := me s
      elem (traceHere 2 (gOf t g).toNat 4 cls wr (beginLong tk (gOf t g).toNat (vOf t vi) (vOf t vd) s))

/-- VGATH (07 R192). -/
def execVgath (d g vi cls : Nat) (tk : Tok) (s : State) : Out := longWord tk g vi d cls false (gatherElem d) s

/-- VSCAT (07 R192). -/
def execVscat (d g vi cls : Nat) (tk : Tok) (s : State) : Out := longWord tk g vi d cls true scatterElem s

end Sys2Proof.Machine
end

