-- ==== Sys2Proof/Machine/Scatter.lean ====
section
/-!
DEFINITION. The tag table of a thread and the scatter-accumulate engine (08 R205-R216).
-/
namespace Sys2Proof.Machine

/-! ## The tag table (08 R205, R206) -/

/-- The result of a tag word that finds nothing (08 R206). -/
def minusOne : Word := BitVec.allOnes 64

/-- A status or result below zero, as 64 bits. -/
def neg (n : Nat) : Word := wordOfInt (-(n : Int))

/-- The slot under a key, zero-extended, or all ones (08 R206). -/
def tagResult (t : Thread) (k : Nat) : Word :=
  match find t.tags k with
  | some x => x.setWidth 64
  | none => minusOne

/-- A tag word: its result and the table after it, of the thread; the result reaches a C word that names its register two
network cycles after issue (08 R205, R206; log entry 4). -/
def tagWord (d : Nat) (f : Thread → Word × SMap (BitVec 32)) (s : State) : Out :=
  appOnly (doneC 2 fun t => landsIn s.clock.now 2 d (f t).1 { t with tags := (f t).2 }) s

/-- TAG.LOOK (08 R206). -/
def execTagLook (d a : Nat) (s : State) : Out := tagWord d (fun t => (tagResult t (gOf t a).toNat, t.tags)) s

/-- The result and the table of TAG.SET (08 R206). -/
def tagSetting (t : Thread) (k : Nat) (x : BitVec 32) : Word × SMap (BitVec 32) :=
  match find t.tags k with
  | some old => (old.setWidth 64, put k x t.tags)
  | none => if t.tags.length < 256 then (minusOne, put k x t.tags) else (neg 2, t.tags)

/-- TAG.SET (08 R206). -/
def execTagSet (d a b : Nat) (s : State) : Out :=
  tagWord d (fun t => tagSetting t (gOf t a).toNat ((gOf t b).setWidth 32)) s

/-- TAG.CLR of one key (08 R206). -/
def execTagClr (d a : Nat) (s : State) : Out :=
  tagWord d (fun t => (tagResult t (gOf t a).toNat, del (gOf t a).toNat t.tags)) s

/-- TAG.CLR of every entry (08 R206). -/
def execTagClrAll (d : Nat) (s : State) : Out :=
  tagWord d (fun t => (BitVec.ofNat 64 t.tags.length, [])) s

/-! ## Performing a list (08 R213, R214) -/

/-- The bytes of an element of a window: 2 for BF16, else 4 (08 R208). -/
def elemSize (w : Window) : Nat := if w.ty = 2 then 2 else 4

/-- The entries of a list grouped by address, in order of first appearance; `fuel` bounds the groups (08 R213). -/
def groupList : Nat → List (Nat × Lane) → List (Nat × Row)
  | 0, _ => []
  | _ + 1, [] => []
  | fuel + 1, (a, v) :: rest =>
    (a, v :: (rest.filter fun e => e.1 = a).map Prod.snd) :: groupList fuel (rest.filter fun e => !(e.1 = a))

/-- combine(old, vs) of a window (08 R213). -/
def combine (w : Window) (old : Nat) (vs : List Nat) : Nat :=
  let f := if w.ty = 2 then bf16 else fp32
  if w.ty = 1 then
    match w.op with
    | 0 => sumLanes (old :: vs)
    | 1 => pickLanes false (old :: vs)
    | 2 => pickLanes true (old :: vs)
    | _ => vs.foldl (fun x y => x ||| y) old
  else
    match w.op with
    | 0 => roundTo f (exactSum ((old :: vs).map (classify f)))
    | _ => roundTo f (vs.foldl (fun c v => fminmax (w.op = 2) c (classify f v)) (classify f old))

/-- One update of a list: an element in a poisoned word is not updated and is counted (08 R213). -/
def updateElem (w : Window) (a : Nat) (vs : Row) (t : Tile) : Tile :=
  let e := elemSize w
  if poisonedIn t.poison a e then { t with pdrop := satAdd 65535 t.pdrop 1 }
  else
    let old := leNat (readBytes t.mem a e)
    storeBytes (toBytes e (combine w old (vs.map fun v => v.toNat % 2 ^ (8 * e)))) a t

/-- The thread with its window changed. -/
def modWin (f : Window → Window) (t : Thread) : Thread := { t with win := f t.win }

/-- The state after a thread's next pending update has performed, if there is one (08 R213). -/
def doUpdate (tid : Nat) (s : State) : State :=
  let w := (thr s tid).win
  match w.doing with
  | [] => s
  | (a, vs) :: rest =>
    modThr tid (modWin fun w => { w with doing := rest }) (modTile (tileOf tid) (updateElem w a vs) s)

/-- Whether a thread's pending updates perform without a word of its A stream at issue: those of a RETIRE, of an AOPEN
that is to fault, and of a thread that is coming to rest (08 R211, R215; 19 R419). -/
def listAlone (s : State) (tid : Nat) : Bool :=
  !(thr s tid).win.doing.isEmpty && !(((engOf (thr s tid) 5).call.map Call.held).getD false && canIssue s tid 5)

/-- The pending updates of a tile's threads that perform in a cycle without a word at issue: one of each (08 R213). -/
def loneUpdates (tl : Nat) (s : State) : State :=
  (((upFrom 0 4).map fun c => tl * 6 + c).filter (listAlone s)).foldl (fun s tid => doUpdate tid s) s

/-- The window's list becomes the updates to perform, and is empty (08 R209). -/
def startList (w : Window) : Window := { w with doing := groupList 32 w.list, list := [] }

/-! ## APUSH (08 R212) -/

/-- Lanes entered from progress index `n`, at most `fuel`: they stop after the lane that fills the list, and at a lane
that lies outside the allocations (08 R212, R213). -/
def enterLanes (t : Thread) (c : Call) : Nat → Nat → Window → Window × Nat × Option FaultRec
  | 0, n, w => (w, n, none)
  | fuel + 1, n, w =>
    if 64 ≤ n then (w, n, none)
    else
      let x := (lane c.snapA n).toNat
      if x = 0xFFFFFFFF then enterLanes t c fuel (n + 1) w
      else
        let a := (w.base + elemSize w * x) % 2 ^ 64
        if !(inAlloc t a (elemSize w)) then (w, n, some (boundsRec 5 2 a))
        else
          let w1 := { w with list := w.list ++ [(a, lane c.snapB n)] }
          if w1.list.length = 32 then (startList w1, n + 1, none) else enterLanes t c fuel (n + 1) w1

/-- An A word that has begun ends: it retires and the stream goes on (08 R213). -/
def endScatter (s : State) : State :=
  let c := callOf s
  modMe (retire 5 c.wid) (endLong 2 s)

/-- One cycle of an APUSH that has begun: it performs one pending update, or else enters lanes (08 R213). -/
def pushCycle (s : State) : Out :=
  let t := me s
  let c := callOf s
  if !t.win.doing.isEmpty then
    let s1 := doUpdate s.cur s
    .next (if c.prog = 64 && (me s1).win.doing.isEmpty then endScatter (progressed s1) else progressed s1)
  else
    let r := enterLanes t c 32 c.prog t.win
    let s1 := modCall (fun c => { c with prog := r.2.1 }) (modMe (modWin fun _ => r.1) s)
    match r.2.2 with
    | some f => longFault f s1
    | none => .next (if r.2.1 = 64 && r.1.doing.isEmpty then endScatter (progressed s1) else progressed s1)

/-- APUSH: illegal with reason 8 while no window is open (08 R210, R212). -/
def execApush (vi vv : Nat) (tk : Tok) (s : State) : Out :=
  if !(occupied s s.cur) then .fault .noThread
  else if (callOf s).held then pushCycle s
  else if !((me s).win.isOpen) then illegalAt 8 s
  else match tokWait (cycle s) (me s) s.strm tk with
    | some fl => waitFlag fl s
    | none => pushCycle (beginLong tk 0 (vOf (me s) vi) (vOf (me s) vv) s)

/-! ## AOPEN, AFLUSH, ACLOSE (08 R211, R215) -/

/-- One cycle of a word that performs the window's list and then changes the window by `f` (08 R213, R215). -/
def listCycle (f : Window → Window) (s : State) : State :=
  let s1 := doUpdate s.cur s
  if (me s1).win.doing.isEmpty then endScatter (modMe (modWin f) s1) else s1

/-- A word that performs the list of an open window and then changes the window by `f`; `base` is what AOPEN read at
its issue. -/
def listWord_ (tk : Tok) (base : Nat) (f : Nat → Window → Window) (s : State) : Out :=
  if !(occupied s s.cur) then .fault .noThread
  else if (callOf s).held then .next (worked (listCycle (f (callOf s).base) s))
  else match tokWait (cycle s) (me s) s.strm tk with
    | some fl => waitFlag fl s
    | none => .next (listCycle (f base) (modMe (modWin startList) (beginLong tk base [] [] s)))

/-- An AOPEN with a misaligned base faults, with no window open (08 R211). -/
def faultOpen (base : Nat) (s : State) : Out := faultAt (boundsRec 5 1 base) (modMe (modWin fun _ => {}) s)

/-- An AOPEN that reads a misaligned base: an open window is performed first, its first update now, and the base is kept
until the word faults (08 R211, R213). -/
def badOpen (base : Nat) (s : State) : Out :=
  if (me s).win.list.isEmpty then faultOpen base s
  else waitBusy (doUpdate s.cur (modMe (modWin fun w => { startList w with bad := some base }) s))

/-- AOPEN: an open window is performed first (08 R211). -/
def execAopen (g : Nat) (op : AOp) (ty : ATy) (cls : Nat) (tk : Tok) (s : State) : Out :=
  match (me s).win.bad with
  | some b => if (me s).win.doing.isEmpty then faultOpen b s else waitBusy s
  | none =>
    let base := (gOf (me s) g).toNat
    let e := if ty.code = 2 then 2 else 4
    if occupied s s.cur && !(callOf s).held && (tokWait (cycle s) (me s) s.strm tk).isNone && base % e != 0 then badOpen base s
    else listWord_ tk base (fun b _ => { isOpen := true, base := b, op := op.code, ty := ty.code, cls := cls }) s

/-- AFLUSH (08 R215). -/
def execAflush (tk : Tok) (s : State) : Out := listWord_ tk 0 (fun _ w => w) s

/-- ACLOSE (08 R215). -/
def execAclose (tk : Tok) (s : State) : Out := listWord_ tk 0 (fun _ _ => {}) s

/-- ANOP (03 R81). -/
def execAnop (s : State) : Out := engWord 1 {} true (fun _ => none) (fun _ s => s) s

end Sys2Proof.Machine
end

