-- ==== Sys2Proof/Machine/Memory.lean ====
section
/-!
DEFINITION. Memory beyond the tiles: HBM with its block codec, its poison and its read-modify-writes, host memory, the
homes of translated addresses, the translation caches and agents, and the page-request batchers
(14 R326, 16 R350-R361, R371-R377, 17 R382).
-/
namespace Sys2Proof.Machine

/-! ## The block codec (16 R372, R373) -/

/-- The 64 words of a block. -/
def blockWords (bs : List Byte) : List Nat := (upFrom 0 64).map fun i => field bs (4 * i) 4

/-- The delta of a word from the first, read as signed (16 R373). -/
def delta (w0 w : Nat) : Int := signed 32 (w + (2 ^ 32 - w0))

/-- The maximal runs of equal numbers, as pairs of count and value (16 R373). -/
def runsOf : List Nat → List (Nat × Nat)
  | [] => []
  | x :: rest =>
    match runsOf rest with
    | (n, y) :: more => if x = y then (n + 1, y) :: more else (1, x) :: (n, y) :: more
    | [] => [(1, x)]

/-- The runs of a block's high plane (16 R373). -/
def planeRuns (bs : List Byte) : List (Nat × Nat) := runsOf ((upFrom 0 128).map fun k => field bs (2 * k + 1) 1)

/-- The payload of a block in a mode (16 R373). -/
def payload (mode : Nat) (bs : List Byte) : List Byte :=
  let ws := blockWords bs
  let w0 := ws.headD 0
  match mode with
  | 1 => []
  | 2 => toBytes 4 w0
  | 3 => toBytes 4 w0 ++ ws.flatMap fun w => toBytes 1 (w + (2 ^ 32 - w0))
  | 4 => toBytes 4 w0 ++ ws.flatMap fun w => toBytes 2 (w + (2 ^ 32 - w0))
  | 5 =>
    let rs := planeRuns bs
    toBytes 1 rs.length ++ (rs.flatMap fun r => toBytes 1 (r.1 - 1) ++ toBytes 1 r.2) ++
      (upFrom 0 128).flatMap fun k => toBytes 1 (field bs (2 * k) 1)
  | _ => bs

/-- The sectors that a block stored in a mode occupies (16 R372). -/
def sectors (mode : Nat) (bs : List Byte) : Nat := ((payload mode bs).length + 31) / 32

/-- Whether a mode is usable for a block (16 R373). -/
def usable (mode : Nat) (bs : List Byte) : Bool :=
  let ws := blockWords bs
  let w0 := ws.headD 0
  match mode with
  | 1 => bs.all (· == 0)
  | 2 => ws.all (· == w0)
  | 3 => ws.all fun w => decide (-128 ≤ delta w0 w) && decide (delta w0 w ≤ 127)
  | 4 => ws.all fun w => decide (-32768 ≤ delta w0 w) && decide (delta w0 w ≤ 32767)
  | _ => true

/-- The mode in which a block is encoded: the usable mode with the fewest sectors, and among equals the first of zero,
constant, bd8, bd16, plane, raw (16 R373). -/
def bestMode (bs : List Byte) : Nat :=
  [1, 2, 3, 4, 5, 0].foldl (fun best m =>
    if usable m bs && (best = 6 || sectors m bs < sectors best bs) then m else best) 6

/-- The number that the first `n` bytes of a payload give from an offset, as a word of the block by its delta. -/
def addDelta (n w0 x : Nat) : Nat := (w0 + (signed (8 * n) x % (2 ^ 32 : Nat)).toNat) % 2 ^ 32

/-- The 256 bytes of a block from its mode and its payload; none where the mode or the run counts are illegal
(16 R374). -/
def decodeBlock (mode : Nat) (p : List Byte) : Option (List Byte) :=
  let w0 := field p 0 4
  match mode with
  | 0 => some (padTo 256 p)
  | 1 => some (List.replicate 256 0)
  | 2 => some ((upFrom 0 64).flatMap fun _ => toBytes 4 w0)
  | 3 => some ((upFrom 0 64).flatMap fun i => toBytes 4 (addDelta 1 w0 (field p (4 + i) 1)))
  | 4 => some ((upFrom 0 64).flatMap fun i => toBytes 4 (addDelta 2 w0 (field p (4 + 2 * i) 2)))
  | 5 =>
    let r := field p 0 1
    let high := (upFrom 0 r).flatMap fun j => List.replicate (field p (1 + 2 * j) 1 + 1) (field p (2 + 2 * j) 1)
    if r = 0 || high.length != 128 then none
    else some ((high.zip (upFrom 0 128)).flatMap fun q => toBytes 1 (field p (1 + 2 * r + q.2) 1) ++ toBytes 1 q.1)
  | _ => none

/-! ## HBM (16 R371-R377) -/

/-- The bytes of device memory at an offset, as readers see them (16 R375). -/
def hbmBytes (s : State) (o n : Nat) : List Byte := readBytes s.hbm.mem o n

/-- What a copy streamer receives for `n` bytes of a block at an offset: the mode and the length of what comes, and its bytes,
which are the block's sectors as stored, or the bytes alone of a block that is stored raw (16 R375; 17 R382). -/
def storedReply (s : State) (o n : Nat) : List (Nat × Nat) × List Byte :=
  let mode := look 0 s.hbm.mode (o / 256)
  if mode = 0 then ([(0, n)], hbmBytes s o n)
  else
    let b := hbmBytes s (o / 256 * 256) 256
    let p := padTo (32 * max 1 (sectors mode b)) (payload mode b)
    ([(mode, p.length)], p)

/-- The state with a partition's compression counters raised (16 R378). -/
def countCmp (p rmw saved : Nat) (s : State) : State :=
  modPart p (fun pt => { pt with stats := { pt.stats with
    rmw := (pt.stats.rmw + rmw) % 2 ^ 32, saved := (pt.stats.saved + saved) % 2 ^ 32 } }) s

/-- The sectors not moved when a block stored in a mode moves whole (16 R372, R378). -/
def sectorsSaved (mode : Nat) (bs : List Byte) : Nat := if mode = 0 then 0 else 8 - max 1 (sectors mode bs)

/-- The sectors that some places of HBM, as offset and bytes, lie in. -/
def sectorsAt (l : List (Nat × Nat)) : List Nat :=
  l.foldl (fun q x => if x.2 = 0 then q else (upFrom (x.1 / 32) ((x.1 + x.2 - 1) / 32 - x.1 / 32 + 1)).foldl (fun q n => addNat n q) q) []

/-- The state after one access reads some places of HBM, as offset and bytes: a compressed block moves as it is stored,
and what it spares of the sectors that a raw one would have moved is counted (16 R375, R378). DESIGN CHOICE (log entry
86): an access of part of a block counts the sectors that it lies in, less those of the stored block. -/
def countReads (p : Nat) (l : List (Nat × Nat)) (s : State) : State :=
  let ss := sectorsAt l
  let bs := ss.foldl (fun q n => addNat (n / 8) q) []
  let spared := bs.map fun b =>
    let mode := look 0 s.hbm.mode b
    if mode = 0 then 0 else (ss.filter fun n => n / 8 = b).length - max 1 (sectors mode (hbmBytes s (b * 256) 256))
  let n := spared.foldl (· + ·) 0
  if n = 0 then s else countCmp p 0 n s

/-- Whether HBM page `n` has its compression bit set, for an access that arrives now: one that arrives in the network
cycle of a write of the table sees the old bit (16 R371). -/
def compressed (s : State) (n : Nat) : Bool :=
  match find s.hbm.attrOld n with
  | some (now1, old) => (if now1 = s.clock.now + 1 then old else look 0 s.hbm.attr n) % 2 == 1
  | none => look 0 s.hbm.attr n % 2 == 1

/-- HBM after a read has found an error that its code cannot correct in the block at `b`, or an encoding that is none:
every line of the block is poisoned (16 R374). -/
def poisonBlock (b : Nat) (h : Hbm) : Hbm :=
  { h with uncorr := h.uncorr + 1, poison := (upFrom 0 32).foldl (fun q i => addNat (b / 256 * 256 + 8 * i) q) h.poison }

/-- A memory after the bytes of a run whose addresses pass a test are written. -/
def writeRunIf (ok : Nat → Bool) : Memory → Nat → Run → Memory
  | m, _, [] => m
  | m, a, none :: rest => writeRunIf ok m (a + 1) rest
  | m, a, some b :: rest => writeRunIf ok (if ok a then writeByte m a b else m) (a + 1) rest

/-- Whether a run from an address gives all of `n` bytes at `w`. -/
def coversAll (run : Run) (a w n : Nat) : Bool :=
  decide (a ≤ w) && decide (w + n ≤ a + run.length) && ((run.drop (w - a)).take n).all Option.isSome

/-- The part of a run that lies in one block. -/
def cutRun (run : Run) (a b : Nat) : Nat × Run :=
  let lo := max a b
  (lo, (run.drop (lo - a)).take (b + 256 - lo))

/-- A write to one block of HBM. A whole block, or a part of a raw block on a page without compression, is written as
it comes; every other write is a read-modify-write, in which a part of a poisoned line is discarded. The block is
encoded where its page is compressed, and raw otherwise, or where a read-modify-write finds poison (16 R371, R376,
R377). `bad` says which words the data
poisons. A part written to a poisoned word of a raw block is discarded like one to local memory (log entry 25). -/
def hbmBlock (p : Nat) (bad : Nat → Bool) (a : Nat) (run : Run) (s : State) (b : Nat) : State :=
  let (lo, r) := cutRun run a b
  let h := s.hbm
  let mode := look 0 h.mode (b / 256)
  let on := compressed s (b / 4096)
  let whole := coversAll r lo b 256
  let plain := whole || (mode = 0 && !on)
  let unit := if plain then 8 else 64
  let dirty := fun x => poisonedIn h.poison (x / unit * unit) unit
  let ok := fun x => !(dirty x) || coversAll r lo (x / unit * unit) unit
  let mem := writeRunIf ok h.mem lo r
  let ws := (wordsOf lo r.length).filter (touches r lo)
  let kept := h.poison.filter fun w => !(decide (b ≤ w) && decide (w < b + 256) && coversAll r lo (w / unit * unit) unit)
  let poison := (ws.filter fun w => bad w && ok w).foldl (fun q w => addNat w q) kept
  let after := readBytes mem b 256
  let found := h.poison.any fun w => decide (b ≤ w) && decide (w < b + 256)
  let mode1 := if on && !(found && !plain) then bestMode after else 0
  let saved := (if plain then 0 else sectorsSaved mode (readBytes h.mem b 256)) + sectorsSaved mode1 after
  countCmp p (if plain then 0 else 1) saved
    { s with hbm := { h with mem := mem, poison := poison, mode := put0 0 (b / 256) mode1 h.mode } }

/-- A write of a run to HBM at an offset, block by block. -/
def hbmWrite (p : Nat) (bad : Nat → Bool) (o : Nat) (run : Run) (s : State) : State :=
  if run.isEmpty then s
  else (upFrom (o / 256) ((o + run.length - 1) / 256 - o / 256 + 1)).foldl
    (fun s b => hbmBlock p bad o run s (b * 256)) (remember false o run.length s)

/-! ## Homes (14 R326, 16 R356, 17 R382) -/

/-- The bytes of the HBM window: 1 TiB (16 R356). -/
def windowSize : Nat := 2 ^ 40

/-- The home of `n` bytes at a translated address for a partition, or the cause of an access-permission fault: 4 where
the offset lies outside the partition's slice (16 R356, R509; 17 R382). -/
def homeOf (s : State) (p pa n : Nat) : Except Nat Home :=
  let w := s.hub.window
  if w ≤ pa && pa < w + windowSize then
    let o := pa - w
    let c := (part s p).cfg
    if c.hbmBase * 2 ^ 30 ≤ o && o + n ≤ (c.hbmBase + c.hbmSize) * 2 ^ 30 then .ok (.hbm o) else .error 4
  else match s.hub.windows.find? (fun e => e.1 != s.hub.module && e.2 ≤ pa && pa < e.2 + windowSize) with
    | some e => .ok (.peer e.1 pa)
    | none => .ok (.host pa)

/-- The bytes at a home, and whether some of their words are poisoned. A peer's window is not read here: what is read of
it comes from the peer (17 R382). -/
def homeRead (s : State) (h : Home) (n : Nat) : List Byte × Bool :=
  match h with
  | .hbm o => (hbmBytes s o n, poisonedIn s.hbm.poison o n)
  | .host a => (hostRead s a n, poisonedIn s.hostPoison a n)
  | .peer _ _ => (List.replicate n 0, false)
  | .got bs bad => (bs.take n, bad)

/-- Whether an atomic of `n` bytes at a home meets poison: in a block that a write of it would read, modify and write, the
whole 64-byte line is poisoned where one of its words is (12 R321; 16 R377). -/
def atomBad (s : State) (h : Home) (n : Nat) : Bool :=
  (homeRead s h n).2 || (match h with
    | .hbm o =>
      (look 0 s.hbm.mode (o / 256) != 0 || compressed s (o / 4096)) && poisonedIn s.hbm.poison (o / 64 * 64) 64
    | _ => false)

/-- The place that an access of `n` bytes at a home takes in HBM, if it lies there. -/
def hbmPlace (h : Home) (n : Nat) : List (Nat × Nat) :=
  match h with
  | .hbm o => [(o, n)]
  | _ => []

/-- The number under which a unit of the hub asks a peer for a partition. -/
def hubNo (p : Nat) : Nat := 3456 + p

/-- The state after a run is written to host memory. -/
def outsideWrite (a : Nat) (bad : Nat → Bool) (run : Run) (s : State) : State :=
  let s1 := remember true a run.length s
  let ws := (wordsOf a run.length).filter (touches run a)
  let kept := s.hostPoison.filter fun w => !(covers run a w)
  { s1 with host := writeRun s.hostPoison run a s1.host a run,
            hostPoison := (ws.filter bad).foldl (fun q w => addNat w q) kept }

/-- The state after a run is written at a home of this module or of the host; `bad` names the words that the data
poisons. -/
def homeWrite (p : Nat) (h : Home) (bad : Nat → Bool) (run : Run) (s : State) : State :=
  match h with
  | .hbm o => hbmWrite p bad o run s
  | .host a => outsideWrite a bad run s
  | .peer _ _ => s
  | .got _ _ => s

/-- A request of a unit of the hub leaves for a peer under the next number; `half` is as in a row request (17 R382). -/
def hubSend (x : HubAccess) (wr : Bool) (bytes : List Byte) (bad : List Nat) (half : Nat) (s : State) : State :=
  let y := { x with no := s.hub.next }
  emit (.rowOut x.module (hubNo x.part) y.no x.addr x.size wr bytes bad half)
    { s with hub := { s.hub with
      next := s.hub.next + 1
      asked := if wr then s.hub.asked else s.hub.asked ++ [y]
      wrote := if wr then s.hub.wrote ++ [y] else s.hub.wrote } }

/-- The state after a unit of the hub writes a run at a home; one at a peer's window waits there for the peer's
acknowledgement (17 R382). -/
def hubWrite (u : HubUnit) (p pasid va : Nat) (h : Home) (bad : Nat → Bool) (run : Run) (half : Nat) (s : State) : State :=
  match h with
  | .peer m a =>
    hubSend { part := p, module := m, addr := a, size := run.length, pasid := pasid, va := va, unit := u } true
      (run.map fun b => b.getD 0) ((wordsOf a run.length).filter bad) half s
  | h => homeWrite p h bad run s

/-- Whether a write of a unit of the hub for a partition waits for a peer's acknowledgement (17 R382). -/
def hubBusy (s : State) (u : HubUnit) (p : Nat) : Bool := s.hub.wrote.any fun x => x.unit = u && x.part = p

/-- The first write of a unit of the hub for a partition that a peer has refused (17 R382). -/
def hubRefused (s : State) (u : HubUnit) (p : Nat) : Option HubAccess :=
  s.hub.wrote.find? fun x => x.unit = u && x.part = p && x.cause != 0

/-- The state without the refusals of a unit of the hub for a partition: the unit has taken note of them. -/
def noteRefused (u : HubUnit) (p : Nat) (s : State) : State :=
  { s with hub := { s.hub with wrote := s.hub.wrote.filter fun x => !(x.unit = u && x.part = p && x.cause != 0) } }

/-! ## Translation (16 R352, R353, R355) -/

/-- Whether an entry covers an address of a process. -/
def covering (pasid va : Nat) (e : XEntry) : Bool :=
  e.pasid = pasid && e.base ≤ va && va < e.base + e.size

/-- An entry put first in a cache of a number of entries (16 R352). -/
def lruPut (cap : Nat) (e : XEntry) (l : List XEntry) : List XEntry := (e :: l.filter (fun x => x != e)).take cap

/-- What an entry says of an address it covers. -/
def answerOf (e : XEntry) (va : Nat) : Xlat :=
  if e.refused then .refused else .page (e.target + (va - e.base)) e.r e.w

/-- A unit sends one ATS request for a page (16 R353). -/
def sendAts (d vf pasid page : Nat) (s : State) : State :=
  emit (onStream s vf (.atsRequest d vf pasid page)) (modDie d (fun g => { g with reqs := g.reqs ++ [(pasid, page)] }) s)

/-- A miss of an agent becomes one ATS request for its page, merged with one outstanding; beyond 512 it waits in arrival
order (16 R353). -/
def askHost (d vf pasid page : Nat) (s : State) : State :=
  let g := die s d
  if g.reqs.contains (pasid, page) || g.queued.any (fun x => x.2 = (pasid, page)) then s
  else if 512 ≤ g.reqs.length then modDie d (fun g => { g with queued := g.queued ++ [(vf, pasid, page)] }) s
  else sendAts d vf pasid page s

/-- The first miss that waits becomes a request, now that one has completed (16 R353). -/
def nextMiss (d : Nat) (s : State) : State :=
  match (die s d).queued with
  | [] => s
  | (vf, pasid, page) :: rest =>
    if 512 ≤ (die s d).reqs.length then s else sendAts d vf pasid page (modDie d (fun g => { g with queued := rest }) s)

/-- A count of the tile's reads answered by zero for a partition raised (16 R378). -/
def countNres (tl p : Nat) (s : State) : State := modCount tl p (fun c => { c with nres := satAdd 65535 c.nres 1 }) s

/-- The key of a tile's misses for a partition. -/
def missKey (tl p : Nat) : Nat := tl * 32 + p

/-- A tile-cache miss counted, as the access meets it; `wait` says that the agent has to ask the host. DESIGN CHOICE (log
entry 87): the accesses that meet a page while its answer is on the way are one miss (16 R378). -/
def countMiss (tl p pasid page : Nat) (wait : Bool) (s : State) : State :=
  let x := (tl, pasid, page)
  modDie (dieOf tl) (fun g =>
    let known := g.missed.contains x
    { g with
      miss := if known then g.miss else put (missKey tl p) ((look 0 g.miss (missKey tl p) + 1) % 2 ^ 32) g.miss
      missed := if wait then (if known then g.missed else g.missed ++ [x]) else g.missed.filter (· != x) }) s

/-- An agent's answer for an address, the entry used moved first; on a miss the host is asked (16 R352, R353). -/
def agentXlat (d cap vf pasid va : Nat) (s : State) : Xlat × State :=
  match (die s d).agent.find? (covering pasid va) with
  | some e => (answerOf e va, modDie d (fun g => { g with agent := lruPut cap e g.agent }) s)
  | none => (.miss, askHost d vf pasid (va / 4096) s)

/-- The translation of an address for an engine of a tile: its cache, then the die's agent, whose entries that grant
something fill the cache (16 R351, R352). -/
def tileXlat (tl p vf pasid va : Nat) (s : State) : Xlat × State :=
  match (tile s tl).cache.find? (covering pasid va) with
  | some e => (answerOf e va, modTile tl (fun t => { t with cache := lruPut 256 e t.cache }) s)
  | none =>
    match agentXlat (dieOf tl) 16384 vf pasid va s with
    | (.miss, s1) => (.miss, countMiss tl p pasid (va / 4096) true s1)
    | (x, s1) =>
      let s2 := countMiss tl p pasid (va / 4096) false s1
      match (die s1 (dieOf tl)).agent.find? (covering pasid va) with
      | some e => if (e.r || e.w) && !e.refused then (x, modTile tl (fun t => { t with cache := lruPut 256 e t.cache }) s2) else (x, s2)
      | none => (x, s2)

/-- The translation of an address for a unit of the hub or of an HBM controller; the unit 4 of the dies holds the hub's
cache, which keeps only what grants something: another answer goes to the access that waits for it (16 R351, R352). -/
def hubXlat (vf pasid va : Nat) (s : State) : Xlat × State :=
  match (die s 4).agent.find? (covering pasid va), (die s 4).told.find? (covering pasid va) with
  | none, some e => (answerOf e va, modDie 4 (fun g => { g with told := g.told.filter (· != e) }) s)
  | _, _ => agentXlat 4 4096 vf pasid va s

/-- Whether a page of a process holds code: the loader maps it without write permission (03 R62). -/
def isCodePage (s : State) (p pasid page : Nat) : Bool :=
  (part s p).images.any fun e => e.2.pasid = pasid && e.2.codePages.contains page

/-! ## Page requests (16 R359-R361) -/

/-- Whether a page of a process is pending in a batch of a die or in a group awaiting its response (16 R359). -/
def pagePending (g : Die) (pasid page : Nat) : Bool :=
  let same := fun (q : PageReq) => q.pasid = pasid && q.page = page
  g.batch.any same || g.closed.any same || (g.ready ++ g.groups).any fun r => r.pages.any same

/-- The die with write intent put on a pending page (16 R359). -/
def mergeIntent (pasid page : Nat) (w hub : Bool) (g : Die) : Die :=
  let f := fun (q : PageReq) => if q.pasid = pasid && q.page = page then { q with w := q.w || w, hub := q.hub || hub } else q
  let fs := fun (r : PrgGroup) => { r with pages := r.pages.map f }
  { g with batch := g.batch.map f, closed := g.closed.map f, ready := g.ready.map fs, groups := g.groups.map fs }

/-- Whether one page request comes before another when a batch is sorted (16 R359). -/
def pageLe (x y : PageReq) : Bool := decide (x.pasid < y.pasid) || (x.pasid = y.pasid && decide (x.page ≤ y.page))

/-- A page request put in its place in a sorted batch. -/
def insertPage (x : PageReq) : List PageReq → List PageReq
  | [] => [x]
  | y :: rest => if pageLe x y then x :: y :: rest else y :: insertPage x rest

/-- A batch sorted by process and then by address (16 R359). -/
def sortPages (l : List PageReq) : List PageReq := l.foldr insertPage []

/-- The ranges of a sorted group: runs of consecutive pages with the same intent, as first page and count
(16 R359). -/
def rangesOf : List PageReq → List (PageReq × Nat)
  | [] => []
  | x :: rest =>
    match rangesOf rest with
    | (y, n) :: more =>
      if x.page + 1 = y.page && x.w = y.w && x.part = y.part then (x, n + 1) :: more else (x, 1) :: (y, n) :: more
    | [] => [(x, 1)]

/-- The page-request group indices of a virtual function that are in use in any die. -/
def prgUsed (s : State) (vf : Nat) : List Nat :=
  s.dies.flatMap fun e => ((e.2.ready ++ e.2.groups).filter fun g => g.vf = vf).map PrgGroup.idx

/-- The page-request group index that a group takes. DESIGN CHOICE (log entry 111): the lowest of the virtual function
that is free; which free one, the spec does not say (16 R359). -/
def prgFree (s : State) (vf : Nat) : Option Nat := (upFrom 0 512).find? fun i => !((prgUsed s vf).contains i)

/-- Whether the fault-log ring of a partition has room for `n` records. -/
def flqRoomFor (s : State) (p n : Nat) : Bool :=
  let g := (part s p).regs
  (part s p).logWait.isEmpty && decide ((g.flqtail - g.flqhead).toNat + n ≤ g.flqsize.toNat)

/-- The die with its batcher's counters for a partition raised (16 R378). -/
def countPr (p pages groups : Nat) (g : Die) : Die :=
  let c : PrCount := look {} g.prs p
  { g with prs := put p { pages := (c.pages + pages) % 2 ^ 32, groups := (c.groups + groups) % 65536 } g.prs }

/-- The page requests that the host lets a virtual function have outstanding: what it has written to the function's
page-request allocation, and otherwise as many as 512 groups of 64 pages (DESIGN CHOICE, log entry 88; 16 R359). -/
def prgAllocOf (s : State) (vf : Nat) : Nat := look 32768 s.prgAlloc vf

/-- The page requests that a virtual function has outstanding (16 R359). -/
def prgPages (s : State) (vf : Nat) : Nat :=
  (s.dies.flatMap fun e => (e.2.groups.filter fun g => g.vf = vf).flatMap PrgGroup.pages).length

/-- The range records of a closed batch are written, group by group, each group with its index: it waits while the indices
or the ring's places are used up (16 R359, R361). `fuel` bounds the groups. -/
def recordGroups (d : Nat) : Nat → State → State
  | 0, s => s
  | fuel + 1, s =>
    match (die s d).closed with
    | [] => s
    | x :: rest =>
      let mine := x :: rest.filter fun q => q.pasid = x.pasid && q.vf = x.vf
      let others := rest.filter fun q => !(q.pasid = x.pasid && q.vf = x.vf)
      let rs := rangesOf mine
      match prgFree s x.vf with
      | none => s
      | some i =>
        if !(flqRoomFor s x.part rs.length) then s
        else
          let s1 := rs.foldl (fun s r => flqWrite r.1.part
            (flqRec 1 r.1.w.toNat r.1.part r.1.vf r.1.pasid (r.1.page * 4096) r.2 i (nsWord s)) s) s
          recordGroups d fuel (modDie d (fun g => { g with
            closed := others, ready := g.ready ++ [{ vf := x.vf, idx := i, pages := mine }] }) s1)

/-- The messages of the groups whose records are written, Last on the final one of each; a group waits while the host's
allocation is used up (16 R359). `fuel` bounds the groups. -/
def sendReady (d : Nat) : Nat → State → State
  | 0, s => s
  | fuel + 1, s =>
    match (die s d).ready with
    | [] => s
    | r :: rest =>
      let n := r.pages.length
      if prgAllocOf s r.vf < prgPages s r.vf + n then s
      else
        let s1 := (r.pages.zip (upFrom 1 n)).foldl (fun s q =>
          modDie d (countPr q.1.part 1 0) (emit (onStream s r.vf (.pageRequest r.vf r.idx q.1.pasid q.1.page q.1.w (q.2 = n))) s)) s
        sendReady d fuel (modDie d (fun g =>
          { countPr ((r.pages.headD {}).part) 0 1 g with ready := rest, groups := g.groups ++ [r] }) s1)

/-- A closed batch goes on: all of its records are written, and then its groups are sent (16 R359). -/
def sendGroups (d fuel : Nat) (s : State) : State :=
  let s1 := recordGroups d fuel s
  if (die s1 d).closed.isEmpty then sendReady d fuel s1 else s1

/-- Whether a closed batch of a die waits: no other closes (16 R359). -/
def batchWaits (g : Die) : Bool := !(g.closed.isEmpty && g.ready.isEmpty)

/-- The open batch of a die closes, where no closed batch waits: it is sorted and sent (16 R359). -/
def closeBatch (d : Nat) (s : State) : State :=
  if !(batchWaits (die s d)) then
    sendGroups d 64 (modDie d (fun g => { g with closed := sortPages g.batch, batch := [] }) s)
  else s

/-- Whether a die's batch can take one more page (16 R359). -/
def batchRoom (g : Die) : Bool := decide (g.batch.length < 64)

/-- The hub's cache after an answer that it does not keep: the access that waits takes it (16 R352). -/
def hubTold (e : XEntry) (g : Die) : Die := { g with told := e :: g.told.filter (· != e) }

/-- A refused entry is installed for a page in an agent; the hub keeps none (16 R352, R355, R360). -/
def installRefused (d pasid page : Nat) (s : State) : State :=
  let e1 : XEntry := { pasid := pasid, base := page * 4096, size := 4096, refused := true }
  modDie d (fun g =>
    let l := g.agent.filter fun e => !(covering pasid (page * 4096) e)
    if d = 4 then hubTold e1 { g with agent := l } else { g with agent := lruPut 16384 e1 l }) s

/-- A page is entered in a die's batch, where it is not pending already: a batch of 64 pages closes. Requests of a
virtual function whose interface is off are refused at once (16 R359, R360). -/
def enterPage (d : Nat) (q : PageReq) (s : State) : State :=
  if s.refusedVf.contains q.vf then installRefused d q.pasid q.page s
  else if pagePending (die s d) q.pasid q.page then modDie d (mergeIntent q.pasid q.page q.w q.hub) s
  else
    let s1 := modDie d (fun g => { g with
      batch := g.batch ++ [q], batchNs := if g.batch.isEmpty then nsNow s else g.batchNs }) s
    if (die s1 d).batch.length = 64 then closeBatch d s1 else s1

/-- The members, as module and partition, that the running launches of a partition bind it to (17 R383, R405). -/
def membersOf (s : State) (p : Nat) : List (Nat × Nat) :=
  s.launches.flatMap fun e => if e.2.part = p then ((e.2.group.map Group.members).getD []) else []

/-- Whether a running launch of a partition binds it to another module (17 R383, R405). -/
def boundTo (s : State) (p m : Nat) : Bool := (membersOf s p).any fun x => x.1 = m

/-- The process group of a launch, where it has one. -/
def groupOf (s : State) (l : Option Nat) : Option Group := l.bind fun x => (launch s x).group

/-- The modules and partitions of a beat that a launch of a partition, or a unit that serves no launch, sends to a module
(17 R381, R383). -/
def beatFor (s : State) (p m : Nat) (l : Option Nat) : Beat :=
  { dmod := m, smod := s.hub.module, spart := p, dpart := (((membersOf s p).find? fun x => x.1 = m).map Prod.snd).getD 0
    lone := l.isSome && (groupOf s l).isNone, group := (groupOf s l).map fun g => g.gen.toNat }

/-- Whether a running launch of a partition binds it to the partition that a beat comes from: the sender's own launch, where it
serves one, and never a single-module one (17 R383). -/
def accepts (s : State) (p : Nat) (b : Beat) : Bool :=
  !b.lone && s.launches.any fun e => e.2.part = p && match e.2.group with
    | some g => g.members.contains (b.smod, b.spart) && b.group.all (· = g.gen.toNat)
    | none => false

/-- Whether a migration holds the writes to a translated page (16 R367). -/
def migHeld (s : State) (p target : Nat) : Bool :=
  (part s p).migs.any fun m => decide (3 ≤ m.stage) && m.stage != 7 && m.target / 4096 = target / 4096

/-- Whether a page that a unit of the hub has requested awaits its response (16 R359). -/
def hubPending (s : State) (pasid page : Nat) : Bool :=
  let mine := fun (q : PageReq) => q.hub && q.pasid = pasid && q.page = page
  let g := die s 0
  g.batch.any mine || g.closed.any mine || (g.ready ++ g.groups).any fun r => r.pages.any mine

/-- Where an access of a unit of the hub or of an HBM controller goes. It requests a page that is not resident, and the
page of a write without permission, and waits for it (16 R355, R357). Its requests go to the batcher of die 0 (log
entry 26). A peer refuses an access of a partition that no running launch binds to it (17 R382, R383). -/
def hubHome (p vf pasid va n : Nat) (wr : Bool) (s : State) : HubAns × State :=
  if hubPending s pasid (va / 4096) && !((die s 4).agent.any (covering pasid va)) then (.wait, s)
  else match hubXlat vf pasid va s with
  | (.miss, s1) => (.wait, s1)
  | (.refused, s1) => (.fault 2, s1)
  | (.page t r w, s1) =>
    if wr && isCodePage s1 p pasid (va / 4096) then (.fault 6, s1)
    else if wr && w && migHeld s1 p t then (.wait, s1)
    else if (if wr then w else r) then
      match homeOf s1 p t n with
      | .error c => (.fault c, s1)
      | .ok (.peer m pa) => if boundTo s1 p m then (.home (.peer m pa), s1) else (.fault 5, s1)
      | .ok h => (.home h, s1)
    else if wr && (die s1 4).granted.contains (pasid, va / 4096) then
      (.fault 3, modDie 4 (fun g => { g with granted := g.granted.filter fun x => !(x == (pasid, va / 4096)) }) s1)
    else if s1.refusedVf.contains vf then (.fault 2, s1)
    else if !(batchRoom (die s1 0)) && !(pagePending (die s1 0) pasid (va / 4096)) then (.wait, s1)
    else (.wait, enterPage 0 { vf := vf, part := p, pasid := pasid, page := va / 4096, w := wr, hub := true } s1)

/-- Whether two reads of units of the hub are one (17 R382). -/
def sameRead (x y : HubAccess) : Bool :=
  x.unit = y.unit && x.part = y.part && x.module = y.module && x.addr = y.addr && x.size = y.size

/-- A read of a peer's window by a unit of the hub: it asks the peer and waits for the answer (17 R382). -/
def hubPeer (x : HubAccess) (s : State) : HubAns × State :=
  match s.hub.got.find? fun e => sameRead e.1 x with
  | some (_, bs, bad, cause) =>
    (if cause = 0 then .home (.got bs bad) else .fault cause,
      { s with hub := { s.hub with got := s.hub.got.filter fun e => !(sameRead e.1 x) } })
  | none => if s.hub.asked.any (sameRead x) then (.wait, s) else (.wait, hubSend x false [] [] 0 s)

/-- An access of a unit of the hub or of an HBM controller, as it is made: where it goes, and for a read of a peer's
window what the peer answers (16 R355, R357; 17 R382). -/
def hubGo (u : HubUnit) (p vf pasid va n : Nat) (wr : Bool) (s : State) : HubAns × State :=
  match hubHome p vf pasid va n wr s with
  | (.home (.peer m pa), s1) =>
    if wr then (.home (.peer m pa), s1)
    else hubPeer { part := p, module := m, addr := pa, size := n, pasid := pasid, va := va, unit := u } s1
  | r => r

/-- The answer of `tileWrite` while a translation is on its way. -/
def onTheWay : Nat := 0

/-- The answer of `tileWrite` for a page without write permission (16 R355). -/
def noPermission : Nat := 16

/-- The answer of `tileWrite` for a page whose writes a migration holds (16 R367). -/
def migrating : Nat := 17

/-- Where a write of `n` bytes goes, translated by a tile's cache for a process of a partition: its home, or the cause of
an access-permission fault, or one of the answers above (16 R355, R356; 03 R62). -/
def tileWriteAs (tl p vf pasid va n : Nat) (s : State) : Except Nat Home × State :=
  match tileXlat tl p vf pasid va s with
  | (.miss, s1) => (.error onTheWay, s1)
  | (.refused, s1) => (.error 2, s1)
  | (.page q _ w, s1) =>
    if isCodePage s1 p pasid (va / 4096) then (.error 6, s1)
    else if !w then (.error noPermission, s1)
    else if migHeld s1 p q then (.error migrating, s1)
    else (homeOf s1 p q n, s1)

/-- Where a write of a thread goes. -/
def tileWrite (tid va n : Nat) (s : State) : Except Nat Home × State :=
  let id := (thr s tid).id
  tileWriteAs (tileOf tid) id.part id.vf id.pasid va n s

/-- An access that may not perform yet is put in the hold list of its die: its new `held` and the state, or 0 where it
must wait before that, or 3 for the fault of a permission still missing after a PRG response (16 R355, R358). -/
def holdAs (d : Nat) (q : PageReq) (held answer : Nat) (s : State) : Except Nat (Nat × State) :=
  let enter := fun (s : State) => if answer = migrating then s else enterPage d q s
  let woken := if answer != migrating && s.refusedVf.contains q.vf then 3 else 1
  if held = 3 && answer != migrating then .error 3
  else if answer != migrating && !(batchRoom (die s d)) && !(pagePending (die s d) q.pasid q.page) then .error 0
  else if held = 0 then
    if 512 ≤ (die s d).hold then .error 0 else .ok (woken, enter (modDie d (fun g => { g with hold := g.hold + 1 }) s))
  else .ok (woken, enter s)

/-- A write of a thread that may not perform yet is held (16 R358). -/
def holdAccess (tid held answer page : Nat) (s : State) : Except Nat (Nat × State) :=
  let id := (thr s tid).id
  holdAs (dieOf (tileOf tid)) { vf := id.vf, part := id.part, pasid := id.pasid, page := page, w := true } held answer s

/-- An access that has stood in its die's hold list leaves it (16 R358). -/
def leaveHold (tid held : Nat) (s : State) : State :=
  if held = 0 || held = 4 then s else modDie (dieOf (tileOf tid)) (fun g => { g with hold := g.hold - 1 }) s

/-- Whether a message is a write request to a peer module. -/
def isRowWrite : Msg → Bool
  | .rowOut _ _ _ _ _ wr _ _ _ => wr
  | .leave _ _ m => isRowWrite m
  | _ => false

/-- Whether a message is a row request to a peer module. -/
def isRowOut : Msg → Bool
  | .rowOut .. => true
  | .leave _ _ m => isRowOut m
  | _ => false

/-- A message without the port that it has left by. -/
def bare : Msg → Msg
  | .leave _ _ m => m
  | m => m

/-- The messages that a state has sent, or holds for a port, since an earlier one. -/
def sentSince (s s1 : State) : List Msg :=
  (s1.out.drop s.out.length ++ s1.hub.held.drop s.hub.held.length).map bare

/-- A state in which, of what has been sent since an earlier one, only what a test keeps is sent. -/
def sentOnly (keep : Msg → Bool) (s s1 : State) : State :=
  ((sentSince s s1).filter keep).foldl (fun s m => emit m s)
    { s1 with out := s.out, hub := { s1.hub with held := s.hub.held, ports := s.hub.ports } }

/-- The state of a waiting access: only what it asked of the host and of peers stays. -/
def onlyAsked (s s1 : State) : State :=
  let s2 := sentOnly (fun m => !(isRowWrite m)) s s1
  { s with dies := s2.dies, out := s2.out
           hub := { s.hub with asked := s2.hub.asked, next := s2.hub.next, ports := s2.hub.ports, held := s2.hub.held } }

/-- The state of an access that ends in a fault: what it asked stays, and what peers answered it is used up. -/
def afterFault (s s1 : State) : State :=
  let s2 := onlyAsked s s1
  { s2 with hub := { s2.hub with got := s1.hub.got } }

/-- A measure of what has been asked: it grows when an access that waits has sent a request. -/
def asks (s : State) : Nat × Nat :=
  (s.out.length + s.hub.held.length, (s.dies.map fun e =>
    e.2.reqs.length + e.2.batch.length + e.2.queued.length + e.2.missed.length).foldl (· + ·) 0)

/-- The outcome of an event that only waits: it has happened where it asked the host for something, and is otherwise
not enabled. -/
def waiting (name : String) (s s1 : State) : Out := if asks s1 != asks s then .next s1 else .fault (.notEnabled name)

end Sys2Proof.Machine
end

