-- ==== Sys2Proof/Machine/Handles.lean ====
section
/-!
DEFINITION. Tensor handles: records and their checks, layouts, accesses by handle, relayout, and the HND words
(09 R218-R236).
-/
namespace Sys2Proof.Machine

/-! ## Records (09 R219, R221) -/

/-- The fields of a 64-byte handle record (09 R219). -/
def parseHRec (b : List Byte) : HRec :=
  { base := field b 0 8, dims := [field b 8 4, field b 12 4, field b 16 4, field b 20 4], fmt := field b 24 1,
    ndims := field b 25 1, layout := field b 26 1, space := field b 27 1, tile := field b 28 2, tr := field b 30 1,
    tc := field b 31 1, group := field b 32 1, scale := field b 34 2, rsvd := !(zeroAt b 33 1 && zeroAt b 38 26) }

/-- A dimension; those at and beyond ndims count as 1 (09 R220). -/
def dim (r : HRec) (i : Nat) : Nat := if i < r.ndims then r.dims.getD i 0 else 1

/-- The bits of an element of a handle format (09 R220). -/
def elemBits (fmt : Nat) : Nat :=
  match fmt with
  | 0 => 32
  | 3 => 32
  | 1 => 16
  | 2 => 16
  | 5 => 8
  | _ => 4

/-- The coordinates of an element, innermost first. -/
abbrev Coord := Nat × Nat × Nat × Nat

/-- The plane number of an element (09 R220). -/
def plane (r : HRec) (x : Coord) : Nat := x.2.2.1 + dim r 2 * x.2.2.2

/-- The element position of a layout other than colslice; for colslice, the position s within the slice (09 R220). -/
def linOf (r : HRec) (x : Coord) : Nat :=
  let x0 := x.1
  let x1 := x.2.1
  let pl := plane r x
  match r.layout with
  | 0 => x0 + dim r 0 * (x1 + dim r 1 * pl)
  | 1 => x1 + dim r 1 * (x0 + dim r 0 * pl)
  | 2 =>
    let rr := 2 ^ r.tr
    let cc := 2 ^ r.tc
    ((pl * ceilDiv (dim r 1) rr + x1 / rr) * ceilDiv (dim r 0) cc + x0 / cc) * (rr * cc) + x1 % rr * cc + x0 % cc
  | 3 => (pl * ceilDiv (dim r 0) 128 + x0 / 128) * dim r 1 + x1
  | _ => x0 + ceilDiv (dim r 0) (groupSize r.group) * groupSize r.group * (x1 + dim r 1 * pl)

/-- The byte offset of an element from the base, and whether a UINT4 element is the high nibble (09 R220). -/
def offsetOf (r : HRec) (x : Coord) : Nat × Bool :=
  let lin := linOf r x
  let y := lin * elemBits r.fmt / 8
  (if r.layout = 3 then y / 64 * 8192 + x.1 % 128 * 64 + y % 64 else y, lin % 2 == 1)

/-- The storage elements of a layout; for colslice, those of one slice (09 R220). -/
def storageElems (r : HRec) : Nat :=
  let planes := dim r 2 * dim r 3
  match r.layout with
  | 2 => ceilDiv (dim r 1) (2 ^ r.tr) * 2 ^ r.tr * (ceilDiv (dim r 0) (2 ^ r.tc) * 2 ^ r.tc) * planes
  | 3 => ceilDiv (dim r 0) 128 * dim r 1 * planes
  | 4 => ceilDiv (dim r 0) (groupSize r.group) * groupSize r.group * dim r 1 * planes
  | _ => dim r 0 * dim r 1 * planes

/-- The storage extent in bytes (09 R220). -/
def extent (r : HRec) : Nat :=
  let n := ceilDiv (storageElems r * elemBits r.fmt) 8
  if r.layout = 3 then ceilDiv n 64 * 8192 else n

/-- The status of a record that breaks the form of R221, before its scale and its storage are looked at (-3). -/
def recordBad (r : HRec) : Bool :=
  let eb := elemBits r.fmt
  r.rsvd || !(decide (1 ≤ r.ndims) && decide (r.ndims ≤ 4)) ||
  (upFrom 0 4).any (fun i => if i < r.ndims then r.dims.getD i 0 = 0 else r.dims.getD i 0 != 0) ||
  decide (5 < r.fmt) || decide (4 < r.layout) || decide (1 < r.space) || decide (3 < r.group) ||
  decide (8 < r.tr) || decide (8 < r.tc) || (r.layout != 2 && (r.tr != 0 || r.tc != 0)) ||
  (decide (8 ≤ eb) && r.base % (eb / 8) != 0) || decide (2 ^ 64 < r.base + extent r) ||
  (r.layout = 4 && r.fmt != 4 && r.fmt != 5) || (r.layout = 2 && r.fmt = 4 && r.tc = 0) ||
  (r.layout = 3 && !(r.space = 1 && decide (0x01000000 ≤ r.base) && decide (r.base < 0x01600000) && r.base % 8192 = 0)) ||
  ((r.group != 0) != (r.fmt = 4 || r.fmt = 5)) ||
  (r.space = 0 && r.tile != 0) || (r.group = 0 && r.scale != 0)

/-- Whether a live entry is the scale handle that a record needs (09 R221). -/
def scaleFits (r : HRec) (e : Handle) : Bool :=
  let q := e.hrec
  q.fmt = 2 && q.layout = 0 && q.space = 0 && q.ndims = r.ndims &&
  q.dims = ceilDiv (dim r 0) (groupSize r.group) :: r.dims.drop 1

/-- The status of R235 with which a record is refused, if it is: 3, 4 or 5 for -3, -4, -5 (09 R221). -/
def recordStatus (s : State) (tid : Nat) (r : HRec) : Option Nat :=
  if recordBad r then some 3
  else if r.group != 0 && !((find (part s (partOf s tid)).handles r.scale).any (scaleFits r)) then some 4
  else if r.space = 1 && !(r.tile = tileOf tid && inAlloc (thr s tid) r.base (extent r)) then some 5
  else none

/-! ## Accesses by handle (09 R222, R225) -/

/-- A handle of a partition, if its entry is live. -/
def handleOf (s : State) (p h : Nat) : Option Handle := find (part s p).handles h

/-- The state with a handle's entry changed. -/
def modHandle (p h : Nat) (f : Handle → Handle) (s : State) : State :=
  modPart p (fun pt => { pt with handles := adjust h f pt.handles }) s

/-- The first coordinate outside its dimension, with the dimension (09 R222). -/
def outside (r : HRec) (x : Coord) : Option (Nat × Nat) :=
  if dim r 0 ≤ x.1 then some (0, x.1)
  else if dim r 1 ≤ x.2.1 then some (1, x.2.1)
  else if dim r 2 ≤ x.2.2.1 then some (2, x.2.2.1)
  else if dim r 3 ≤ x.2.2.2 then some (3, x.2.2.2)
  else none

/-- The blocks of the first dimension of a plane (09 R223). -/
def blocksX (r : HRec) (i : Nat) : Nat := ceilDiv (dim r i) 16

/-- The block number of an element (09 R223). -/
def blockOf (r : HRec) (x : Coord) : Nat :=
  x.1 / 16 + blocksX r 0 * (x.2.1 / 16 + blocksX r 1 * plane r x)

/-- The blocks of a tensor (09 R223). -/
def blockCount (r : HRec) : Nat := blocksX r 0 * blocksX r 1 * dim r 2 * dim r 3

/-- Whether an element lies in the block that a relayout is converting: an access to it waits (09 R225). -/
def converting (e : Handle) (x : Coord) : Bool :=
  match e.conv with
  | some c => c.busy && blockOf e.hrec x = c.c
  | none => false

/-- The record that serves an element: the new storage for a converted block of a relayout in progress or failed, and
otherwise the current one (09 R225, R228). -/
def serving (e : Handle) (x : Coord) : HRec :=
  match e.conv with
  | some c => if blockOf e.hrec x < c.c then c.hrec else e.hrec
  | none => e.hrec

/-- Where an element of a handle lies at this moment: the record that serves it, its address, and its nibble. -/
def elemAt (e : Handle) (x : Coord) : HRec × Nat × Bool :=
  let r := serving e x
  let o := offsetOf r x
  (r, r.base + o.1, o.2)

/-- The bytes an element of a format takes. -/
def elemBytes (fmt : Nat) : Nat := (elemBits fmt + 7) / 8

/-- An element's value from the bytes that hold it (09 R220). -/
def elemFrom (fmt : Nat) (high : Bool) (bs : List Byte) : Nat :=
  let x := leNat bs
  if fmt = 4 then (if high then x / 16 else x % 16) else x

/-- The bytes that hold an element after it is written (09 R220). -/
def elemInto (fmt : Nat) (high : Bool) (old : List Byte) (v : Nat) : List Byte :=
  if fmt = 4 then
    let x := leNat old
    toBytes 1 (if high then x % 16 + v % 16 * 16 else x / 16 * 16 + v % 16)
  else toBytes (elemBytes fmt) v

/-! ## Relayout (09 R223-R228) -/

/-- The relayout engine that converts a handle: a tile's (numbers from 12), or an HBM controller's (0 to 11)
(09 R224). -/
def relayEngine (h : Nat) (c : Conv) : Nat := if c.hrec.space = 1 then 12 + c.hrec.tile else h % 12

/-- The relayouts in progress with their partition, number and order of acceptance. -/
def relayouts (s : State) : List (Nat × Nat × Conv) :=
  s.parts.flatMap fun e => e.2.handles.filterMap fun h =>
    match h.2.conv with
    | some c => if h.2.failed then none else some (e.1, h.1, c)
    | none => none

/-- Whether a relayout is the one its engine serves: the first accepted (09 R224). -/
def relayFirst (s : State) (p h : Nat) (c : Conv) : Bool :=
  (relayouts s).all fun e =>
    relayEngine e.2.1 e.2.2 != relayEngine h c || c.order < e.2.2.order ||
    (c.order = e.2.2.order && (p < e.1 || (p = e.1 && h ≤ e.2.1)))

/-- The coordinates of the elements of block `b` (09 R223). -/
def blockCoords (r : HRec) (b : Nat) : List Coord :=
  let bx := b % blocksX r 0
  let q := b / blocksX r 0
  let by_ := q % blocksX r 1
  let pl := q / blocksX r 1
  let x2 := pl % dim r 2
  let x3 := pl / dim r 2
  (upFrom (by_ * 16) (min 16 (dim r 1 - by_ * 16))).flatMap fun x1 =>
    (upFrom (bx * 16) (min 16 (dim r 0 - bx * 16))).map fun x0 => (x0, x1, x2, x3)

/-- The padded range of a layout in its first two dimensions (09 R223). -/
def paddedRange (r : HRec) : Nat × Nat :=
  match r.layout with
  | 2 => (ceilDiv (dim r 0) (2 ^ r.tc) * 2 ^ r.tc, ceilDiv (dim r 1) (2 ^ r.tr) * 2 ^ r.tr)
  | 3 => (ceilDiv (dim r 0) 128 * 128, dim r 1)
  | 4 => (ceilDiv (dim r 0) (groupSize r.group) * groupSize r.group, dim r 1)
  | _ => (dim r 0, dim r 1)

/-- The padding positions of the new layout that belong to block `b` (09 R223). -/
def padCoords (r : HRec) (b : Nat) : List Coord :=
  let bx := b % blocksX r 0
  let q := b / blocksX r 0
  let by_ := q % blocksX r 1
  let pl := q / blocksX r 1
  let pr := paddedRange r
  let x2 := pl % dim r 2
  let x3 := pl / dim r 2
  let xs := if bx + 1 = blocksX r 0 then upFrom (bx * 16) (pr.1 - bx * 16) else upFrom (bx * 16) 16
  let ys := if by_ + 1 = blocksX r 1 then upFrom (by_ * 16) (pr.2 - by_ * 16) else upFrom (by_ * 16) 16
  ys.flatMap fun x1 => (xs.filter fun x0 => dim r 0 ≤ x0 || dim r 1 ≤ x1).map fun x0 => (x0, x1, x2, x3)

/-- The bytes of the new extent that no coordinate reaches: the rest of the last granule of each slice of colslice,
and the byte with the unused high nibble at the end of a UINT4 extent (09 R223). -/
def tailBytes (r : HRec) : List Nat :=
  if r.layout = 3 then
    let n := ceilDiv (storageElems r * elemBits r.fmt) 8
    let last := ceilDiv n 64 - 1
    (upFrom 0 128).flatMap fun j => (upFrom (n - last * 64) (64 - (n - last * 64))).map fun y => last * 8192 + j * 64 + y
  else []

/-- The bytes at a place of a handle's storage, with poison: local to its tile, or at a home. -/
def storageRead (s : State) (r : HRec) (h : Home) (a n : Nat) : List Byte × Bool :=
  if r.space = 1 then
    let t := tile s r.tile
    (readBytes t.mem a n, poisonedIn t.poison a n)
  else homeRead s h n

/-- The unit that converts handle `h` (17 R382). -/
def relayUnit (h : Nat) (c : Conv) : HubUnit := .relay h c.order

/-- The state after the relayout of handle `k` writes bytes to the new storage; poisoned data poisons every word it
touches; `half` says that a nibble of its byte stays (08 R202; 09 R224, R228; 17 R382). -/
def storageWrite (p k : Nat) (c : Conv) (h : Home) (a : Nat) (bs : List Byte) (bad : Bool) (half : Nat) (s : State) : State :=
  if c.hrec.space = 1 then modTile c.hrec.tile (storeRun (bs.map some) a (fun _ => bad)) s
  else hubWrite (relayUnit k c) p c.pasid a h (fun _ => bad) (bs.map some) half s

/-- The state after the relayout of handle `k` writes an element to the new storage at a byte: the other nibble of a UINT4
element's byte stays, at a peer's window too (09 R220, R223; 17 R382). -/
def storageElem (p k : Nat) (c : Conv) (h : Home) (a : Nat) (hi : Bool) (v : Nat) (bad : Bool) (s : State) : State :=
  let old := (storageRead s c.hrec h a (elemBytes c.hrec.fmt)).1
  storageWrite p k c h a (elemInto c.hrec.fmt hi old v) bad (if c.hrec.fmt != 4 then 0 else if hi then 1 else 2) s

/-- A place of a handle's storage found for an access of a relayout engine: local storage is always at hand; virtual
storage is translated by the hub cache (16 R351). -/
def findPlace (p k : Nat) (c : Conv) (r : HRec) (a n : Nat) (wr : Bool) (s : State) : HubAns × State :=
  if r.space = 1 then (.home (.host 0), s) else hubGo (relayUnit k c) p c.vf c.pasid a n wr s

/-- One element converted: the same bits read at the old position and written at the new (09 R223). DESIGN CHOICE (log
entry 85): each element is a write of its own, so a part of a word that is poisoned already is discarded (08 R203). -/
def convertElem (p k : Nat) (c : Conv) (old : HRec) (x : Coord) (st : HubAns × State) : HubAns × State :=
  match st.1 with
  | .home _ =>
    let n := elemBytes old.fmt
    let o := offsetOf old x
    let o' := offsetOf c.hrec x
    match findPlace p k c old (old.base + o.1) n false st.2 with
    | (.home ha, s1) =>
      match findPlace p k c c.hrec (c.hrec.base + o'.1) n true s1 with
      | (.home hb, s2) =>
        let src := storageRead s2 old ha (old.base + o.1) n
        (st.1, storageElem p k c hb (c.hrec.base + o'.1) o'.2 (elemFrom old.fmt o.2 src.1) src.2 s2)
      | (r, s2) => (r, s2)
    | (r, s1) => (r, s1)
  | _ => st

/-- One padding position of the new layout written zero (09 R223). -/
def padElem (p k : Nat) (c : Conv) (x : Coord) (st : HubAns × State) : HubAns × State :=
  match st.1 with
  | .home _ =>
    let n := elemBytes c.hrec.fmt
    let o := offsetOf c.hrec x
    match findPlace p k c c.hrec (c.hrec.base + o.1) n true st.2 with
    | (.home hb, s1) => (st.1, storageElem p k c hb (c.hrec.base + o.1) o.2 0 false s1)
    | (r, s1) => (r, s1)
  | _ => st

/-- One byte of the new extent that no coordinate reaches written zero (09 R223). -/
def padByte (p k : Nat) (c : Conv) (o : Nat) (st : HubAns × State) : HubAns × State :=
  match st.1 with
  | .home _ =>
    match findPlace p k c c.hrec (c.hrec.base + o) 1 true st.2 with
    | (.home hb, s1) => (st.1, storageWrite p k c hb (c.hrec.base + o) [0] false 0 s1)
    | (r, s1) => (r, s1)
  | _ => st

/-- The bytes, as offsets from the base, whose high nibble no UINT4 element takes: the last of the extent, and for
colslice the last of each slice (09 R220, R223). -/
def oddNibbles (r : HRec) : List Nat :=
  if r.fmt != 4 || storageElems r % 2 = 0 then []
  else if r.layout = 3 then
    let y := storageElems r / 2
    (upFrom 0 128).map fun j => y / 64 * 8192 + j * 64 + y % 64
  else [extent r - 1]

/-- An unused high nibble at the end of a UINT4 extent written zero (09 R223). -/
def padNibble (p k : Nat) (c : Conv) (o : Nat) (st : HubAns × State) : HubAns × State :=
  match st.1 with
  | .home _ =>
    match findPlace p k c c.hrec (c.hrec.base + o) 1 true st.2 with
    | (.home hb, s1) => (st.1, storageElem p k c hb (c.hrec.base + o) true 0 false s1)
    | (r, s1) => (r, s1)
  | _ => st

/-- A block converted into the new storage, or what stops it (09 R223). DESIGN CHOICE (log entry 85): its elements are read
and written one after another, so where the two extents are the same and the layouts are not, one can be overwritten
before it is read. -/
def convertBlock (p k : Nat) (e : Handle) (c : Conv) (s : State) : HubAns × State :=
  let st0 : HubAns × State := (.home (.host 0), s)
  let st1 := (blockCoords e.hrec c.c).foldl (fun st x => convertElem p k c e.hrec x st) st0
  let st2 := (padCoords c.hrec c.c).foldl (fun st x => padElem p k c x st) st1
  if c.c + 1 = blockCount e.hrec then
    let st3 := (tailBytes c.hrec).foldl (fun st o => padByte p k c o st) st2
    (oddNibbles c.hrec).foldl (fun st o => padNibble p k c o st) st3
  else st2

/-- The named copy token of a relayout becomes done (09 R227, R228). The thread that named it is found by its team and
member, on a tile or among the saved teams of its partition; one that has ended has no token left (11 R279). -/
def tokenDone (p : Nat) (c : Conv) (s : State) : State :=
  match c.tok with
  | none => s
  | some (tm, m, k) =>
    let mine := fun (x : Nat × Thread) => x.2.id.team = tm && x.2.id.member = m && x.2.tillerOf.isNone
    let f := fun (x : Nat × Thread) => if mine x then (x.1, setK k .done x.2) else x
    modPart p (fun pt => { pt with saved := pt.saved.map fun sv => { sv with members := sv.members.map f } })
      { s with threads := s.threads.map f }

/-- The entry after a block has been converted: at the last one the new fields become its own and the generation
advances (09 R227). -/
def blockDone (p h : Nat) (e : Handle) (c : Conv) (s : State) : State :=
  if c.c + 1 = blockCount e.hrec then
    tokenDone p c (modPart p (fun pt => { pt with
      handles := adjust h (fun e => { e with hrec := c.hrec, conv := none }) pt.handles
      gens := put h (look 0 pt.gens h + 1) pt.gens }) s)
  else modHandle p h (fun e => { e with conv := some { c with c := c.c + 1, busy := false, sent := false } }) s

/-- A relayout stops before its block: the entry has failed, and the named token becomes done (09 R228). -/
def relayFails (p h : Nat) (c : Conv) (s : State) : State :=
  tokenDone p c (modHandle p h (fun e => { e with failed := true, conv := some { c with busy := false, sent := false } }) s)

/-- Event RELAYOUT_BLOCK: the engine of handle `b` of partition `a` converts its next block; an access-permission fault
stops the conversion before it (09 R223-R228). A block's accesses are made only when all of them can be; while the
engine waits for a page, or for a peer's acknowledgement of a write, the block is converting (17 R382). -/
def execRelayoutBlock (s : State) : Out :=
  let p := s.arg.a
  let h := s.arg.b
  match handleOf s p h with
  | some { hrec := r, inst := _, refs := n, scalerefs := m, conv := some c, failed := false, away := w } =>
    let u := relayUnit h c
    if !(relayFirst s p h c) || w.isSome then .fault (.notEnabled "RELAYOUT_BLOCK")
    else if (hubRefused s u p).isSome then .next (relayFails p h c (noteRefused u p s))
    else if hubBusy s u p then .fault (.notEnabled "RELAYOUT_BLOCK")
    else if c.sent then .next (blockDone p h { hrec := r } c s)
    else match convertBlock p h { hrec := r, refs := n, scalerefs := m, conv := some c } c s with
      | (.home _, s1) =>
        if hubBusy s1 u p then .next (modHandle p h (fun e => { e with conv := some { c with busy := true, sent := true } }) s1)
        else .next (blockDone p h { hrec := r } c s1)
      | (.fault _, s1) => .next (relayFails p h c (afterFault s s1))
      | (.wait, s1) =>
        let s2 := onlyAsked s s1
        if c.busy then waiting "RELAYOUT_BLOCK" s s2
        else .next (modHandle p h (fun e => { e with conv := some { c with busy := true } }) s2)
  | _ => .fault (.notEnabled "RELAYOUT_BLOCK")

/-! ## The handle words (09 R230-R236) -/

/-- A C word of class 15 that consumes a shared result: it waits for the far requests before it (09 R236) and while the
log ring is full, and its result is recorded or replayed
(24 R493, R494). -/
def sharedWord (d : Nat) (f : State → Word × State) (s : State) : Out :=
  if !(occupied s s.cur) then .fault .noThread
  else if classHeld (me s) 15 || logFull s s.cur 1 then waitBusy s
  else doneCS 2 (fun s1 => let r := f s1; setShared d 5 r.1 r.2) s

/-- A word that reads a record of `n` bytes at g[ga] from the thread's own allocation, with its faults (09 R230). -/
def recordWord (d a n : Nat) (f : List Byte → State → Word × State) (s : State) : Out :=
  if !(occupied s s.cur) then .fault .noThread
  else
    let x := (gOf (me s) a).toNat
    let tl := tile s (tileOf s.cur)
    match readFault (me s) tl 0 x n 8 with
    | some r => faultAt r s
    | none => sharedWord d (f (readBytes tl.mem x n)) s

/-- The effect of HND.DEF on entry `h` from a record (09 R231). -/
def defHandle (h : Nat) (bs : List Byte) (s : State) : Word × State :=
  let p := partOf s s.cur
  let r := parseHRec bs
  if 4095 < h then (neg 1, s)
  else if (handleOf s p h).isSome then (neg 2, s)
  else match recordStatus s s.cur r with
    | some n => (neg n, s)
    | none =>
      (0, modPart p (fun pt => { pt with
        handles := put h { hrec := r } (if r.group = 0 then pt.handles
          else adjust r.scale (fun e => { e with scalerefs := e.scalerefs + 1 }) pt.handles)
        gens := put h (look 0 pt.gens h + 1) pt.gens }) s)

/-- HND.DEF (09 R231). -/
def execHndDef (d a b : Nat) (s : State) : Out :=
  let h := (gOf (me s) b).toNat
  recordWord d a 64 (defHandle h) s

/-- The new fields of a relayout record in an entry's record (09 R232). -/
def relayRec (r : HRec) (b : List Byte) : HRec :=
  { r with base := field b 0 8, space := field b 8 1, layout := field b 9 1, tile := field b 10 2, tr := field b 12 1,
           tc := field b 13 1, rsvd := false }

/-- The effect of HND.RELAY on entry `h` from a record (09 R232, 04 R93). -/
def relayHandle (h : Nat) (bs : List Byte) (s : State) : Word × State :=
  let p := partOf s s.cur
  let ktok := field bs 14 1
  match handleOf s p h with
  | none => (neg 1, s)
  | some e =>
    if 4095 < h then (neg 1, s)
    else if e.conv.isSome || e.failed || 0 < e.scalerefs then (neg 6, s)
    else if !(zeroAt bs 15 17) then (neg 3, s)
    else match recordStatus s s.cur (relayRec e.hrec bs) with
      | some n => (neg n, s)
      | none =>
        if ktok != 0xFF && (7 < ktok || isTiller s.cur) then (neg 3, s)
        else if ktok ≤ 7 && kOf (me s) ktok = .busy then (neg 7, s)
        else
          let c : Conv :=
            { hrec := relayRec e.hrec bs, tok := if ktok ≤ 7 then some ((memberOf s s.cur).1, (memberOf s s.cur).2, ktok) else none, order := s.clock.now,
              vf := (me s).id.vf, pasid := (me s).id.pasid }
          (0, modMe (fun t => if ktok ≤ 7 then setK ktok .busy t else t) (modPart p (fun pt => { pt with
            handles := adjust h (fun e => { e with conv := some c }) pt.handles
            gens := put h (look 0 pt.gens h + 1) pt.gens }) s))

/-- HND.RELAY (09 R232). -/
def execHndRelay (d a b : Nat) (s : State) : Out :=
  let h := (gOf (me s) b).toNat
  recordWord d a 32 (relayHandle h) s

/-- An item of HND.QRY (09 R233). -/
def queryHandle (s : State) (p h item : Nat) : Word :=
  match handleOf s p h with
  | none => 0
  | some e =>
    let conv := if e.failed then none else e.conv
    BitVec.ofNat 64 (match item with
      | 0 => 2 ^ 63 + conv.isSome.toNat * 2 ^ 62 + e.failed.toNat * 2 ^ 61 + e.hrec.layout * 2 ^ 44 +
          (match conv with | some c => c.hrec.layout * 2 ^ 40 | none => 0) + e.hrec.fmt * 2 ^ 36 + e.hrec.group * 2 ^ 34 +
          (e.hrec.ndims - 1) * 2 ^ 32
      | 1 => (match conv with | some c => c.c | none => 0)
      | 2 => (match conv with | some _ => blockCount e.hrec | none => 0)
      | _ => (look 0 (part s p).gens h).toNat)

/-- HND.QRY (09 R233). -/
def execHndQry (d a item : Nat) (s : State) : Out :=
  let h := (gOf (me s) a).toNat
  sharedWord d (fun s1 => (queryHandle s1 (partOf s1 s1.cur) h item, s1)) s

/-- The table without an entry, whose scale entry loses a reference (09 R234). -/
def freeHandle (h : Nat) (e : Handle) (m : SMap Handle) : SMap Handle :=
  del h (if e.hrec.group = 0 then m else adjust e.hrec.scale (fun q => { q with scalerefs := q.scalerefs - 1 }) m)

/-- The effect of HND.DROP on entry `h` (09 R234). -/
def dropHandle (h : Nat) (s : State) : Word × State :=
  let p := partOf s s.cur
  match handleOf s p h with
  | none => (neg 1, s)
  | some e =>
    if 4095 < h then (neg 1, s)
    else if 0 < e.refs || (e.conv.isSome && !e.failed) then (neg 8, s)
    else if 0 < e.scalerefs then (neg 9, s)
    else (0, modPart p (fun pt => { pt with handles := freeHandle h e pt.handles }) s)

/-- HND.DROP (09 R234). -/
def execHndDrop (d a : Nat) (s : State) : Out :=
  let h := (gOf (me s) a).toNat
  sharedWord d (dropHandle h) s

/-- Whether a handle's storage, old or new, meets a range of a tile's local memory, whoever it belongs to. -/
def storageMeets (e : Handle) (tl a n : Nat) : Bool :=
  let hit := fun (r : HRec) => r.space = 1 && r.tile = tl && decide (r.base < a + n) && decide (a < r.base + extent r)
  hit e.hrec || (match e.conv with | some c => hit c.hrec | none => false)

/-- Whether a handle's storage lies in a range of a tile's local memory: what belongs to a saved team does not
(09 R229; 19 R440). -/
def storedIn (e : Handle) (tl a n : Nat) : Bool := e.away.isNone && storageMeets e tl a n

/-- A reference to a handle added or taken away (09 R222). -/
def refHandle (p h : Nat) (up : Bool) (s : State) : State :=
  modHandle p h (fun e => { e with refs := if up then e.refs + 1 else e.refs - 1 }) s

end Sys2Proof.Machine
end

