-- ==== Sys2Proof/Machine/Matrix.lean ====
section
/-!
DEFINITION. The matrix array: steps, self-test and sparing, and every M word but MRD, which stands with the queues it
feeds (10 R237-R262).
-/
namespace Sys2Proof.Machine

/-- The index of level `l` at iteration number `i` of the levels, level 0 fastest (10 R242). -/
def lvlIndex (c : Shadow) (i l : Nat) : Nat :=
  i / (upFrom 0 l).foldl (fun n k => n * lvlCount c k) 1 % lvlCount c l

/-- The sum over the levels of an index times a step (10 R242). -/
def nestSum (c : Shadow) (i off : Nat) : Int :=
  (upFrom 0 6).foldl (fun x l => x + (lvlIndex c i l : Int) * lvlStep c l off) 0

/-- The accumulator set of step `p` (10 R242). -/
def stepSet (c : Shadow) (a p : Nat) : Nat :=
  let i := p / chunks c
  (a + (upFrom 0 6).foldl (fun x l => x + lvlIndex c i l * lvlSet c l) 0) % 4

/-- The sets that the steps of a nest name, as a mask (10 R258). -/
def nestSets (c : Shadow) (a : Nat) : Nat :=
  let l := (upFrom 0 6).foldl (fun ss l =>
    ss.flatMap fun x => (upFrom 0 (min 4 (lvlCount c l))).map fun i => (x + i * lvlSet c l) % 4) [a % 4]
  (upFrom 0 4).foldl (fun m x => if l.contains x then m + 2 ^ x else m) 0

/-- The least and the greatest of a coordinate over all steps, without its range (10 R246). -/
def nestRange (c : Shadow) (start : Nat) (off : Nat) : Int × Int :=
  (upFrom 0 6).foldl (fun r l =>
    let x := (lvlCount c l - 1 : Int) * lvlStep c l off
    (r.1 + min 0 x, r.2 + max 0 x)) ((start : Int), (start : Int))

/-! ## Handles at MGO (10 R246) -/

/-- A handle-bounds fault: the handle, the dimension and the coordinate (19 R424). -/
def handleRec (st h d x : Nat) : FaultRec :=
  { code := 2, engine := st, lo := BitVec.ofNat 64 (h % 65536 + d % 4 * 65536 + x % 2 ^ 32 * 2 ^ 32) }

/-- The first coordinate range that leaves its dimension, as dimension and coordinate: of a range's two extremes the least
is looked at first (09 R222, 10 R246; log entry 78). -/
def rangeBad (r : HRec) : Nat → List (Int × Int) → Option (Nat × Nat)
  | _, [] => none
  | i, (lo, hi) :: rest =>
    match [lo, hi].find? fun x => x < 0 || (dim r i : Int) ≤ x with
    | some x => some (i, (x % (2 ^ 32 : Nat)).toNat)
    | none => rangeBad r (i + 1) rest

/-- Whether a handle record lies where a thread of a tile may reach it: in virtual memory or on that tile (01 R16;
11 R271; log entry 79). -/
def reaches (tl : Nat) (r : HRec) : Bool := r.space != 1 || r.tile = tl

/-- The coordinate ranges of A over all steps (10 R246). -/
def rangesA (c : Shadow) : List (Int × Int) :=
  let k := nestRange c (tabField c 8 4) 2
  let m := nestRange c (tabField c 12 4) 4
  let p := nestRange c (tabField c 24 2) 8
  let q : Int := tabField c 26 2
  [(k.1, k.2 + nKext c - 1), (m.1, m.2 + nRows c - 1), p, (q, q)]

/-- The coordinate ranges of B over all steps (10 R246). -/
def rangesB (c : Shadow) : List (Int × Int) :=
  let n := nestRange c (tabField c 16 4) 6
  let k := nestRange c (tabField c 20 4) 2
  let p := nestRange c (tabField c 28 2) 10
  let q : Int := tabField c 30 2
  [(n.1, n.2 + nCols c - 1), (k.1, k.2 + nKext c - 1), p, (q, q)]

/-- A pair of bounds divided by the group size. -/
def divRange (g : Nat) (r : Int × Int) : Int × Int := (r.1 / (g : Int), r.2 / (g : Int))

/-- The coordinate ranges of the A zero points (10 R243). -/
def rangesZA (c : Shadow) : List (Int × Int) :=
  match rangesA c with
  | k :: rest => divRange (nGroup c) k :: rest
  | [] => []

/-- The coordinate ranges of the B zero points (10 R243). -/
def rangesZB (c : Shadow) : List (Int × Int) :=
  match rangesB c with
  | n :: k :: rest => n :: divRange (nGroup c) k :: rest
  | l => l

/-- The code of R219 for a nest format (10 R256). -/
def nestFmt (c : Shadow) : Nat :=
  match c.fmt with
  | 0 => 1
  | 1 => 2
  | 2 => 5
  | _ => 4

/-- Whether a local extent lies inside one of the two allocations of a thread: the scratchpad's or the stacked
bank's. -/
def extentIn (r : HRec) (base size : Word) : Bool :=
  decide (base.toNat ≤ r.base) && decide (r.base + extent r ≤ base.toNat + size.toNat)

/-- The fault of an operand's handle: not live, not of its kind, or a coordinate out of range (10 R246). -/
def operandFault (s : State) (p h : Nat) (ok : HRec → Bool) (rs : List (Int × Int)) : Option FaultRec :=
  match handleOf s p h with
  | none => some (handleRec 2 h 0 0)
  | some e =>
    if !(ok e.hrec) then some (handleRec 2 h 0 0)
    else match rangeBad e.hrec 0 rs with
      | some (d, x) => some (handleRec 2 h d x)
      | none => none

/-- The dimensions of a record as four numbers. -/
def dims4 (r : HRec) : List Nat := [dim r 0, dim r 1, dim r 2, dim r 3]

/-- Whether a zero-point record has the dimensions of its operand with dimension `i` divided by the group
(10 R246). -/
def zeroFits (g i : Nat) (q z : HRec) : Bool :=
  z.fmt = 3 && dims4 z = modAt (fun d => ceilDiv d g) i (dims4 q)

/-- The first fault of the handles that an MGO looks up, in the order A, B, ZA, ZB (10 R246). DESIGN CHOICE (log entry 105):
with A from the operand queue there is no A handle that could give ZA's dimensions, and of ZA only its format and its
coordinates are checked. -/
def nestFault (s : State) (c : Shadow) : Option FaultRec :=
  let t := me s
  let p := partOf s s.cur
  let ha := tabField c 0 2
  let hb := tabField c 2 2
  let recOf := fun h => ((handleOf s p h).map Handle.hrec).getD {}
  let fa := if c.queue then none else operandFault s p ha (fun r =>
    r.fmt = nestFmt c && (r.layout = 0 || r.layout = 4) && r.space = 1 && r.tile = tileOf s.cur &&
    extentIn r t.sr.spbase t.sr.spsize) (rangesA c)
  let fb := operandFault s p hb (fun r =>
    r.fmt = nestFmt c && r.layout = 3 && reaches (tileOf s.cur) r && extentIn r t.sr.sbbase t.sr.sbsize) (rangesB c)
  let fza := if !(quantised c) || c.za = 0xFFFF then none else operandFault s p c.za (fun z =>
    reaches (tileOf s.cur) z && if c.queue then z.fmt = 3 else zeroFits (nGroup c) 0 (recOf ha) z) (rangesZA c)
  let fzb := if !(quantised c) || c.zb = 0xFFFF then none else operandFault s p c.zb (fun z =>
    reaches (tileOf s.cur) z && zeroFits (nGroup c) 1 (recOf hb) z) (rangesZB c)
  fa.orElse fun _ => fb.orElse fun _ => fza.orElse fun _ => fzb

/-- The handles a nest refers to (10 R246). -/
def nestRefs (c : Shadow) : List Nat :=
  (if c.queue then [] else [tabField c 0 2]) ++ [tabField c 2 2] ++
  (if quantised c && c.za != 0xFFFF then [c.za] else []) ++ (if quantised c && c.zb != 0xFFFF then [c.zb] else [])

/-! ## Steps (10 R243, R245, R247, R248) -/

/-- The cycles of a step (10 R247). -/
def stepTime (c : Shadow) (fuse : Bool) : Nat :=
  if !fuse then 32 else if c.fmt = 2 then 8 else if c.fmt = 3 then 4 else 16

/-- The bytes of the operand queue that a step consumes (10 R245). -/
def stepBytes_ (c : Shadow) : Nat := nRows c * 32

/-- Whether the next step's data is there: always for an A by handle (10 R245). -/
def stepReady (t : Thread) (c : Shadow) : Bool := !c.queue || decide (stepBytes_ c ≤ t.mq.operand.length)

/-- What reading one element answers: a wait, a fault, or its value (10 R248). -/
abbrev ElemAns := Option (Except FaultRec Nat)

/-- The fault of a nest that an earlier MGO started (19 R423, R424). -/
def nestRec (n : Nest) (code cause addr : Nat) : FaultRec :=
  { code := code, engine := 2, async := true, cmd := n.cmd, prog := n.p, addr := BitVec.ofNat 64 addr
    lo := BitVec.ofNat 64 (cause + n.mpc % 65536 * 65536 + n.cmd.toNat * 2 ^ 32) }

/-- An element read by a nest: resolved when it is performed, local or translated; a page without read permission
reads zero (09 R225, 10 R248, 16 R357). DESIGN CHOICE (log entry 104): where the
entry of a nest that runs has been dropped by a release, of which 09 R229 says nothing, the step takes a handle-bounds fault. -/
def readElem (tid h : Nat) (x : Coord) (n : Nest) (s : State) : ElemAns × State :=
  let p := partOf s tid
  match handleOf s p h with
  | none => (some (.error (nestRec n 2 0 0)), s)
  | some e =>
    if e.away.isSome || converting e x then (none, s)
    else
      let (r, a, hi) := elemAt e x
      let k := elemBytes r.fmt
      if r.space = 1 then
        let t := tile s r.tile
        if poisonedIn t.poison a k then (some (.error (nestRec n 6 0 a)), s)
        else (some (.ok (elemFrom r.fmt hi (readBytes t.mem a k))), s)
      else match tileXlat (tileOf tid) p (thr s tid).id.vf (thr s tid).id.pasid a s with
        | (.miss, s1) => (none, s1)
        | (.refused, s1) => (some (.error (nestRec n 1 2 a)), s1)
        | (.page q rd _, s1) =>
          if !rd then (some (.ok 0), countNres (tileOf tid) p s1)
          else match homeOf s1 p q k with
            | .error c => (some (.error (nestRec n 1 c a)), s1)
            | .ok (.peer _ _) => (some (.error (nestRec n 1 5 a)), s1)
            | .ok hm =>
              let v := homeRead s1 hm k
              if v.2 then (some (.error (nestRec n 6 0 a)), s1) else (some (.ok (elemFrom r.fmt hi v.1)), s1)

/-- Elements read in order: all their values, or the first wait or fault. -/
def readElems (tid h : Nat) (n : Nest) : List Coord → State → Option (Except FaultRec (List Nat)) × State
  | [], s => (some (.ok []), s)
  | x :: rest, s =>
    match readElem tid h x n s with
    | (some (.ok v), s1) =>
      (match readElems tid h n rest s1 with
       | (some (.ok vs), s2) => (some (.ok (v :: vs)), s2)
       | r => r)
    | (some (.error f), s1) => (some (.error f), s1)
    | (none, s1) => (none, s1)

/-- The coordinates of a step: the starting k, m, plane of A and n, plane of B (10 R242). -/
def stepAt (n : Nest) : Nat × Nat × Nat × Nat × Nat × Nat × Nat :=
  let c := n.cfg
  let i := n.p / chunks c
  let k := n.p % chunks c * 16
  let go := fun (start off : Nat) => ((start : Int) + nestSum c i off).toNat
  (go (tabField c 8 4) 2 + k, go (tabField c 12 4) 4, go (tabField c 24 2) 8,
   go (tabField c 16 4) 6, go (tabField c 20 4) 2 + k, go (tabField c 28 2) 10, min 16 (nKext c - k))

/-- The elements of a row of the operand queue: 16, 8 or 4 bits each, packed from byte 0 (10 R245). -/
def queueRow (c : Shadow) (bs : List Byte) (n : Nat) : List Nat :=
  (upFrom 0 n).map fun t => match c.fmt with
    | 2 => field bs t 1
    | 3 => elemFrom 4 (t % 2 == 1) ((bs.drop (t / 2)).take 1)
    | _ => field bs (2 * t) 2

/-- The A rows of a step: by handle, or from the queue (10 R243, R245). -/
def stepA (tid : Nat) (n : Nest) (s : State) : Option (Except FaultRec (List (List Nat))) × State :=
  let c := n.cfg
  let (ka, ma, pa, _, _, _, cnt) := stepAt n
  if c.queue then
    let rows := cut 32 (nRows c) (thr s tid).mq.operand
    (some (.ok (rows.map fun b => queueRow c b cnt)), s)
  else
    let xs := (upFrom ma (nRows c)).flatMap fun m => (upFrom ka cnt).map fun k => ((k, m, pa, tabField c 26 2) : Coord)
    match readElems tid (tabField c 0 2) n xs s with
    | (some (.ok vs), s1) => (some (.ok (cut cnt (nRows c) vs)), s1)
    | (some (.error f), s1) => (some (.error f), s1)
    | (none, s1) => (none, s1)

/-- The B columns of a step (10 R243). -/
def stepB (tid : Nat) (n : Nest) (s : State) : Option (Except FaultRec (List (List Nat))) × State :=
  let c := n.cfg
  let (_, _, _, nb, kb, pb, cnt) := stepAt n
  let xs := (upFrom nb (nCols c)).flatMap fun j => (upFrom kb cnt).map fun k => ((j, k, pb, tabField c 30 2) : Coord)
  match readElems tid (tabField c 2 2) n xs s with
  | (some (.ok vs), s1) => (some (.ok (cut cnt (nCols c) vs)), s1)
  | (some (.error f), s1) => (some (.error f), s1)
  | (none, s1) => (none, s1)

/-- The zero points of the rows of a step; zeros where there are none (10 R243). -/
def stepZA (tid : Nat) (n : Nest) (s : State) : Option (Except FaultRec (List Nat)) × State :=
  let c := n.cfg
  let (ka, ma, pa, _, _, _, _) := stepAt n
  if quantised c && c.za != 0xFFFF then
    readElems tid c.za n ((upFrom ma (nRows c)).map fun m => ((ka / nGroup c, m, pa, tabField c 26 2) : Coord)) s
  else (some (.ok (List.replicate (nRows c) 0)), s)

/-- The zero points of the columns of a step; zeros where there are none (10 R243). -/
def stepZB (tid : Nat) (n : Nest) (s : State) : Option (Except FaultRec (List Nat)) × State :=
  let c := n.cfg
  let (_, _, _, nb, kb, pb, _) := stepAt n
  if quantised c && c.zb != 0xFFFF then
    readElems tid c.zb n ((upFrom nb (nCols c)).map fun j => ((j, kb / nGroup c, pb, tabField c 30 2) : Coord)) s
  else (some (.ok (List.replicate (nCols c) 0)), s)

/-- One accumulator element after a chunk (10 R243). -/
def chunkElem (c : Shadow) (acc : Nat) (x y : List Nat) (za zb : Nat) : Nat :=
  match c.fmt with
  | 0 => exactDot bf16 acc (x.zip y)
  | 1 => exactDot fp16 acc (x.zip y)
  | f =>
    let w := if f = 2 then 256 else 16
    let sum := (x.zip y).foldl (fun a q => a + ((q.1 : Int) - (za % w : Nat)) * ((q.2 : Int) - (zb % w : Nat))) 0
    lowLane ((acc : Int) + sum)

/-- The thread after a chunk has been applied to every element of rows times cols (10 R243). -/
def applyChunk (n : Nest) (xs ys : List (List Nat)) (za zb : List Nat) (t : Thread) : Thread :=
  let set := stepSet n.cfg n.set n.p
  (xs.zip (za.zip (upFrom 0 (nRows n.cfg)))).foldl (fun t a =>
    (ys.zip (zb.zip (upFrom 0 (nCols n.cfg)))).foldl (fun t b =>
      setAcc set a.2.2 b.2.2 (BitVec.ofNat 32
        (chunkElem n.cfg (accOf t set a.2.2 b.2.2).toNat a.1 b.1 a.2.1 b.2.1)) t) t) t

/-- What performing a step answers: a wait, a fault, or the state after it (10 R243, R248). -/
def doStep (tid : Nat) (n : Nest) (s : State) : Option (Except FaultRec State) × State :=
  match stepA tid n s with
  | (some (.ok xs), s1) =>
    (match stepB tid n s1 with
     | (some (.ok ys), s2) =>
       (match stepZA tid n s2 with
        | (some (.ok za), s3) =>
          (match stepZB tid n s3 with
           | (some (.ok zb), s4) => (some (.ok (modThr tid (applyChunk n xs ys za zb) s4)), s4)
           | (some (.error f), s4) => (some (.error f), s4)
           | (none, s4) => (none, s4))
        | (some (.error f), s3) => (some (.error f), s3)
        | (none, s3) => (none, s3))
     | (some (.error f), s2) => (some (.error f), s2)
     | (none, s2) => (none, s2))
  | (some (.error f), s1) => (some (.error f), s1)
  | (none, s1) => (none, s1)

/-- The array of a tile. -/
def arrOf (s : State) (tl : Nat) : ArraySt := (tile s tl).arr

/-- The state with the array of a tile changed. -/
def modArr (tl : Nat) (f : ArraySt → ArraySt) (s : State) : State := modTile tl (fun t => { t with arr := f t.arr }) s

/-- The thread with its active nest changed. -/
def modNest (f : Nest → Nest) (t : Thread) : Thread := { t with nest := t.nest.map f }

/-- A nest lets the array go and keeps its progress (10 R249). -/
def pauseNest (tid : Nat) (s : State) : State :=
  modArr (tileOf tid) (fun a => { a with occupant := none }) (modThr tid (modNest fun n => { n with phase := .paused }) s)

/-- A nest that waits for the array regains it: its next step starts 12 cycles later (10 R247, R249). -/
def regainNest (tid : Nat) (s : State) : State :=
  modArr (tileOf tid) (fun a => { a with occupant := some (ctxOf tid) })
    (modThr tid (modNest fun n => { n with phase := .start, due := cycle s + 12 }) s)

/-- The thread after a step: progress, the queue's bytes consumed, and the next phase (10 R242, R245, R247). -/
def stepDone (cyc : Nat) (fuse : Bool) (t : Thread) : Thread :=
  match t.nest with
  | none => t
  | some n =>
    let mq := if n.cfg.queue then { t.mq with operand := t.mq.operand.drop (stepBytes_ n.cfg) } else t.mq
    let t1 := { t with mq := mq, steps := n.p + 1 }
    let n1 := { n with p := n.p + 1 }
    { t1 with nest := some (
        if n1.p = n1.total then { n1 with phase := .drain, due := cyc + 6 }
        else if stepReady t1 n1.cfg then { n1 with phase := .steps, due := cyc + stepTime n1.cfg fuse }
        else { n1 with phase := .start, due := cyc }) }

/-- The application threads of a tile whose nests wait for the array, unfrozen, with the cycles since which they do. -/
def waitingNests (s : State) (tl : Nat) : List (Nat × Nat) :=
  ((upFrom 0 4).map fun c => tl * 6 + c).filterMap fun tid =>
    match (thr s tid).frz, (thr s tid).nest with
    | none, some n => if n.phase = .paused then some (tid, n.since) else none
    | _, _ => none

/-- Since when the MGO of a tile's matrix engine waits for the array, while it still does (10 R240). -/
def askedSince (s : State) (tl : Nat) : Option Nat :=
  match (arrOf s tl).asked with
  | some (c, n) => if (look ({} : EngArb) (tile s tl).eng 2).owner = some c && canIssue s (tl * 6 + c) 2 then some n else none
  | none => none

/-- The nest that a free array takes up: the one that has waited longest, before an MGO that waits no longer than it
(10 R240; log entry 80). -/
def nextNest (s : State) (tl : Nat) : Option Nat :=
  ((waitingNests s tl).foldl (fun (b : Option (Nat × Nat)) x => match b with
    | none => some x
    | some y => some (if x.2 < y.2 then x else y)) none).bind fun x =>
    if ((askedSince s tl).map fun n => decide (n < x.2)).getD false then none else some x.1

/-- A nest whose thread is frozen lets the array go: at once, but for a step in progress, which ends first (10 R249). -/
def yieldsNow (t : Thread) (n : Nest) : Bool := t.frz.isSome && n.phase != .steps && n.phase != .paused

/-- Event NEST_STEP: the array of tile `a` goes on with its nest when its time has come: it starts a step, performs the
step at its end, drains, or lets go of the array for a frozen thread; a free array takes up a nest that waits for it
(10 R242-R250). A nest that is resumed with no step left drains and is tested again. `credit` gives the sender of
consumed operand-queue bytes its credits back (12 R312). DESIGN CHOICE (log entry 106): a step whose time is up, but which
still waits for a converting block or a translation when its thread freezes, is given up and done again after the freeze. -/
def nestStep (credit : Nat → Nat → State → State) (s : State) : Out :=
  let no : Out := .fault (.notEnabled "NEST_STEP")
  let tl := s.arg.a
  let arr := arrOf s tl
  match arr.occupant with
  | none =>
    (match nextNest s tl with
     | some tid => .next (regainNest tid s)
     | none => no)
  | some ctx =>
    let tid := tl * 6 + ctx
    let t := thr s tid
    match t.nest with
    | none => no
    | some n =>
      if yieldsNow t n then .next (pauseNest tid s)
      else if cycle s < n.due then no
      else match n.phase with
      | .start =>
        if n.p = n.total then .next (modThr tid (modNest fun n => { n with phase := .drain, due := cycle s + 6 }) s)
        else if !(stepReady t n.cfg) then no
        else .next (modThr tid (modNest fun n => { n with phase := .steps, due := cycle s + stepTime n.cfg arr.fuse }) s)
      | .steps =>
        (match doStep tid n s with
          | (some (.ok s1), _) =>
            let s2 := modThr tid (stepDone (cycle s) arr.fuse) s1
            let s3 := if n.cfg.queue then credit tid (stepBytes_ n.cfg) s2 else s2
            .next (if t.frz.isSome then pauseNest tid s3 else s3)
          | (some (.error f), s1) => .next (raise tid f false (pauseNest tid s1))
          | (none, s1) => if t.frz.isSome then .next (pauseNest tid s1) else waiting "NEST_STEP" s s1)
      | .drain => .next (modThr tid (modNest fun n => { n with phase := .test, due := cycle s + 16 }) s)
      | _ => no

/-! ## Self-test, sparing, fencing (10 R251, R252) -/

/-- The column group of a sub-array outside the spare group (10 R237). -/
def groupNo (sub : Nat) : Nat := sub % 8

/-- A column group outside the spare group treated as failing with the spare in use or fenced: the array is disabled where
it would be the fifth group that needs a second pass, and otherwise the group is fenced (10 R251). -/
def fenceGroup (g : Nat) (a : ArraySt) : ArraySt × Nat :=
  if bitOf a.fenced g then ({ a with fuse := false }, 1)
  else if 4 ≤ ones 8 a.fenced then ({ a with off := true }, 3)
  else ({ a with fenced := a.fenced + 2 ^ g, fuse := false }, 1)

/-- The array after a failing sub-array is treated, with the treatment's code (10 R251, 19 R424). -/
def treat (sub : Nat) (a : ArraySt) : ArraySt × Nat :=
  if 32 ≤ sub then
    let a1 := { a with sfail := true }
    if a.spare then ((fenceGroup a.sgrp { a1 with spare := false }).1, 2) else (a1, 2)
  else if !a.spare && !a.sfail then ({ a with spare := true, sgrp := groupNo sub }, 0)
  else fenceGroup (groupNo sub) a

/-- A self-test: of the 36 sub-arrays those that fail are counted and treated in rising number; the first with its
treatment is what a fault reports (10 R251, R252). Which fail comes from outside: `found` with those that an input named
before (log entry 28). -/
def selfTest (found : List Nat) (a : ArraySt) : ArraySt × Option (Nat × Nat) :=
  let subs := (upFrom 0 36).filter fun x => (a.bad.contains x || found.contains x)
  let a0 := { a with tests := satAdd 65535 a.tests 1, bad := [] }
  subs.foldl (fun st x =>
    let (a1, tr) := treat x { st.1 with fails := satAdd 65535 st.1.fails 1 }
    (a1, st.2.orElse fun _ => some (x, tr))) (a0, none)

/-- The nest of a thread is over: its references are released and the array is free (10 R246, R249). -/
def endNest (tid : Nat) (s : State) : State :=
  match (thr s tid).nest with
  | none => s
  | some n =>
    let s1 := n.refs.foldl (fun s h => refHandle (partOf s tid) h false s) s
    let s2 := if (arrOf s1 (tileOf tid)).occupant = some (ctxOf tid) && n.phase != .paused then
        modArr (tileOf tid) (fun a => { a with occupant := none }) s1 else s1
    modThr tid (fun t => { t with nest := none }) s2

/-- Event SELF_TEST: the test after the last step of the nest on tile `a` ends and the nest completes; a failure found
freezes its thread (10 R251, R252). `nums` are sub-arrays that this test finds failing (log entry 28). -/
def execSelfTest (s : State) : Out :=
  let tl := s.arg.a
  match (arrOf s tl).occupant with
  | none => .fault (.notEnabled "SELF_TEST")
  | some ctx =>
    let tid := tl * 6 + ctx
    match (thr s tid).nest with
    | some n =>
      if n.phase = .test && n.due ≤ cycle s && (thr s tid).frz.isNone then
        let (a1, r) := selfTest s.arg.nums (arrOf s tl)
        let s1 := endNest tid (modArr tl (fun _ => a1) s)
        .next (match r with
          | none => s1
          | some (sub, tr) => raise tid
              { code := 8, engine := 2, defer := true, async := true, cmd := n.cmd
                lo := BitVec.ofNat 64 (sub + tr * 256 + n.mpc % 65536 * 65536 + n.cmd.toNat * 2 ^ 32) } false s1)
      else .fault (.notEnabled "SELF_TEST")
    | none => .fault (.notEnabled "SELF_TEST")

/-! ## The M words (10 R254-R262) -/

/-- An M word that acts on the thread at issue and retires `lat` cycles later, 0 for its issue cycle. -/
def mWord (lat : Nat) (tk : Tok) (check : State → Option FaultRec) (f : Thread → Thread) (s : State) : Out :=
  engWord 2 tk (lat = 0) check (fun wid s1 =>
    let s2 := modMe f s1
    if lat = 0 then s2 else addFly { wid := wid, stream := 2, due := cycle s + lat } s2) s

/-- MLNT (10 R255). -/
def execMlnt (g _cls : Nat) (tk : Tok) (s : State) : Out :=
  let a := (gOf (me s) g).toNat
  let tl := tile s (tileOf s.cur)
  mWord 2 tk (fun s => readFault (me s) tl 2 a 128 8)
    (fun t => { t with shadow := { t.shadow with table := readBytes tl.mem a 128, loaded := true } }) s

/-- MCFG (10 R256). -/
def execMcfg (fmt : MFmt) (grp : Nat) (q : Bool) (tk : Tok) (s : State) : Out :=
  mWord 0 tk (fun _ => none) (fun t => { t with shadow := { t.shadow with fmt := fmt.code, grp := grp, queue := q } }) s

/-- MZP (10 R257). -/
def execMzp (g : Nat) (tk : Tok) (s : State) : Out :=
  mWord 0 tk (fun _ => none) (fun t =>
    let v := (gOf t g).toNat
    { t with shadow := { t.shadow with za := bitsOf v 0 16, zb := bitsOf v 16 16 } }) s

/-- Whether a set is one that the thread's active nest may write (10 R260). -/
def setBusy (t : Thread) (a : Nat) : Bool :=
  match t.nest with
  | some n => bitOf (nestSets n.cfg n.set) a
  | none => false

/-- The thread with every element of a set zero (10 R260). -/
def clearSet (a : Nat) (t : Thread) : Thread :=
  { t with e := { t.e with acc := t.e.acc.filter fun p => p.1 / 8192 != a } }

/-- MCLR: it waits while an active nest of the thread may write the set (10 R260). -/
def execMclr (a : Nat) (tk : Tok) (s : State) : Out :=
  if occupied s s.cur && (tokWait (cycle s) (me s) s.strm tk).isNone && setBusy (me s) a then waitBusy s
  else mWord 4 tk (fun _ => none) (clearSet a) s

/-- The array for which the MGO of a context waits from a cycle on (10 R240). -/
def askArray (ctx cyc : Nat) (a : ArraySt) : ArraySt :=
  match a.asked with
  | some (c, _) => if c = ctx then a else { a with asked := some (ctx, cyc) }
  | none => { a with asked := some (ctx, cyc) }

/-- MGO: decoded when every earlier M word of the thread has retired, against the shadow; then it waits for its token
and for the array, looks up its handles, and starts the nest (10 R240, R244, R246, R253, R258). -/
def execMgo (a cls : Nat) (tk : Tok) (s : State) : Out :=
  if !(occupied s s.cur) then .fault .noThread
  else
    let t := me s
    let c := t.shadow
    let (cmd, mpc, _) := posOf t 2
    if !(allRetired t 2) then waitBusy s
    else if nestBad c then illegalAt 8 s
    else if (arrOf s (tileOf s.cur)).off then
      faultAt { code := 8, engine := 2, lo := BitVec.ofNat 64 (3 * 256 + 1024 + mpc % 65536 * 65536 + cmd.toNat * 2 ^ 32) } s
    else match tokWait (cycle s) t s.strm tk with
      | some fl => waitFlag fl s
      | none =>
        if (arrOf s (tileOf s.cur)).occupant.isSome || t.nest.isSome || (nextNest s (tileOf s.cur)).isSome then
          waitBusy (modArr (tileOf s.cur) (askArray (ctxOf s.cur) (cycle s)) s)
        else match nestFault s c with
          | some f => faultAt f s
          | none =>
            let n : Nest :=
              { cfg := c, set := a, total := nestSteps c, cmd := cmd, mpc := mpc, cls := cls, due := cycle s + 12, refs := nestRefs c }
            issueEng 2 tk true (fun _ s1 =>
              let s2 := n.refs.foldl (fun s h => refHandle (partOf s s.cur) h true s) s1
              modArr (tileOf s.cur) (fun x => { x with occupant := some (ctxOf s.cur), asked := none })
                (modMe (fun t => { t with nest := some n, steps := 0, emitRows := nRows c, emitCols := nCols c }) s2)) s

/-- MWAIT: it waits until the thread's nest has completed; a nest that waits for queue data waits on flag 80
(10 R259, 24 R484). -/
def execMwait (tk : Tok) (s : State) : Out :=
  if !(occupied s s.cur) then .fault .noThread
  else match tokWait (cycle s) (me s) s.strm tk with
    | some fl => waitFlag fl s
    | none =>
      match (me s).nest with
      | some n => if n.cfg.queue && n.phase = .start && !(stepReady (me s) n.cfg) then waitFlag 80 s else waitBusy s
      | none => issueEng 2 tk true (fun _ s => s) s

/-- The bytes of an element that MEMIT writes (10 R261). -/
def emitElem (out : Nat) (v : Lane) : List Byte :=
  match out with
  | 1 => toBytes 2 (narrow bf16 v.toNat)
  | 2 => toBytes 2 (narrow fp16 v.toNat)
  | _ => toBytes 4 v.toNat

/-- The bytes per element that MEMIT writes (10 R261). -/
def emitSize (out : Nat) : Nat := if out = 0 then 4 else 2

/-- One cycle of a MEMIT that has begun: up to 256 bytes of its row, from the row's start (10 R261; log entry 81); it
retires with its last row. -/
def emitRow (a out : Nat) (s : State) : State :=
  let t := me s
  let c := callOf s
  let bs := ((upFrom 0 t.emitCols).flatMap fun j => emitElem out (accOf t a c.prog j)).drop c.part
  let s1 := modTile (tileOf s.cur) (storeBytes (bs.take 256) (c.base + c.prog * t.emitCols * emitSize out + c.part)) s
  if 256 < bs.length then modCall (fun c => { c with part := c.part + 256 }) s1
  else if c.prog + 1 < t.emitRows then stepLong (fun c => { c with part := 0 }) s1
  else modMe (retire 2 c.wid) (endLong 2 s1)

/-- MEMIT: the check covers the whole region and is precise; then its rows are written one after another (10 R261). -/
def execMemit (g a out _cls : Nat) (tk : Tok) (s : State) : Out :=
  if !(occupied s s.cur) then .fault .noThread
  else if (callOf s).held then .next (worked (emitRow a out s))
  else match tokWait (cycle s) (me s) s.strm tk with
    | some fl => waitFlag fl s
    | none =>
      let t := me s
      let b := (gOf t g).toNat
      if setBusy t a then waitBusy s
      else match writeFault t 2 b (t.emitRows * t.emitCols * emitSize out) (emitSize out) with
        | some f => faultAt f s
        | none => .next (emitRow a out (beginLong tk b [] [] s))

/-- The end of an MTEST: its test is applied and the array is free (10 R251, R262). -/
def endTest (s : State) : State :=
  let tl := tileOf s.cur
  let a1 := (selfTest [] (arrOf s tl)).1
  modMe (retire 2 (callOf s).wid) (endLong 2 (modArr tl (fun _ => { a1 with occupant := none }) s))

/-- MTEST: it waits until the array is free, holds it for 16 cycles, applies any treatment and retires (10 R262). -/
def execMtest (tk : Tok) (s : State) : Out :=
  if !(occupied s s.cur) then .fault .noThread
  else if (callOf s).held then
    if (callOf s).base ≤ cycle s then .next (worked (endTest s)) else waitBusy s
  else match tokWait (cycle s) (me s) s.strm tk with
    | some fl => waitFlag fl s
    | none =>
      if (arrOf s (tileOf s.cur)).occupant.isSome then waitBusy s
      else .next (modArr (tileOf s.cur) (fun a => { a with occupant := some (ctxOf s.cur) })
        (beginLong tk (cycle s + 16) [] [] s))

/-- MNOP (03 R81). -/
def execMnop (s : State) : Out := engWord 1 {} true (fun _ => none) (fun _ s => s) s

end Sys2Proof.Machine
end

