-- ==== Sys2Proof/Machine/Copies.lean ====
section
/-!
DEFINITION. The copy streamer: copy words, transfer slots, rows, completions and copy tokens (11 R267-R282).
-/
namespace Sys2Proof.Machine

/-! ## The control block (11 R268-R272) -/

/-- A handle-bounds fault of a control block: the offset of the first field that breaks its table (11 R271,
19 R424). -/
def fieldRec (st off r : Nat) : FaultRec :=
  { code := 2, engine := st, lo := BitVec.ofNat 64 (0xFFFF + 2 ^ 18 + off * 2 ^ 24), addr := BitVec.ofNat 64 r }

/-- The copy that a control block describes (11 R268). `kind` is 0 for a copy, 1 for a transposed one, 2 for a fill. -/
def parseCopy (b : List Byte) (st kind k nr cls r : Nat) : Copy :=
  let four := fun off => [field b off 4, field b (off + 4) 4, field b (off + 8) 4, field b (off + 12) 4]
  { stream := st, kind := kind, cls := cls, k := k, nr := nr, cb := BitVec.ofNat 64 r, shnd := field b 0 2,
    dhnd := field b 2 2, bar := field b 4 1, fmt := field b 5 1, laddr := field b 8 8, so := four 16, dst := four 32,
    ext := four 48 }

/-- Whether the source of a copy is a raw region. -/
def rawSrc (c : Copy) : Bool := c.kind != 2 && c.shnd = 0xFFFF

/-- Whether the destination of a copy is a raw region. -/
def rawDst (c : Copy) : Bool := c.dhnd = 0xFFFF

/-- The format of a handle of a partition, if its entry is live. -/
def fmtOfHandle (s : State) (p h : Nat) : Option Nat := (handleOf s p h).map fun e => e.hrec.fmt

/-- Whether two formats that are known differ (11 R271). -/
def differ (x y : Option Nat) : Bool :=
  match x, y with
  | some a, some b => a != b
  | _, _ => false

/-- The offset reported for the first condition that a control block breaks, if it breaks one (11 R271). -/
def blockFault (s : State) (p : Nat) (b : List Byte) (c : Copy) : Option Nat :=
  let fill := c.kind = 2
  let load := c.stream = 3
  if !(zeroAt b 6 2) then some 6
  else if !(if fill then c.shnd = 0xFFFF else c.shnd ≤ 4095 || (!load && c.shnd = 0xFFFF)) then some 0
  else if !(c.dhnd ≤ 4095 || (load && c.dhnd = 0xFFFF)) then some 2
  else if !(c.bar ≤ 7 || c.bar = 0xFF) then some 4
  else if (if rawSrc c || rawDst c then
      5 < c.fmt || (!fill && differ (some c.fmt) (fmtOfHandle s p (if rawSrc c then c.dhnd else c.shnd)))
    else c.fmt != 0 || c.laddr != 0) then some 5
  else if !fill && !(rawSrc c) && !(rawDst c) && differ (fmtOfHandle s p c.shnd) (fmtOfHandle s p c.dhnd) then some 0
  else if rawSrc c && c.so.any (· != 0) then some 16
  else if fill && (c.so.drop 1).any (· != 0) then some 16
  else if rawDst c && c.dst.any (· != 0) then some 32
  else none

/-- An extent of a box. -/
def extOf (c : Copy) (i : Nat) : Nat := c.ext.getD i 0

/-- An extent of the destination box (11 R268). -/
def dstExt (c : Copy) (i : Nat) : Nat :=
  if c.kind = 1 then (if i = 0 then extOf c 1 else if i = 1 then extOf c 0 else extOf c i) else extOf c i

/-- The first coordinate of a box that leaves its handle, as dimension and coordinate (11 R271, 09 R222). -/
def boxBad (r : HRec) (org : List Nat) (ext : Nat → Nat) : Option (Nat × Nat) :=
  rangeBad r 0 ((upFrom 0 4).map fun i => ((org.getD i 0 : Int), (org.getD i 0 : Int) + ext i - 1))

/-- The fault of a handle that a copy looks up, if any: not live, not local where it must be, on another tile, or a
coordinate out of range (09 R222, 11 R271). -/
def sideFault (s : State) (p st h : Nat) (local_ : Bool) (org : List Nat) (ext : Nat → Nat) : Option FaultRec :=
  match handleOf s p h with
  | none => some (handleRec st h 0 0)
  | some e =>
    if (local_ && e.hrec.space != 1) || !(reaches (tileOf s.cur) e.hrec) then some (handleRec st h 0 0)
    else (boxBad e.hrec org ext).map fun x => handleRec st h x.1 x.2

/-- The bits of an element of a copy (11 R272, R273). -/
def copyBits (s : State) (p : Nat) (c : Copy) : Nat :=
  if rawSrc c || rawDst c then elemBits c.fmt
  else match handleOf s p c.dhnd with
    | some e => elemBits e.hrec.fmt
    | none => 32

/-- The elements of a box. -/
def boxElems (c : Copy) : Nat := extOf c 0 * extOf c 1 * extOf c 2 * extOf c 3

/-- The fault of the raw region of a copy, if it has one (11 R272, 19 R424). -/
def rawFault (t : Thread) (c : Copy) : Option FaultRec :=
  if rawSrc c || rawDst c then
    let eb := elemBits c.fmt
    (writeFault t c.stream c.laddr (ceilDiv (boxElems c * eb) 8) (max 1 (eb / 8))).map fun f => { f with lo := f.lo ||| 0x100 }
  else none

/-- The fault of a nonzero-extent copy, found before it issues; its address is the control block's (11 R270). -/
def copyFault (s : State) (p : Nat) (c : Copy) : Option FaultRec :=
  let fs := if c.kind = 2 || rawSrc c then none
    else sideFault s p c.stream c.shnd (c.stream = 4) c.so (extOf c)
  let fd := if rawDst c then none else sideFault s p c.stream c.dhnd (c.stream = 3) c.dst (dstExt c)
  ((fs.orElse fun _ => fd.orElse fun _ => rawFault (me s) c)).map fun f => { f with addr := c.cb }

/-- The handles a copy refers to. -/
def copyRefs (c : Copy) : List Nat :=
  (if c.kind = 2 || rawSrc c then [] else [c.shnd]) ++ (if rawDst c then [] else [c.dhnd])

/-! ## The copy words (11 R269, R270, R278) -/

/-- Rows of a copy (11 R274). -/
def rowCount (c : Copy) : Nat := extOf c 1 * extOf c 2 * extOf c 3

/-- Whether a copy of a stream still has slots to issue: its queue's next word waits for them (04 R110). -/
def copyIssuing (t : Thread) (st : Nat) : Bool := t.copies.any fun c => c.stream = st && !c.issued

/-- The log records of a copy: one for each 64 rows, where it has a residency predicate (24 R493; log entry 30). -/
def copyLogs (c : Copy) : Nat := if c.nr = 0 || c.kind = 2 then 0 else (rowCount c + 63) / 64

/-- The log places that a recording copy takes at its issue, to be filled at its completion; `n` of them. -/
def takeLogs (tid kind st : Nat) : Nat → State → List Nat × State
  | 0, s => ([], s)
  | n + 1, s =>
    let (a, s1) := logPut tid kind st 0 s
    let (l, s2) := takeLogs tid kind st n s1
    (a :: l, s2)

/-- The records that a replaying copy takes at its issue, or none where it diverges (24 R494, R495). -/
def takeRecords (tid kind st : Nat) : Nat → State → Option (List Word) × State
  | 0, s => (some [], s)
  | n + 1, s =>
    match logTake tid kind st s with
    | (none, s1) => (none, s1)
    | (some v, s1) =>
      match takeRecords tid kind st n s1 with
      | (some l, s2) => (some (v :: l), s2)
      | (none, s2) => (none, s2)

/-- A copy begins: its token is busy and its handles are referred to (11 R270, R279). -/
def startCopy (c : Copy) (s : State) : State :=
  let n := copyLogs c
  let (c1, s1) : Copy × State := match recMode (me s) with
    | 1 => let (l, s1) := takeLogs s.cur 2 c.stream n s; ({ c with logs := l }, s1)
    | 2 => let (l, s1) := takeRecords s.cur 2 c.stream n s; ({ c with forced := if n = 0 then none else l }, s1)
    | _ => (c, s)
  let s2 := c1.refs.foldl (fun s h => refHandle (partOf s s.cur) h true s) s1
  modMe (fun t => setK c.k .busy { t with copies := t.copies ++ [c1] }) s2

/-- A copy word of a stream and kind (11 R269-R272, R278). -/
def copyWord (kind g k nr cls : Nat) (tk : Tok) (s : State) : Out :=
  if !(occupied s s.cur) then .fault .noThread
  else if copyIssuing (me s) s.strm then waitBusy s
  else match tokWait (cycle s) (me s) s.strm tk with
  | some fl => waitFlag fl s
  | none =>
    let t := me s
    let tl := tile s (tileOf s.cur)
    let r := (gOf t g).toNat
    let p := t.id.part
    if kOf t k = .busy then waitFlag (64 + k) s
    else match readFault t tl s.strm r 64 8 with
    | some f => faultAt { f with addr := BitVec.ofNat 64 r } s
    | none =>
      let b := readBytes tl.mem r 64
      let c := parseCopy b s.strm kind k nr cls r
      let go := fun (retired : Bool) (f : Nat → State → State) =>
        issueEng 2 tk retired (fun wid s1 =>
          f wid (traceMem s.cur s.strm 3 (here s).1 (here s).2 r 64 cls false s1)) s
      match blockFault s p b c with
      | some off => faultAt (fieldRec s.strm off r) s
      | none =>
        if boxElems c = 0 then
          go true (fun _ s1 =>
            if c.bar = 0xFF then modMe (setK k .done) s1
            else modMe (fun t => setK k .busy { t with copies := t.copies ++ [{ c with issued := true, arrived := true }] }) s1)
        else match copyFault s p c with
        | some f => faultAt f s
        | none =>
          if logFull s s.cur (copyLogs c) then waitBusy s
          else
            let (cmd, mpc, _) := posOf t s.strm
            go false (fun wid s1 => startCopy { c with cmd := cmd, mpc := mpc, wid := wid, refs := copyRefs c } s1)

/-- LDC (11 R269). -/
def execLdc (g k nr cls : Nat) (tk : Tok) (s : State) : Out := copyWord 0 g k nr cls tk s

/-- LDT (11 R269). -/
def execLdt (g k nr cls : Nat) (tk : Tok) (s : State) : Out := copyWord 1 g k nr cls tk s

/-- LFILL (11 R269, R273). -/
def execLfill (g k cls : Nat) (tk : Tok) (s : State) : Out := copyWord 2 g k 0 cls tk s

/-- STC (11 R269). -/
def execStc (g k cls : Nat) (tk : Tok) (s : State) : Out := copyWord 0 g k 0 cls tk s

/-- STT (11 R269). -/
def execStt (g k cls : Nat) (tk : Tok) (s : State) : Out := copyWord 1 g k 0 cls tk s

/-- SFILL (11 R269, R273). -/
def execSfill (g k cls : Nat) (tk : Tok) (s : State) : Out := copyWord 2 g k 0 cls tk s

/-- The lowest-numbered busy token that a mask names (11 R280, 24 R484). -/
def busyToken (t : Thread) (mask : Nat) : Option Nat := (upFrom 0 8).find? fun n => bitOf mask n && kOf t n = .busy

/-- KWAIT: it waits until no named token is busy, and makes them idle. The writes of their copies have performed, so its
acquire has nothing left to order (11 R280, R281). -/
def execKwait (mask : Nat) (tk : Tok) (s : State) : Out :=
  if !(occupied s s.cur) then .fault .noThread
  else if copyIssuing (me s) s.strm then waitBusy s
  else match tokWait (cycle s) (me s) s.strm tk with
  | some fl => waitFlag fl s
  | none =>
    match busyToken (me s) mask with
    | some n => waitFlag (64 + n) s
    | none => issueEng 2 tk true (fun _ s1 =>
        modMe (fun t => (upFrom 0 8).foldl (fun t n => if bitOf mask n then setK n .idle t else t) t) s1) s

/-- A one-halfword word of the streamer that only issues, after the copy before it has issued (03 R81, 04 R110). -/
def copyNop (s : State) : Out :=
  if occupied s s.cur && copyIssuing (me s) s.strm then waitBusy s
  else engWord 1 {} true (fun _ => none) (fun _ s => s) s

/-- LNOP (03 R81). -/
def execLnop (s : State) : Out := copyNop s

/-- SNOP (03 R81). -/
def execSnop (s : State) : Out := copyNop s

/-! ## Elements (11 R267, R272-R275) -/

/-- The source coordinates of element `x0` of row `r`, counted within the box (11 R274). -/
def boxCoord (c : Copy) (r x0 : Nat) : Nat × Nat × Nat × Nat :=
  (x0, r % extOf c 1, r / extOf c 1 % extOf c 2, r / (extOf c 1 * extOf c 2))

/-- The same element in the destination box (11 R268). -/
def dstCoord (c : Copy) (r x0 : Nat) : Nat × Nat × Nat × Nat :=
  let x := boxCoord c r x0
  if c.kind = 1 then (x.2.1, x.1, x.2.2.1, x.2.2.2) else x

/-- The element number of a coordinate in row-major order of some extents (11 R267). -/
def rawLin (ext : Nat → Nat) (x : Nat × Nat × Nat × Nat) : Nat :=
  x.1 + ext 0 * (x.2.1 + ext 1 * (x.2.2.1 + ext 2 * x.2.2.2))

/-- A coordinate moved by an origin. -/
def shift (org : List Nat) (x : Nat × Nat × Nat × Nat) : Coord :=
  (org.getD 0 0 + x.1, org.getD 1 0 + x.2.1, org.getD 2 0 + x.2.2.1, org.getD 3 0 + x.2.2.2)

/-- Where an element of one side of a copy lies: the tile of local storage or none for virtual storage, its address,
and its nibble; none where the access waits: its block is converting, or the entry's storage belongs to a saved team
(09 R225, 11 R272, 19 R440). DESIGN CHOICE (log entry 104): so does an access of a copy in flight whose entry a release has
dropped, of which 09 R229 says nothing. -/
def sideAt (s : State) (tid : Nat) (raw : Bool) (c : Copy) (h lin : Nat) (x : Coord) :
    Option (Option Nat × Nat × Bool) :=
  if raw then some (some (tileOf tid), c.laddr + lin * elemBits c.fmt / 8, lin % 2 == 1)
  else match handleOf s (partOf s tid) h with
    | none => none
    | some e =>
      if e.away.isSome || converting e x then none
      else
        let (r, a, hi) := elemAt e x
        some (if r.space = 1 then some r.tile else none, a, hi)

/-- An element as it is read: its value, whether it is poisoned, whether it reads zero for want of a resident page, whether
a peer brings it, and its place in HBM, where it lies there. -/
abbrev ReadElem := Nat × Bool × Bool × Bool × List (Nat × Nat)

/-- What reading one source element answers: it waits, the cause and address of a fault, or the element. -/
abbrev ReadAns := Option (Except (Nat × Nat) ReadElem)

/-- One source element read (11 R274, R275; 16 R355, R357). `fmt` is the element's format; `forced` is what a replay
says of its row (24 R494). A read of a peer's window asks the peer. DESIGN CHOICE (log entry 112): each element that a page
that is not resident answers by zero is a read of sr.xlstat's nres; 16 R378 does not say what one read of a copy is. -/
def readSource (tid i fmt : Nat) (c : Copy) (forced : Option Bool) (x0 : Nat) (s : State) : ReadAns × State :=
  let x := boxCoord c c.row x0
  let n := elemBytes fmt
  match sideAt s tid (rawSrc c) c c.shnd (rawLin (extOf c) x) (shift c.so x) with
  | none => (none, s)
  | some (some tl, a, hi) =>
    let t := tile s tl
    (some (.ok (elemFrom fmt hi (readBytes t.mem a n), poisonedIn t.poison a n, false, false, [])), s)
  | some (none, a, hi) =>
    let id := (thr s tid).id
    if forced = some true then (some (.ok (0, false, true, false, [])), s)
    else match tileXlat (tileOf tid) id.part id.vf id.pasid a s with
    | (.miss, s1) => (none, s1)
    | (.refused, s1) => (some (.error (2, a)), s1)
    | (.page q r _, s1) =>
      if !r then
        if forced = some false then
          let d := dieOf (tileOf tid)
          if batchRoom (die s1 d) || pagePending (die s1 d) id.pasid (a / 4096) then
            (none, enterPage d { vf := id.vf, part := id.part, pasid := id.pasid, page := a / 4096, w := false } s1)
          else (none, s1)
        else (some (.ok (0, false, true, false, [])), countNres (tileOf tid) id.part s1)
      else match homeOf s1 id.part q n with
        | .error cause => (some (.error (cause, a)), s1)
        | .ok (.peer m pa) => (some (.ok (hi.toNat, false, false, true, [])), emit (.rowOut m tid i pa n false [] [] 0) s1)
        | .ok h =>
          let v := homeRead s1 h n
          (some (.ok (elemFrom fmt hi v.1, v.2, false, false, hbmPlace h n)), s1)

/-- The elements of a slot read in order, from element `x0`, `n` of them. -/
def readSlot (tid i fmt : Nat) (c : Copy) (forced : Option Bool) :
    Nat → Nat → State → Option (Except (Nat × Nat) (List ReadElem)) × State
  | _, 0, s => (some (.ok []), s)
  | x0, n + 1, s =>
    match readSource tid i fmt c forced x0 s with
    | (some (.ok v), s1) =>
      (match readSlot tid i fmt c forced (x0 + 1) n s1 with
       | (some (.ok l), s2) => (some (.ok (v :: l)), s2)
       | r => r)
    | (some (.error f), s1) => (some (.error f), s1)
    | (none, s1) => (none, s1)

/-- A piece of a row to write: the unit it goes to (0 a tile, 1 HBM, 2 host memory, 3 a peer) with its number, its
address there, its bytes, the words that its data poisons, the address at which the copy finds it, and the nibbles at
its ends that it leaves as they are: 1 for the low one of its first byte, 2 for the high one of its last. -/
abbrev Piece := (Nat × Nat) × Nat × List Byte × List Nat × Nat × Nat

/-- The unit and address of a home. -/
def unitOf : Home → (Nat × Nat) × Nat
  | .hbm o => ((1, 0), o)
  | .host a => ((2, 0), a)
  | .peer m pa => ((3, m), pa)
  | .got _ _ => ((4, 0), 0)

/-- The bytes that a unit of this module or the host holds at an address. -/
def unitRead (s : State) (u : Nat × Nat) (a n : Nat) : List Byte :=
  if u.1 = 0 then readBytes (tile s u.2).mem a n
  else if u.1 = 1 then hbmBytes s a n
  else if u.1 = 2 then hostRead s a n
  else List.replicate n 0

/-- One element joined to the pieces of its row, the last piece first: an element that follows the piece before it in
the same unit goes on with that piece (11 R274). -/
def joinElem (s : State) (fmt : Nat) (u : Nat × Nat) (a va : Nat) (hi : Bool) (v : Nat) (bad : Bool)
    (l : List Piece) : List Piece :=
  let n := elemBytes fmt
  let ws := if bad then wordsOf a n else []
  let fresh := fun (old : List Byte) => elemInto fmt hi old v
  let low := if fmt = 4 && !hi then 2 else 0
  let alone : Piece := (u, a, fresh (unitRead s u a n), ws, va, if fmt = 4 && hi then 1 else low)
  match l with
  | (u', a', bs, bw, va', half) :: rest =>
    if u' = u && half < 2 && a' + bs.length = a && !(fmt = 4 && hi) then
      (u, a', bs ++ fresh (unitRead s u a n), bw ++ ws, va', half + low) :: rest
    else if u' = u && fmt = 4 && hi && a' + bs.length = a + 1 then
      (u, a', bs.take (bs.length - 1) ++ fresh (bs.drop (bs.length - 1)), bw ++ ws, va', half % 2) :: rest
    else alone :: l
  | [] => [alone]

/-- The state after a piece is written (11 R274, R275). -/
def writePiece (tid i p : Nat) (q : Piece) (s : State) : State :=
  let (u, a, bs, bw, _, half) := q
  if u.1 = 0 then modTile u.2 (storeRun (bs.map some) a bw.contains) s
  else if u.1 = 1 then homeWrite p (.hbm a) bw.contains (bs.map some) s
  else if u.1 = 2 then homeWrite p (.host a) bw.contains (bs.map some) s
  else emit (.rowOut u.2 tid i a bs.length true bs bw half) s

/-- The pieces of a row's elements from place `x0` on, or the place's answer that stops it with its page
(11 R274, R275). -/
def rowPieces (tid fmt : Nat) (c : Copy) (row : Nat) :
    Nat → List (Nat × Bool) → List Piece → State → Except (Nat × Nat) (List Piece) × State
  | _, [], l, s => (.ok l, s)
  | x0, (v, bad) :: rest, l, s =>
    let x := dstCoord c row x0
    match sideAt s tid (rawDst c) c c.dhnd (rawLin (dstExt c) x) (shift c.dst x) with
    | none => (.error (onTheWay, 0), s)
    | some (some tl, a, hi) => rowPieces tid fmt c row (x0 + 1) rest (joinElem s fmt (0, tl) a a hi v bad l) s
    | some (none, a, hi) =>
      match tileWrite tid a (elemBytes fmt) s with
      | (.error e, s1) => (.error (e, a), s1)
      | (.ok h, s1) =>
        let (u, o) := unitOf h
        rowPieces tid fmt c row (x0 + 1) rest (joinElem s1 fmt u o a hi v bad l) s1

/-- The state with copy `i` of a thread changed. -/
def modCopy (tid i : Nat) (f : Copy → Copy) (s : State) : State :=
  modThr tid (fun t => { t with copies := modAt f i t.copies }) s

/-- The format of the elements of a copy. -/
def copyFmt (s : State) (p : Nat) (c : Copy) : Nat :=
  if rawSrc c || rawDst c then c.fmt else ((handleOf s p c.dhnd).map fun e => e.hrec.fmt).getD 0

/-- The access-permission fault of a copy that stops before a row: it names the copy word (11 R275, 19 R423, R424). -/
def copyRec (c : Copy) (row cause a : Nat) : FaultRec :=
  { code := 1, engine := c.stream, async := true, cmd := c.cmd, prog := row, addr := BitVec.ofNat 64 a
    lo := BitVec.ofNat 64 (cause + c.mpc % 65536 * 65536 + c.cmd.toNat * 2 ^ 32) }

/-- A row that a copy has stopped before, as it waits on: only what a peer still brings for it. -/
def goneRow (w : RowWait) : List RowWait := if w.peers.isEmpty then [] else [{ w with vals := [], gone := true }]

/-- The first row that a copy waits to write, by its place: one that is not gone. -/
def firstRow (c : Copy) : Option Nat := placeOf (fun (w : RowWait) => !w.gone) 0 c.resp

/-- A copy that has stopped before row `row`: the rows below it are still written, and it will reissue the row and those
after it whole; what a peer still brings for those is discarded (11 R275). -/
def stopBefore (row : Nat) (c : Copy) : Copy :=
  let resp := c.resp.flatMap (fun w => if w.row < row then [w] else goneRow w) ++ goneRow c.buf
  { c with
    stopped := true, row := row, slot := 0, buf := {}, resp := resp, issued := false
    nonres := c.nonres.filter fun r => decide (r < row)
    held := if resp.all RowWait.gone then 0 else c.held }

/-- A copy stops before row `row` at an access-permission fault, unless it has stopped there or before (11 R275). The copy
of a killed thread is abandoned, without a fault, once what it has under way is written (R282). -/
def stopCopy (tid i row cause a : Nat) (c : Copy) (s : State) : State :=
  if c.stopped && c.row ≤ row then s
  else
    let s1 := modCopy tid i (stopBefore row) (if (stopBefore row c).held = c.held then s else leaveHold tid c.held s)
    if (thr s tid).dying then s1 else raise tid (copyRec c row cause a) false s1

/-- The state of a row that waits: it asks peers for nothing until all of it can be read (11 R274). -/
def unsent (s s1 : State) : State := sentOnly (fun m => !(isRowOut m)) s s1

/-- The writes of a whole row dispatched by copy `i`, after which the copy goes on as `f` says (11 R274, R275). A row that
lacks a further page after the response for the first requests that page and keeps its hold (16 R355, R358). -/
def dispatchRow (name : String) (tid i : Nat) (c : Copy) (w : RowWait) (f : Copy → Copy) (s : State) : Out :=
  let p := partOf s tid
  match rowPieces tid (copyFmt s p c) c w.row 0 w.vals [] s with
  | (.ok l, s1) =>
    let s2 := l.reverse.foldl (fun s q => writePiece tid i p q s) s1
    let acks := (l.reverse.filter fun q => q.1.1 = 3).map fun q => (w.row, q.2.2.2.2.1)
    .next (modCopy tid i (fun c => f { c with acks := c.acks ++ acks, held := 0 }) (leaveHold tid c.held s2))
  | (.error (e, a), s1) =>
    if e = onTheWay then waiting name s (onlyAsked s s1)
    else if e = noPermission || e = migrating then
      let held := if c.held = 3 && c.page != a / 4096 then 2 else c.held
      match holdAccess tid held e (a / 4096) (onlyAsked s s1) with
      | .ok (h, s2) => .next (modCopy tid i (fun c => { c with held := h, page := a / 4096 }) s2)
      | .error 3 => .next (stopCopy tid i w.row 3 a c (onlyAsked s s1))
      | .error _ => .fault (.notEnabled name)
    else .next (stopCopy tid i w.row e a c (onlyAsked s s1))

/-! ## Transfer slots (11 R274, R281) -/

/-- The bytes of a row of a copy (11 R274). -/
def rowBytes (bits : Nat) (c : Copy) : Nat := ceilDiv (extOf c 0 * bits) 8

/-- The slots of a row of a copy (11 R274). -/
def rowSlots (bits : Nat) (c : Copy) : Nat := ceilDiv (rowBytes bits c) 256 * (if c.kind = 1 then 2 else 1)

/-- The elements that a slot carries. -/
def slotElems (bits : Nat) (c : Copy) : Nat := (if c.kind = 1 then 1024 else 2048) / bits

/-- Whether an earlier copy of the same stream holds a copy back: a copy of its class, or with either class 15, that has
not completed (11 R281). -/
def heldBack (t : Thread) (i : Nat) (c : Copy) : Bool :=
  (t.copies.take i).any fun o => o.stream = c.stream && !o.arrived && (o.cls = c.cls || o.cls = 15 || c.cls = 15)

/-- What a replay says of a row: whether it reads non-resident (24 R494). -/
def rowForced (c : Copy) (row : Nat) : Option Bool := c.forced.map fun l => (l.getD (row / 64) 0).getLsbD (row % 64)

/-- The copy after a row's slots have all issued; the word retires after the last row (11 R274). -/
def rowIssued (c : Copy) : Copy :=
  { c with row := c.row + 1, slot := 0, buf := {}, issued := decide (rowCount c ≤ c.row + 1) }

/-- The thread after a copy's last slot has issued, where it has: its word has retired (11 R274). -/
def retireCopy (tid i : Nat) (s : State) : State :=
  match (thr s tid).copies[i]? with
  | some c => if c.issued then modThr tid (retire c.stream c.wid) s else s
  | none => s

/-- Event TRANSFER_SLOT: copy `b` of thread `a` issues its next slot: it reads the slot's elements; the last slot of a
row from local storage, and of a fill, dispatches the row's writes, and a row from virtual storage, or with elements that
a relayout has moved to a peer's window, waits for its data, as do the rows after it (11 R273-R275, R281). A row is read wholly before it is written (R281). -/
def execTransferSlot (s : State) : Out :=
  let tid := s.arg.a
  let i := s.arg.b
  let t := thr s tid
  let p := t.id.part
  let no : Out := .fault (.notEnabled "TRANSFER_SLOT")
  match t.copies[i]? with
  | none => no
  | some c =>
    if c.issued || c.stopped || c.held = 1 || heldBack t i c then no
    else
      let bits := copyBits s p c
      let fmt := copyFmt s p c
      let last := decide (rowSlots bits c ≤ c.slot + 1)
      let x0 := min (c.slot * slotElems bits c) (extOf c 0)
      let n := min (slotElems bits c) (extOf c 0 - x0)
      let filled := fun (o : Out) => match o with
        | .next s1 => .next (retireCopy tid i s1)
        | o => o
      if c.kind = 2 then
        if !last then .next (modCopy tid i (fun c => { c with slot := c.slot + 1 }) s)
        else filled (dispatchRow "TRANSFER_SLOT" tid i c
          { row := c.row, vals := List.replicate (extOf c 0) (c.so.getD 0 0, false) } rowIssued s)
      else match readSlot tid i fmt c (rowForced c c.row) x0 n s with
        | (none, s1) => waiting "TRANSFER_SLOT" s (onlyAsked s (unsent s s1))
        | (some (.error (cause, a)), s1) => .next (stopCopy tid i c.row cause a c (unsent s s1))
        | (some (.ok l), s0) =>
          let s1 := countReads p (l.flatMap fun v => v.2.2.2.2) s0
          let w : RowWait := { row := c.row, vals := c.buf.vals ++ l.map (fun v => (v.1, v.2.1))
                               peers := c.buf.peers ++ ((l.zip (upFrom x0 n)).filter fun e => e.1.2.2.2.1).map Prod.snd }
          let nonres := if l.any (fun v => v.2.2.1) then addNat c.row c.nonres else c.nonres
          if !last then .next (modCopy tid i (fun c => { c with slot := c.slot + 1, buf := w, nonres := nonres }) s1)
          else if c.stream = 3 || !w.peers.isEmpty || !c.resp.isEmpty then
            .next (retireCopy tid i (modCopy tid i (fun c =>
              rowIssued { c with nonres := nonres, resp := c.resp ++ [w] }) s1))
          else filled (dispatchRow "TRANSFER_SLOT" tid i c w (fun c => rowIssued { c with nonres := nonres }) s1)

/-- A row whose peer elements have come: their values in order, each with its own poison (17 R382). -/
def fillPeers (fmt : Nat) (bad : Bool) (ps : List Nat) (vs l : List (Nat × Bool)) : List (Nat × Bool) :=
  (ps.zip vs).foldl (fun l e =>
    modAt (fun old => (elemFrom fmt (old.1 == 1) (toBytes (elemBytes fmt) e.2.1), bad || e.2.2)) e.1 l) l

/-- The bytes of an element that a peer brings as the stored payload `b` of its block in `mode`, and whether they are poisoned:
the streamer decodes the block, and one that does not decode is poisoned. A block that is stored raw brings the element's
bytes alone (16 R374, R375; 17 R382). -/
def elemOfBlock (n a mode : Nat) (b : List Byte) : List Byte × Bool :=
  if mode = 0 then (padTo n b, false)
  else match decodeBlock mode b with
    | some x => ((x.drop (a % 256)).take n, false)
    | none => (List.replicate n 0, true)

/-- The elements at some addresses that a peer brings as stored blocks, each with its mode and its length in `bs`
(17 R382). -/
def elemsOfBlocks (n : Nat) : List Nat → List (Nat × Nat) → List Byte → List (Nat × Bool)
  | a :: rest, (mode, k) :: more, bs =>
    let x := elemOfBlock n a mode (bs.take k)
    (leNat x.1, x.2) :: elemsOfBlocks n rest more (bs.drop k)
  | _, _, _ => []

/-- The addresses of the elements that a row waits for a peer to bring. -/
def peerAddrs (s : State) (tid : Nat) (c : Copy) (w : RowWait) : List Nat :=
  w.peers.map fun x0 =>
    let x := boxCoord c w.row x0
    match sideAt s tid (rawSrc c) c c.shnd (rawLin (extOf c) x) (shift c.so x) with
    | some (_, a, _) => a
    | none => 0

/-- A peer's acknowledgement of the write in place `j` of those that copy `i` waits for: a refusal, with its cause,
stops the copy before the row of that write (11 R275, 17 R382). -/
def ackRow (tid i j cause : Nat) (c : Copy) (s : State) : Out :=
  match c.acks[j]? with
  | none => .fault (.notEnabled "ROW_RESPONSE")
  | some (row, va) =>
    let s1 := modCopy tid i (fun c => { c with acks := dropAt j c.acks }) s
    .next (if cause = 0 then s1 else stopCopy tid i row cause va c s1)

/-- What a peer brings for the oldest row of copy `i` that waits for one: its elements, as they are or as the stored blocks
that `blocks` gives with their bytes, or a refusal with its cause. What it brings for a row that is gone is discarded
(11 R275, 17 R382). -/
def peerRow (tid i cause : Nat) (bad : Bool) (vs : List Nat) (blocks : List (Nat × Nat)) (bs : List Byte) (c : Copy) (s : State) :
    Out :=
  match placeOf (fun (w : RowWait) => !w.peers.isEmpty) 0 c.resp with
  | none => .fault (.notEnabled "ROW_RESPONSE")
  | some j =>
    let w := c.resp.getD j {}
    let fmt := copyFmt s (partOf s tid) c
    let els := if blocks.isEmpty then vs.map fun v => (v, false) else elemsOfBlocks (elemBytes fmt) (peerAddrs s tid c w) blocks bs
    if w.gone then .next (modCopy tid i (fun c => { c with resp := dropAt j c.resp }) s)
    else if cause != 0 then
      let c1 := { c with resp := modAt (fun w => { w with peers := [] }) j c.resp }
      .next (stopCopy tid i w.row cause ((peerAddrs s tid c w).headD 0) c1 (modCopy tid i (fun _ => c1) s))
    else if els.length != w.peers.length then .fault (.notEnabled "ROW_RESPONSE")
    else
      let w1 : RowWait := { row := w.row, vals := fillPeers fmt bad w.peers els w.vals }
      .next (modCopy tid i (fun c => { c with resp := modAt (fun _ => w1) j c.resp }) s)

/-- The oldest waiting row of copy `i` is written, once its data has all come (11 R274). -/
def waitingRow (tid i : Nat) (c : Copy) (s : State) : Out :=
  match firstRow c with
  | none => .fault (.notEnabled "ROW_RESPONSE")
  | some j =>
    let w := c.resp.getD j {}
    if c.held = 1 || !w.peers.isEmpty then .fault (.notEnabled "ROW_RESPONSE")
    else dispatchRow "ROW_RESPONSE" tid i c w (fun c => { c with resp := dropAt j c.resp }) s

/-! ## What peers answer to units of the hub (17 R382) -/

/-- A peer's answer to the read in place `j` of those that units of the hub wait for: its bytes with their poison, or a
refusal with its cause. -/
def hubAnswer (j cause : Nat) (bad : Bool) (bs : List Byte) (s : State) : Out :=
  match s.hub.asked[j]? with
  | none => .fault (.notEnabled "ROW_RESPONSE")
  | some x =>
    if cause = 0 && bs.length != x.size then .fault (.notEnabled "ROW_RESPONSE")
    else .next { s with hub := { s.hub with asked := dropAt j s.hub.asked, got := s.hub.got ++ [(x, bs, bad, cause)] } }

/-- Whether the unit of the hub that made an access is still at it: it takes note of a refusal. -/
def unitLives (s : State) (x : HubAccess) : Bool :=
  match x.unit with
  | .other => false
  | .relay h o => (handleOf s x.part h).any fun e => !e.failed && (match e.conv with | some c => c.order = o | none => false)
  | .mig n => (part s x.part).migs.any fun m => m.num = n && m.sent
  | .run f g _ => (find (part s x.part).colls f).any fun c => c.open_ && c.gen = g

/-- A peer's acknowledgement of the write in place `j` of those that units of the hub wait for; a refusal, with its
cause, stands until the unit takes note of it. -/
def hubAck (j cause : Nat) (s : State) : Out :=
  match s.hub.wrote[j]? with
  | none => .fault (.notEnabled "ROW_RESPONSE")
  | some x =>
    if x.cause != 0 then .fault (.notEnabled "ROW_RESPONSE")
    else
      let left := if cause != 0 && unitLives s x then modAt (fun (x : HubAccess) => { x with cause := cause }) j s.hub.wrote
        else dropAt j s.hub.wrote
      .next { s with hub := { s.hub with wrote := left } }

/-- Event ROW_RESPONSE: the read data of the oldest waiting row of copy `b` of thread `a` has come, and the row's writes
are dispatched (11 R274). Data from a peer module is an input: `nums` are the elements read there, or `pairs` are the
modes and lengths of the stored blocks that hold them, whose payloads stand one after another in `bytes`, `flag` says that
they are poisoned, and `c` is the cause of a fault where the peer refuses; with `d` 1 it is a peer's acknowledgement of
the write in place `e` of those that the copy waits for, with `d` 2 its answer `bytes` to the read in place `e` of
those that units of the hub have asked for, and with `d` 3 its acknowledgement of the write in place `e` of theirs
(17 R382). -/
def execRowResponse (s : State) : Out :=
  let tid := s.arg.a
  let i := s.arg.b
  if s.arg.d = 2 then hubAnswer s.arg.e s.arg.c s.arg.flag s.arg.bytes s
  else if s.arg.d = 3 then hubAck s.arg.e s.arg.c s
  else match (thr s tid).copies[i]? with
  | none => .fault (.notEnabled "ROW_RESPONSE")
  | some c =>
    if s.arg.d = 1 then ackRow tid i s.arg.e s.arg.c c s
    else if s.arg.c != 0 || !s.arg.nums.isEmpty || !s.arg.pairs.isEmpty then
      peerRow tid i s.arg.c s.arg.flag s.arg.nums s.arg.pairs s.arg.bytes c s
    else waitingRow tid i c s

/-! ## Completion (11 R274, R276, R277) -/

/-- The residency bits of rows `64 j` to `64 j + 63`, or all rows folded modulo 64 where `j` is none (11 R276). -/
def resBits (c : Copy) (j : Option Nat) : Word :=
  maskOf fun n => c.nonres.any fun r => r % 64 == n && (match j with | some q => r / 64 == q | none => true)

/-- The state after a copy has written its residency bits and its log records (11 R276, 24 R493). -/
def writeResidency (tid : Nat) (c : Copy) (s : State) : State :=
  let s1 := (c.logs.zip (upFrom 0 c.logs.length)).foldl (fun s e => logFill e.1 (resBits c (some e.2)) s) s
  if c.nr = 0 || c.kind = 2 || (thr s tid).dying then s1
  else writeP tid 3 c.nr (maskOf fun n => decide (n < rowCount c)) (resBits c none) c.mpc c.cmd.toNat s1

/-- The references of a copy are released (09 R222, 11 R274). -/
def unrefCopy (p : Nat) (c : Copy) (s : State) : State := c.refs.foldl (fun s h => refHandle p h false s) s

/-- The copy's token is done and the copy is no more (11 R279). -/
def endCopy (tid i : Nat) (c : Copy) (s : State) : State :=
  modThr tid (fun t => setK c.k .done { t with copies := dropAt i t.copies }) s

/-- Event COPY_COMPLETION: every write of copy `b` of thread `a` has performed. It writes the residency bits and releases
its handles; then its arrival at the barrier it names is made, when no arrival of the thread is outstanding there, and
its token is done (11 R274, R276, R277). A copy of a killed thread that has stopped at a fault is abandoned once nothing
of it is under way (R282). -/
def execCopyCompletion (s : State) : Out :=
  let tid := s.arg.a
  let i := s.arg.b
  let t := thr s tid
  match t.copies[i]? with
  | none => .fault (.notEnabled "COPY_COMPLETION")
  | some c =>
    if !c.resp.isEmpty || !c.acks.isEmpty then .fault (.notEnabled "COPY_COMPLETION")
    else if t.dying && c.stopped then
      .next (modThr tid (fun t => { t with copies := dropAt i t.copies }) (unrefCopy t.id.part c s))
    else if !c.issued || c.stopped then .fault (.notEnabled "COPY_COMPLETION")
    else
      let free := c.bar = 0xFF || t.dying || !(arrivedAt t c.bar)
      if c.arrived && !free then .fault (.notEnabled "COPY_COMPLETION")
      else
        let s1 := if c.arrived then s
          else modCopy tid i (fun c => { c with arrived := true, refs := [] })
            (unrefCopy t.id.part c (writeResidency tid c s))
        if !free then .next s1
        else .next (endCopy tid i c (if c.bar = 0xFF || t.dying then s1 else arriveBar tid c.bar s1))

end Sys2Proof.Machine
end

