-- ==== Sys2Proof/Machine/Routers.lean ====
section
/-!
DEFINITION. Routers: routes, lookups, the actions of flow entries, and the delivery of packets (12 R283-R308, R316).
-/
namespace Sys2Proof.Machine

/-! ## Routes (12 R304) -/

/-- The neighbours of a router on its die, in the order lower column, lower row, higher column, higher row. -/
def neighbours (t : Nat) : List Nat :=
  (if colNo t = 0 then [] else [t - 1]) ++ (if rowNo t = 0 then [] else [t - 12]) ++
  (if colNo t = 11 then [] else [t + 1]) ++ (if rowNo t = 11 then [] else [t + 12])

/-- The tile positions of a die. -/
def dieTiles (d : Nat) : List Nat := upFrom (d * 144) 144

/-- Whether every router of a die is enabled. -/
def wholeDie (s : State) (d : Nat) : Bool := (dieTiles d).all (enabled s)

/-- The next hop on a whole die: along the row to the destination's column, then along the column. -/
def hopXY (t d : Nat) : Nat :=
  if colNo t < colNo d then t + 1 else if colNo d < colNo t then t - 1
  else if rowNo t < rowNo d then t + 12 else t - 12

/-- The routers of a die in layers of equal distance from those of the first layer; `fuel` bounds the layers. -/
def layers (s : State) : Nat → List Nat → List Nat → List (List Nat)
  | 0, _, _ => []
  | _ + 1, _, [] => []
  | fuel + 1, seen, now =>
    let next := now.foldl (fun l t =>
      l ++ (neighbours t).filter fun x => enabled s x && !(seen.contains x) && !(l.contains x)) []
    now :: layers s fuel (seen ++ next) next

/-- The distance of each router of a die from the root of its spanning tree, as layers. -/
def rootLayers (s : State) (d : Nat) : List (List Nat) :=
  match (dieTiles d).find? (enabled s) with
  | some r => layers s 144 [r] [r]
  | none => []

/-- The distance of a router from the root. -/
def distOf (ls : List (List Nat)) (t : Nat) : Nat := (placeOf (fun l => l.contains t) 0 ls).getD 0

/-- Whether the hop from `a` to `b` is up. -/
def upHop (ls : List (List Nat)) (a b : Nat) : Bool :=
  decide (distOf ls b < distOf ls a) || (distOf ls b = distOf ls a && decide (b < a))

/-- The legal hops of an up*/down* route from a router; `down` says that a down hop has been taken. -/
def legalHops (s : State) (ls : List (List Nat)) (x : Nat × Bool) : List (Nat × Bool) :=
  ((neighbours x.1).filter (enabled s)).filterMap fun y =>
    if upHop ls x.1 y then (if x.2 then none else some (y, false)) else some (y, true)

/-- The hops left from every place of a die to a destination, as layers; `fuel` bounds them. -/
def backLayers (s : State) (ls : List (List Nat)) (all : List (Nat × Bool)) :
    Nat → List (Nat × Bool) → List (Nat × Bool) → List (List (Nat × Bool))
  | 0, _, _ => []
  | _ + 1, _, [] => []
  | fuel + 1, seen, now =>
    let next := all.filter fun x => !(seen.contains x) && (legalHops s ls x).any now.contains
    now :: backLayers s ls all fuel (seen ++ next) next

/-- The first of the shortest routes: at each place the first hop that leads to the next layer. -/
def walk (s : State) (ls : List (List Nat)) : List (List (Nat × Bool)) → Nat × Bool → List Nat
  | [], x => [x.1]
  | l :: rest, x =>
    match (legalHops s ls x).find? l.contains with
    | some y => x.1 :: walk s ls rest y
    | none => [x.1]

/-- The up*/down* route between two routers of a die. -/
def upDown (s : State) (a b : Nat) : List Nat :=
  let ls := rootLayers s (dieOf a)
  let all := ((dieTiles (dieOf a)).filter (enabled s)).flatMap fun t => [(t, false), (t, true)]
  let bs := backLayers s ls all 288 [(b, false), (b, true)] [(b, false), (b, true)]
  match placeOf (fun l => l.contains (a, false)) 0 bs with
  | some k => walk s ls ((bs.take k).reverse) (a, false)
  | none => [a]

/-- The next hop from router `t` toward router `d` of the same die, on the route that starts at `org`. -/
def nextHop (s : State) (org t d : Nat) : Nat :=
  if wholeDie s (dieOf t) then hopXY t d
  else
    let r := upDown s org d
    match placeOf (· == t) 0 r with
    | some i => r.getD (i + 1) d
    | none => (upDown s t d).getD 1 d

/-- The row-11 router by which traffic of a column leaves or enters a die: that of the column, or of the nearest column
whose row-11 router is enabled on every die crossed, the lower where two are equally near. -/
def edgeCol (s : State) (dies : List Nat) (col : Nat) : Nat :=
  ((upFrom 0 12).flatMap fun k => [col - k, col + k]).find? (fun c =>
    decide (c < 12) && dies.all fun d => enabled s (d * 144 + 132 + c)) |>.getD col

/-- The routers of the route between two routers of a die. -/
def routeLen (s : State) (a b : Nat) : Nat :=
  if wholeDie s (dieOf a) then (rowNo a - rowNo b) + (rowNo b - rowNo a) + (colNo a - colNo b) + (colNo b - colNo a) + 1
  else (upDown s a b).length

/-- The greatest of some numbers. -/
def greatest (l : List Nat) : Nat := l.foldl max 0

/-- The largest number of routers on any route of the module: 35 on a whole one, from a corner of a die along a row and down
a column, and up that column of another die (12 R304; 23 R479). -/
def longestRoute (s : State) : Nat :=
  if (upFrom 0 4).all (wholeDie s) then 35
  else
    let on := fun (d : Nat) => (dieTiles d).filter (enabled s)
    let within := greatest ((upFrom 0 4).map fun d => greatest ((on d).map fun a => greatest ((on d).map (routeLen s a))))
    let across := fun (d e c : Nat) =>
      let k := 132 + edgeCol s [d, e] c
      greatest ((on d).map fun a => routeLen s a (d * 144 + k)) +
        greatest (((on e).filter fun b => colNo b = c).map fun b => routeLen s (e * 144 + k) b)
    greatest (within :: (upFrom 0 4).flatMap fun d => (upFrom 0 4).flatMap fun e =>
      if d = e then [] else (upFrom 0 12).map (across d e))

/-! ## Packets -/

/-- A number for a packet, beside the numbers of threads, among the accesses that may use a translation. -/
def packetNo (p : Packet) : Nat := 3456 + p.src * 6 + p.sctx

/-- The bits of a multicast packet's vector that are set. -/
def mcastBits (p : Packet) : List Nat := (upFrom 0 64).filter (bitOf p.dv)

/-- The tile that bit `n` of a window names (12 R290). -/
def windowTile (origin n : Nat) : Nat := origin + n / 8 * 12 + n % 8

/-- Whether bit `n` of a window is valid (12 R290). -/
def windowBit (origin n : Nat) : Bool := decide (rowNo origin + n / 8 ≤ 11) && decide (colNo origin + n % 8 ≤ 11)

/-- Whether a tile is enabled and in a partition. -/
def inPart (s : State) (p tl : Nat) : Bool := enabled s tl && (part s p).cfg.quads.contains (quadOf tl)

/-- The state with packet `i` changed. -/
def modPacket (i : Nat) (f : Packet → Packet) (s : State) : State := { s with packets := modAt f i s.packets }

/-- The state without packet `i`. -/
def dropPacket (i : Nat) (s : State) : State := { s with packets := dropAt i s.packets }

/-- The state with packets after those already under way. -/
def addPackets (l : List Packet) (s : State) : State := { s with packets := s.packets ++ l }

/-- The link number by which packets enter a router from their own tile's context. -/
def portLink (ctx : Nat) : Nat := 1000 + ctx

/-- The link number of packets that a router's action makes. -/
def actionLink : Nat := 2000

/-- The link number of the flits that an action has yet to make. -/
def unitLink : Nat := 2001

/-- The link number of the hub. -/
def hubLink : Nat := 3000

/-- Where a packet at router `t` goes on to, by one hop toward router `d`. -/
def hopTo (s : State) (p : Packet) (t d : Nat) : Packet :=
  { p with loc := .router (nextHop s p.org t d), link := t, fresh := false, due := s.clock.now + 3 }

/-- A packet leaves its die for the hub (12 R306). -/
def toHub (s : State) (p : Packet) (t : Nat) : Packet :=
  { p with loc := .hub, link := t, fresh := false, due := s.clock.now + 8 }

/-- A packet is handed to its destination tile: its data flits follow its head, and a receive queue takes them as they come
(12 R291, R306). -/
def toTile (s : State) (p : Packet) (t : Nat) : Packet :=
  { p with loc := .tile t, link := t, fresh := false, due := s.clock.now + (if p.dkind = 0 then 1 else p.len) }

/-- A packet bound for a tile moves on from router `t` (12 R304). -/
def goTile (s : State) (p : Packet) (t d : Nat) : Packet :=
  if t = d then toTile s p t
  else if dieOf t = dieOf d then hopTo s p t d
  else
    let e := dieOf t * 144 + 132 + edgeCol s [dieOf t, dieOf d] (colNo d)
    if t = e then toHub s p t else hopTo s p t e

/-- A packet bound for the hub moves on from router `t` (12 R304). -/
def goHub (s : State) (p : Packet) (t : Nat) : Packet :=
  let e := dieOf t * 144 + 132 + edgeCol s [dieOf t] (colNo p.src)
  if t = e then toHub s p t else hopTo s p t e

/-- The copies of a multicast packet that go on from router `t`: one for each next hop, with its own bits, and one
delivered here (12 R290). -/
def splitMcast (s : State) (p : Packet) (t : Nat) : List Packet :=
  let one := fun n => goTile s { p with dv := 2 ^ n } t (windowTile p.dtile n)
  (mcastBits p).foldl (fun l n =>
    let q := one n
    if l.any fun x => x.loc = q.loc then l.map fun x => if x.loc = q.loc then { x with dv := x.dv + 2 ^ n } else x
    else l ++ [q]) []

/-- The packets that go on from router `t`, and how many named tiles of another partition are discarded on the way
(12 R307). -/
def moveOn (s : State) (p : Packet) (t : Nat) : List Packet × Nat :=
  if p.dkind = 3 then ([goHub s p t], 0)
  else if p.mcast then
    let ok := (mcastBits p).filter fun n => inPart s p.part (windowTile p.dtile n)
    (splitMcast s { p with dv := ok.foldl (fun m n => m + 2 ^ n) 0 } t, (mcastBits p).length - ok.length)
  else if inPart s p.part p.dtile then ([goTile s p t p.dtile], 0)
  else ([], 1)

/-! ## Elements of flits (12 R292, R298) -/

/-- The floating format of a wire format code; INT32 takes FP32's place, unused. -/
def wireFmt (wf : Nat) : FloatFmt := if wf = 0 then bf16 else if wf = 1 then fp16 else fp32

/-- The bytes of an element of a wire format. -/
def wireBytes (wf : Nat) : Nat := if wf ≤ 1 then 2 else 4

/-- The elements of a flit. -/
def elemsOf (wf : Nat) (b : List Byte) : List Nat := (cut (wireBytes wf) 64 b).map leNat

/-- The bytes of elements. -/
def bytesOf (wf : Nat) (l : List Nat) : List Byte := l.flatMap (toBytes (wireBytes wf))

/-- leaf of a reduction (12 R298). -/
def leafOp (op wf : Nat) (x : Nat) : Nat := if wf = 3 || 3 ≤ op then x else leafF (wireFmt wf) x

/-- node of a reduction (12 R298): op 0 add, 1 max, 2 min, 3 or, 4 and. -/
def nodeOp (op wf : Nat) (x y : Nat) : Nat :=
  match op with
  | 0 => nodeAdd (wireFmt wf) x y
  | 3 => x ||| y
  | 4 => x &&& y
  | _ => if wf = 3 then pickLanes (op = 1) [x, y] else nodeMM (wireFmt wf) (op = 1) x y

/-- Each element of each flit changed by a function. -/
def mapFlits (wf : Nat) (f : Nat → Nat) (l : List Flit) : List Flit :=
  l.map fun x => { x with bytes := bytesOf wf ((elemsOf wf x.bytes).map f) }

/-- Two lists of flits combined element by element; poison carries. -/
def zipFlits (wf : Nat) (f : Nat → Nat → Nat) (l m : List Flit) : List Flit :=
  (l.zip m).map fun p =>
    { bytes := bytesOf wf (((elemsOf wf p.1.bytes).zip (elemsOf wf p.2.bytes)).map fun e => f e.1 e.2)
      poison := p.1.poison || p.2.poison }

/-- The flits of a packet whose elements are given over all flits, with the poison of the input's flits. -/
def reflit (wf : Nat) (vs : List Nat) (l : List Flit) : List Flit :=
  ((cut (64 / wireBytes wf) (l.length + 1) vs).zip l).map fun p => { bytes := bytesOf wf p.1, poison := p.2.poison }

/-! ## Tree nodes (06 R168, 12 R297) -/

/-- Whether [a, b) is a node of the tree over [lo, hi); `fuel` bounds the depth. -/
def isNodeIn : Nat → Nat → Nat → Nat → Nat → Bool
  | 0, _, _, _, _ => false
  | fuel + 1, lo, hi, a, b =>
    if a = lo && b = hi then true
    else if hi - lo < 2 then false
    else
      let m := lo + splitOf (hi - lo)
      if b ≤ m then isNodeIn fuel lo m a b else if m ≤ a then isNodeIn fuel m hi a b else false

/-- Whether [a, b) is a node of tree(n) (12 R297). -/
def isNode (n a b : Nat) : Bool := decide (a < b) && isNodeIn 16 0 n a b

/-- Whether two spans are the children of one node of tree(n), the lower first. -/
def siblings (n : Nat) (x y : NodeVal) : Bool :=
  x.hi = y.lo && isNode n x.lo y.hi && x.lo + splitOf (y.hi - x.lo) = x.hi

/-- The values of a sequence after every node whose children are held has been evaluated, and the number evaluated;
`fuel` bounds the nodes (12 R298). -/
def evalNodes (op wf n : Nat) : Nat → List NodeVal → List NodeVal × Nat
  | 0, vs => (vs, 0)
  | fuel + 1, vs =>
    match (vs.flatMap fun x => vs.map fun y => (x, y)).find? (fun p => siblings n p.1 p.2) with
    | none => (vs, 0)
    | some (x, y) =>
      let v : NodeVal := { x with hi := y.hi, flits := zipFlits wf (nodeOp op wf) x.flits y.flits }
      let (r, k) := evalNodes op wf n fuel (v :: vs.filter fun z => z != x && z != y)
      (r, k + 1)

/-! ## Packets that actions make (12 R295, R303) -/

/-- A packet that an entry at router `t` makes from an input, to the entry's output destination; its input has paid for
the router (12 R306). -/
def outPacket (s : State) (e : FRec) (p : Packet) (t : Nat) (lo hi : Nat) (data : List Flit) : Packet :=
  { p with flow := e.id, gen := e.gen, src := t, sctx := 0xFF, dkind := e.okind % 4, mcast := bitOf e.okind 2, q := e.oq,
           dctx := e.octx, dtile := e.otile, addr := if e.action = 7 then 0 else e.oaddr, dv := e.odv, flag := e.oflag,
           rlo := lo, rhi := hi, err := false, data := data, loc := .router t, link := actionLink, org := t,
           due := s.clock.now, fresh := true, byRouter := true, tr := [], held := 0, entered := 0, cmd := 0, mpc := 0,
           behind := [(.router t, unitLink, data.length)] }

/-- Whether an entry has an output (12 R292). -/
def hasOutput (e : FRec) : Bool := !(e.action = 3 && e.otile = 0xFFFF)

/-- The data of an error packet (12 R303). -/
def zeroFlits (n : Nat) : List Flit := List.replicate n { bytes := List.replicate 64 0 }

/-- A flow entry's key. -/
def flowKey (router flow : Nat) : Nat := router * 65536 + flow

/-- A partition's entry for a flow at a router. -/
def entryAt (s : State) (p router flow : Nat) : Option FlowEntry := find (part s p).flows (flowKey router flow)

/-- The state with an entry changed. -/
def modEntry (p router flow : Nat) (f : FlowEntry → FlowEntry) (s : State) : State :=
  modPart p (fun pt => { pt with flows := adjust (flowKey router flow) f pt.flows }) s

/-- The state after an entry sends its output packets. -/
def sendOut (t : Nat) (e : FRec) (l : List Packet) (s : State) : State :=
  modEntry ((l.headD {}).part) t e.id (fun x => { x with done := x.done + BitVec.ofNat 32 l.length }) (addPackets l s)

/-- The state after an entry makes an error packet of an input: it goes to the output destination, and for SCAN to the
input's source; it is counted, and where it cannot be sent counted as undeliverable. Its head is a copy of the input's but
for err and the destination (12 R299, R303; log entry 19). -/
def sendError (t : Nat) (e : FRec) (p : Packet) (s : State) : State :=
  let s1 := modCount t p.part (fun c => { c with error := satAdd 65535 c.error 1 })
    (modEntry p.part t e.id (fun x => { x with error := x.error + 1 }) s)
  let lost := modCount t p.part (fun c => { c with undeliv := satAdd 65535 c.undeliv 1 }) s1
  let q := { outPacket s e p t p.rlo p.rhi (zeroFlits p.len) with flow := p.flow, gen := p.gen, src := p.src, sctx := p.sctx, err := true }
  if e.action = 4 then
    if p.sctx = 0xFF then lost
    else addPackets [{ q with dkind := 0, mcast := false, q := e.oq, dctx := p.sctx, dtile := p.src, made := true,
                              addr := 0, dv := 0, flag := 0 }] s1
  else if hasOutput e then addPackets [{ q with made := e.action = 1 }] s1
  else lost

/-- The state after a packet is discarded as late (12 R295, R301). -/
def dropLate (t : Nat) (e : FRec) (p : Packet) (s : State) : State :=
  modCount t p.part (fun c => { c with late := satAdd 65535 c.late 1 })
    (modEntry p.part t e.id (fun x => { x with late := x.late + 1 }) s)

/-! ## Actions (12 R296-R302) -/

/-- The sequences a COMBINE or SCAN entry may hold open (12 R293). -/
def openLimit (e : FRec) : Nat := e.akib * 1024 / ((e.shi - e.slo) * e.len * 64)

/-- The sequences an entry holds open. -/
def openSeqs (x : FlowEntry) : List (BitVec 32) :=
  x.vals.foldl (fun l v => if l.contains v.seq then l else l ++ [v.seq]) []

/-- The values an entry holds for a sequence. -/
def valsOf (x : FlowEntry) (q : BitVec 32) : List NodeVal := x.vals.filter fun v => v.seq == q

/-- Whether a span overlaps a value held (12 R298). -/
def overlaps (l : List NodeVal) (a b : Nat) : Bool := l.any fun v => decide (v.lo < b) && decide (a < v.hi)

/-- Whether a sequence must wait to be opened (12 R297). -/
def mustWait (x : FlowEntry) (q : BitVec 32) : Bool :=
  !((openSeqs x).contains q) && decide (openLimit x.frec ≤ (openSeqs x).length)

/-- The value that a packet brings to a COMBINE or SCAN entry. -/
def valueOf (p : Packet) (f : Nat → Nat) (wf : Nat) : NodeVal :=
  { seq := p.seq, lo := p.rlo, hi := p.rhi, src := p.src, sctx := p.sctx, flits := mapFlits wf f p.data }

/-- The network cycles that evaluating nodes takes (12 R298). -/
def nodeTime (wf len k : Nat) : Nat := k * len * (if wf ≤ 1 then 2 else 1)

/-- COMBINE: none where the packet waits for a sequence to be opened (12 R298). DESIGN CHOICE (log entry 107): of the inputs
of a sequence the one that completes it gives the output its class; 12 R295 does not say which does. -/
def actCombine (t : Nat) (x : FlowEntry) (p : Packet) (s : State) : Option State :=
  let e := x.frec
  if !(isNode e.n p.rlo p.rhi) || p.len != e.len || overlaps (valsOf x p.seq) p.rlo p.rhi then some (sendError t e p s)
  else if mustWait x p.seq then none
  else
    let (vs, k) := evalNodes e.op e.wf e.n 4096 (valueOf p (leafOp e.op e.wf) e.wf :: valsOf x p.seq)
    let rest := x.vals.filter fun v => v.seq != p.seq
    match vs.find? fun v => v.lo = e.slo && v.hi = e.shi with
    | some v =>
      let q := { outPacket s e p t e.slo e.shi v.flits with made := true, due := s.clock.now + nodeTime e.wf e.len k }
      some (sendOut t e [q] (modEntry p.part t e.id (fun x => { x with vals := rest }) s))
    | none => some (modEntry p.part t e.id (fun x => { x with vals := vs ++ rest }) s)

/-- The span value of a SCAN over the values of ranks `slo` to `r`, in rank order (12 R299). -/
def scanValue (e : FRec) (l : List NodeVal) : List Flit :=
  let per := l.map fun v => v.flits.flatMap fun f => elemsOf e.wf f.bytes
  let n := e.len * 64 / wireBytes e.wf
  let vs := (upFrom 0 n).map fun i =>
    treeFold (leafOp e.op e.wf) (nodeOp e.op e.wf) 0 (l.length + 1) (per.map fun r => r.getD i 0)
  let bad := (upFrom 0 e.len).map fun k => l.any fun v => (v.flits.getD k {}).poison
  ((cut (64 / wireBytes e.wf) (e.len + 1) vs).zip bad).map fun q => { bytes := bytesOf e.wf q.1, poison := q.2 }

/-- The outputs of a SCAN whose ranks have all arrived, in rising rank; an output to an input that an action made is
counted as undeliverable (12 R299). -/
def scanOut (t : Nat) (e : FRec) (p : Packet) (l : List NodeVal) (s : State) : State :=
  (upFrom 0 l.length).foldl (fun s i =>
    let v := l.getD i {}
    if v.sctx = 0xFF then modCount t p.part (fun c => { c with undeliv := satAdd 65535 c.undeliv 1 }) s
    else
      let q := outPacket s e p t e.slo (v.lo + 1) (scanValue e (l.take (i + 1)))
      sendOut t e [{ q with dkind := 0, mcast := false, q := e.oq, dctx := v.sctx, dtile := v.src, made := true,
                            addr := 0, dv := 0, flag := 0 }] s) s

/-- A value put in its place by rank. -/
def insertRank (v : NodeVal) : List NodeVal → List NodeVal
  | [] => [v]
  | x :: rest => if v.lo < x.lo then v :: x :: rest else x :: insertRank v rest

/-- SCAN: none where the packet waits for a sequence to be opened (12 R299). -/
def actScan (t : Nat) (x : FlowEntry) (p : Packet) (s : State) : Option State :=
  let e := x.frec
  if p.rhi != p.rlo + 1 || p.len != e.len || overlaps (valsOf x p.seq) p.rlo p.rhi then some (sendError t e p s)
  else if mustWait x p.seq then none
  else
    let vs := insertRank (valueOf p (fun y => y) e.wf) (valsOf x p.seq)
    let rest := x.vals.filter fun v => v.seq != p.seq
    if vs.length = e.shi - e.slo then
      some (scanOut t e p vs (modEntry p.part t e.id (fun x => { x with vals := rest }) s))
    else some (modEntry p.part t e.id (fun x => { x with vals := vs ++ rest }) s)

/-- The flits of a group of eight transposed in blocks of 8 bytes (12 R296). -/
def transpose8 (l : List Flit) : List Flit :=
  (upFrom 0 8).map fun c =>
    { bytes := (l.take 8).flatMap fun f => (f.bytes.drop (8 * c)).take 8, poison := (l.take 8).any fun f => f.poison }

/-- The data of a TRANSPOSE output. -/
def transposeAll (l : List Flit) : List Flit := (cut 8 8 l).flatMap transpose8

/-- The flits of a packet with the poison of what its entry combines them with as well. -/
def carry (bad : Nat → Bool) (l : List Flit) : List Flit :=
  (l.zip (upFrom 0 l.length)).map fun f => { f.1 with poison := f.1.poison || bad f.2 }

/-- TRANSPOSE: none while the entry is at another packet. Its output's head, of no span, leaves so that no flit is sent
before the eighth input flit of its group has come, one in each network cycle (12 R295, R296, R300; log entry 116). -/
def actTranspose (t : Nat) (x : FlowEntry) (p : Packet) (s : State) : Option State :=
  let e := x.frec
  if s.clock.now < x.busy then none
  else if p.len != e.len then some (sendError t e p s)
  else
    let q := { outPacket s e p t 0 0 (transposeAll p.data) with due := s.clock.now + 7 }
    some (sendOut t e [q] (modEntry p.part t e.id (fun x => { x with busy := s.clock.now + p.len }) s))

/-- A NORMALISE output from a held value, or an error packet (12 R301). -/
def normOut (t : Nat) (e h : FRec) (held : List Flit) (p : Packet) (s : State) : State :=
  let xs := p.data.flatMap fun f => elemsOf e.wf f.bytes
  let hs := held.flatMap fun f => elemsOf e.wf f.bytes
  if p.len != e.len || (bitOf e.param.toNat 0 && decide (h.len * 64 / wireBytes e.wf < xs.length)) then sendError t e p s
  else
    let vs := (xs.zip (upFrom 0 xs.length)).map fun q =>
      let y := classify fp32 (widen (wireFmt e.wf) (hs.getD (if bitOf e.param.toNat 0 then q.2 else 0) 0))
      let x := classify fp32 (widen (wireFmt e.wf) q.1)
      narrow (wireFmt e.wf) (roundTo fp32 (if e.op = 0 then exactSum [x, negF y] else quot x y))
    let bad := fun k => (held.getD (if bitOf e.param.toNat 0 then k else 0) {}).poison
    sendOut t e [outPacket s e p t p.rlo p.rhi (reflit e.wf vs (carry bad p.data))] s

/-- NORMALISE: none where the packet must wait and the entry can hold no more (12 R301). -/
def actNormalise (t : Nat) (x : FlowEntry) (p : Packet) (s : State) : Option State :=
  let e := x.frec
  match entryAt s p.part t e.hflow with
  | some y =>
    if y.frec.action != 3 then some (sendError t e p s)
    else if p.len != e.len then some (sendError t e p s)
    else match y.hold with
      | some (q, held) =>
        if q = p.seq then some (normOut t e y.frec held p s)
        else if p.seq.ult q then some (dropLate t e p s)
        else if x.wait.length < 64 then some (modEntry p.part t e.id (fun x => { x with wait := x.wait ++ [p] }) s)
        else none
      | none =>
        if x.wait.length < 64 then some (modEntry p.part t e.id (fun x => { x with wait := x.wait ++ [p] }) s) else none
  | none => some (sendError t e p s)

/-- The NORMALISE entries of a partition at a router that name a HOLD flow. -/
def followers (s : State) (p t hflow : Nat) : List FlowEntry :=
  ((part s p).flows.filter fun x => x.1 / 65536 = t && x.2.frec.action = 6 && x.2.frec.hflow = hflow).map Prod.snd

/-- The state after the packets that wait for a HOLD entry's value have met its new value (12 R301). -/
def wakeNormalise (p t : Nat) (h : FRec) (q : BitVec 32) (held : List Flit) (s : State) : State :=
  (followers s p t h.id).foldl (fun s x =>
    x.wait.foldl (fun s w =>
      if w.seq = q then normOut t x.frec h held w s
      else if w.seq.ult q then dropLate t x.frec w s
      else modEntry p t x.frec.id (fun y => { y with wait := y.wait ++ [w] }) s)
      (modEntry p t x.frec.id (fun y => { y with wait := [] }) s)) s

/-- The state after the packets that wait for a deleted HOLD entry's value have become error packets (12 R301,
R314). -/
def failNormalise (p t hflow : Nat) (s : State) : State :=
  (followers s p t hflow).foldl (fun s x =>
    x.wait.foldl (fun s w => sendError t x.frec w s) (modEntry p t x.frec.id (fun y => { y with wait := [] }) s)) s

/-- HOLD (12 R296). -/
def actHold (t : Nat) (x : FlowEntry) (p : Packet) (s : State) : State :=
  let e := x.frec
  if p.len != e.len then sendError t e p s
  else
    let s1 := wakeNormalise p.part t e p.seq p.data (modEntry p.part t e.id (fun x => { x with hold := some (p.seq, p.data) }) s)
    if hasOutput e then sendOut t e [outPacket s1 e p t p.rlo p.rhi p.data] s1 else s1

/-- The thread of a partition on a tile whose allocation holds a range (12 R294, R302). -/
def ownerOf (s : State) (p t a n : Nat) : Option Nat :=
  ((upFrom 0 4).map fun c => t * 6 + c).find? fun tid =>
    match find s.threads tid with
    | some th => th.id.part = p && !th.dying && inAlloc th a n
    | none => false

/-- One master parameter and its output after an update (12 R302). -/
def updateElem_ (e : FRec) (w0 x : Nat) : Nat × Nat :=
  let w := classify fp32 w0
  let g := classify fp32 (widen (wireFmt e.wf) x)
  let r := classify fp32 (bitsOf e.param.toNat 0 32)
  let l := classify fp32 (bitsOf e.param.toNat 32 32)
  let ts := [w, negF (prod r g)] ++ (if e.op = 1 then [negF (prod (prod r l) w)] else [])
  let v := roundTo fp32 (exactSum ts)
  (v, narrow (wireFmt e.wf) v)

/-- UPDATE: one store writes the masters in rising order. A poisoned flit, and a poisoned master, poison what comes of
them (12 R302; 08 R202). -/
def actUpdate (t : Nat) (x : FlowEntry) (p : Packet) (s : State) : State :=
  let e := x.frec
  let xs := p.data.flatMap fun f => elemsOf e.wf f.bytes
  let per := 64 / wireBytes e.wf
  let badElem := fun i => (p.data.getD (i / per) {}).poison || poisonedIn (tile s t).poison (e.oaddr + 4 * i) 4
  if p.len != e.len || !(p.rlo = 0 && p.rhi = e.n) || (ownerOf s p.part t e.oaddr (4 * xs.length)).isNone then
    sendError t e p s
  else
    let r := (xs.zip (upFrom 0 xs.length)).map fun q =>
      updateElem_ e (leNat (readBytes (tile s t).mem (e.oaddr + 4 * q.2) 4)) q.1
    let ids := upFrom 0 r.length
    let badWord := fun w => ids.any fun i => (e.oaddr + 4 * i) / 8 * 8 = w && badElem i
    let s1 := modTile t (storeRun (r.flatMap fun q => (toBytes 4 q.1).map some) e.oaddr badWord) s
    let bad := fun k => ids.any fun i => i / per = k && badElem i
    let q := outPacket s1 e p t 0 e.n (reflit e.wf (r.map Prod.snd) (carry bad p.data))
    sendOut t e [{ q with flow := e.hflow }] s1

/-- The action of an entry on a packet that hits it; none where the packet must wait on its link (12 R295). -/
def actOn (t : Nat) (x : FlowEntry) (p : Packet) (s : State) : Option State :=
  let e := x.frec
  match e.action with
  | 1 => actCombine t x p s
  | 3 => some (actHold t x p s)
  | 4 => actScan t x p s
  | 5 => actTranspose t x p s
  | 6 => actNormalise t x p s
  | 7 => some (actUpdate t x p s)
  | _ => some (sendOut t e [outPacket s e p t p.rlo p.rhi p.data] s)

/-! ## Lookup (12 R295, R305, R307) -/

/-- The flits of a packet that have yet to follow its head. -/
def behindCount (p : Packet) : Nat := (p.behind.map fun x => x.2.2).foldl (· + ·) 0

/-- The flits of a packet that are where its head is, the head with them, and have not been delivered. -/
def hereCount (p : Packet) : Nat := 1 + p.len - p.entered - behindCount p

/-- Whether flits of another packet hold a place on a link before packet `i`: those of an earlier packet there, or those
that follow a head that has gone on (12 R305). -/
def linkBusy (s : State) (i : Nat) (p : Packet) : Bool :=
  ((s.packets.take i).any fun q => q.loc = p.loc && q.link = p.link) ||
  (s.packets.any fun q => q.behind.any fun x => x.1 = p.loc && x.2.1 = p.link)

/-- The flits that packets hold of a link's buffer; at a tile, those of dkind 1 go straight to its memory. -/
def bufferFlits (s : State) (pl : PktAt) (link : Nat) : Nat :=
  let atTile := match pl with
    | .tile _ => true
    | _ => false
  (s.packets.map fun q =>
    (if q.loc = pl && q.link = link && !(atTile && q.dkind = 1) then hereCount q else 0) +
    ((q.behind.filter fun x => x.1 = pl && x.2.1 = link).map fun x => x.2.2).foldl (· + ·) 0).foldl (· + ·) 0

/-- Whether a link's receiver has raised stop: its buffer has room for fewer than 8 flits. An empty buffer never stops
its link, and an HBM controller has none (12 R305; log entry 89). -/
def stopped (s : State) (pl : PktAt) (link : Nat) : Bool :=
  let n := bufferFlits s pl link
  pl != .home && n != 0 && decide (Config.linkFlits < n + 8)

/-- The links over which flits of a packet have yet to follow its head, by the place and the number of the buffer at their
end: those to all places before the last that holds some. -/
def openLinks (p : Packet) : List (PktAt × Nat) :=
  ((p.loc, p.link) :: p.behind.map fun x => (x.1, x.2.1)).take p.behind.length

/-- Whether flits of a packet other than packet `i` are still on their way over a link: no other packet comes between them
(12 R287). -/
def outputBusy (s : State) (i : Nat) (pl : PktAt) (link : Nat) : Bool :=
  (dropAt i s.packets).any fun q => (openLinks q).contains (pl, link)

/-- Whether packets that packet `i` becomes can go on: none of the links they take is stopped, or is taken by another
packet (12 R287, R305). -/
def canGo (s : State) (i : Nat) (l : List Packet) : Bool :=
  l.all fun q => !(stopped (dropPacket i s) q.loc q.link) && !(outputBusy s i q.loc q.link)

/-- The places of flits without the last that hold none. -/
def trimBehind : List (PktAt × Nat × Nat) → List (PktAt × Nat × Nat)
  | [] => []
  | x :: rest => if (trimBehind rest).isEmpty && x.2.2 = 0 then [] else x :: trimBehind rest

/-- A packet that goes on from where packet `p` is: the flits of `p` follow its head (12 R305). -/
def following (p q : Packet) : Packet := { q with behind := trimBehind ((p.loc, p.link, hereCount p - 1) :: p.behind) }

/-- One flit goes over each link behind a packet's head, where the link is not stopped: whether one goes to the buffer
`down`, and where the flits are then (12 R305). An action's unit is no link and is never stopped once it has begun. -/
def shiftFlits (s : State) (down : PktAt × Nat) : List (PktAt × Nat × Nat) → Nat × List (PktAt × Nat × Nat)
  | [] => (0, [])
  | (pl, lk, n) :: rest =>
    let m := if n = 0 || (lk != unitLink && stopped s down.1 down.2) then 0 else 1
    let r := shiftFlits s (pl, lk) rest
    (m, (pl, lk, n - m + r.1) :: r.2)

/-- The flits of a packet that have yet to leave its sender. -/
def atSender (p : Packet) : Nat :=
  match p.behind.getLast? with
  | some (.tile _, _, n) => n
  | _ => 0

/-- The state after a packet's flits have gone on for a network cycle. A flit that its sender could not send holds the FSEND
and its port for one more (12 R305, R306, R310). -/
def shiftPacket (s : State) (i : Nat) : State :=
  match s.packets[i]? with
  | none => s
  | some p =>
    if p.behind.isEmpty then s
    else
      let q := { p with behind := trimBehind (shiftFlits s (p.loc, p.link) p.behind).2 }
      let s1 := modPacket i (fun _ => q) s
      if atSender q = 0 || atSender q < atSender p then s1
      else
        let tid := p.src * 6 + p.sctx
        modTile p.src (fun t => { t with port := t.port + 1 })
          (if memberOf s tid = (p.team, p.member) then modThr tid (delayDue 6 p.wid) s1 else s1)

/-- The state after a network cycle in which flits follow their heads (12 R305, R306). -/
def shiftAll (s : State) : State := (upFrom 0 s.packets.length).foldl shiftPacket s

/-- Whether a hit counts as a miss because the packet's span does not lie in the entry's (12 R295). -/
def spanOutside (e : FRec) (p : Packet) : Bool :=
  (e.action = 1 || e.action = 4) && !(decide (p.rlo < p.rhi) && decide (e.slo ≤ p.rlo) && decide (p.rhi ≤ e.shi))

/-- The state after packet `i` passes router `t` unchanged, where its links are not stopped (12 R295, R305, R307). -/
def passOn (t i : Nat) (p : Packet) (miss : Bool) (s : State) : Out :=
  let (l0, lost) := moveOn s p t
  let l := l0.map (following p)
  if !(canGo s i l) then .fault (.notEnabled "PACKET_LOOKUP") else
  let s1 := if miss then modCount t p.part (fun c => { c with transit := (c.transit + 1) % 2 ^ 64 }) s else s
  let s2 := if lost = 0 then s1 else modCount t p.part (fun c => { c with bound := satAdd 65535 c.bound lost }) s1
  .next (addPackets l (dropPacket i s2))

/-- The state after packet `i` leaves the hub, where its links are not stopped (12 R304, R305). -/
def leaveHub (i : Nat) (p : Packet) (l : List Packet) (s : State) : Out :=
  if canGo s i l then .next (addPackets (l.map (following p)) (dropPacket i s)) else .fault (.notEnabled "PACKET_LOOKUP")

/-- A packet of a draining partition that the hub or an HBM controller discards is counted among what the hub discards at
the partition's boundary. DESIGN CHOICE (log entry 108): 12 R307 and 23 R479 name no count for the hub, and each packet,
not each of its flits, is one (12 R323). -/
def hubDiscard (i : Nat) (p : Packet) (s : State) : State :=
  dropPacket i (modPart p.part (fun pt => { pt with stats := { pt.stats with hubBound := satAdd 65535 pt.stats.hubBound 1 } }) s)

/-- Event PACKET_LOOKUP: the router at which packet `a` stands, and to which no earlier packet of its link is still
bound, looks it up and passes it on or applies an entry's action; the hub passes a packet to the die or the home it is
bound for; a draining partition's packet is discarded, and counted as one, not flit by flit (DESIGN CHOICE, log entry
108; 12 R295, R304, R307, R323). -/
def execPacketLookup (s : State) : Out :=
  let i := s.arg.a
  let no : Out := .fault (.notEnabled "PACKET_LOOKUP")
  match s.packets[i]? with
  | none => no
  | some p =>
    if s.clock.now < p.due || linkBusy s i p then no
    else match p.loc with
    | .router t =>
      if (part s p.part).draining.isSome then
        .next (dropPacket i (modCount t p.part (fun c => { c with bound := satAdd 65535 c.bound 1 }) s))
      else if p.fresh then passOn t i p false s
      else match entryAt s p.part t p.flow with
        | none => passOn t i p true s
        | some x =>
          if spanOutside x.frec p then passOn t i p true s
          else if x.frec.gen != p.gen then .next (dropLate t x.frec p (dropPacket i s))
          else if stopped s (.router t) actionLink then no
          else match actOn t x p (dropPacket i s) with
            | some s1 => .next s1
            | none => no
    | .hub =>
      if (part s p.part).draining.isSome then .next (hubDiscard i p s)
      else if p.dkind = 3 then
        .next (modPacket i (fun p => following p { p with loc := .home, due := s.clock.now + p.len }) s)
      else
        let one := fun (q : Packet) (d : Nat) =>
          let e := dieOf d * 144 + 132 + edgeCol s [dieOf q.link, dieOf d] (colNo d)
          { q with loc := .router e, link := hubLink, org := e, due := s.clock.now + 3 }
        if p.mcast then
          let l := (mcastBits p).foldl (fun (l : List Packet) n =>
            let q := one { p with dv := 2 ^ n } (windowTile p.dtile n)
            if l.any fun x => x.loc = q.loc then l.map fun x => if x.loc = q.loc then { x with dv := x.dv + 2 ^ n } else x
            else l ++ [q]) []
          leaveHub i p l s
        else leaveHub i p [one p p.dtile] s
    | _ => no

/-! ## Delivery (12 R289, R291, R316) -/

/-- The free places of a receive queue; a place freed in this network cycle is not yet free (12 R291). -/
def queueFree (s : State) (t : Thread) (q : Nat) : Nat :=
  let f : Nat × Nat := look (0, 0) t.rxFreed q
  128 - queueFlits (look [] t.rx q) - (if f.1 = s.clock.now + 1 then f.2 else 0)

/-- The state after a packet at its tile is discarded and counted. -/
def discard (tl i : Nat) (p : Packet) (f : PartCount → PartCount) (s : State) : Out :=
  .next (dropPacket i (modCount tl p.part f s))

/-- One more packet counted as undeliverable. -/
def undelivered (c : PartCount) : PartCount := { c with undeliv := satAdd 65535 c.undeliv 1 }

/-- A packet enters a receive queue, as many of its flits as have come and find room; its head comes with the first
(12 R291). -/
def enterQueue (tid i : Nat) (p : Packet) (s : State) : Out :=
  let t := thr s tid
  let l : List RxPkt := look [] t.rx p.q
  let n := min (hereCount p) (queueFree s t p.q)
  if n = 0 then .fault (.notEnabled "DELIVERY")
  else
    let l1 := if p.entered = 0 then l ++ [{ pkt := { p with behind := [] }, arrived := n - 1 }]
      else modAt (fun (r : RxPkt) => { r with arrived := r.arrived + n }) (l.length - 1) l
    let s1 := modThr tid (fun t => { t with rx := put p.q l1 t.rx }) s
    .next (if p.entered + n = p.len + 1 then dropPacket i s1 else modPacket i (fun p => { p with entered := p.entered + n }) s1)

/-- The flag word of a delivery: concat(gen, seq) (12 R289). -/
def flagBytes (p : Packet) : List Byte := toBytes 4 p.seq.toNat ++ toBytes 4 p.gen.toNat

/-- The tile after a delivery of dkind 1: the data in rising address, each poisoned flit poisoning the words it writes,
and the flag word last (12 R289, R316; 08 R202). -/
def deliverLocal (p : Packet) (t : Tile) : Tile :=
  let t1 := (p.data.zip (upFrom 0 p.len)).foldl (fun t f =>
    storeRun (f.1.bytes.map some) (p.addr + 64 * f.2) (fun _ => f.1.poison) t) t
  if p.flag = 0 then t1 else storeBytes (flagBytes p) p.flag t1

/-- A packet delivered at a tile by its dkind; one for an operand queue of 16 KiB waits for room there (12 R289, R312).
DESIGN CHOICE (log entry 110): a bound row whose binding is broken is discarded, and counted as undeliverable; 12 R289
names no count for it. -/
def deliverTile (tl i : Nat) (p : Packet) (s : State) : Out :=
  let tid := tl * 6 + p.dctx
  match find s.threads tid with
  | none => discard tl i p undelivered s
  | some t =>
    if t.dying then discard tl i p undelivered s
    else if t.id.part != p.part then discard tl i p (fun c => { c with bound := satAdd 65535 c.bound 1 }) s
    else match p.dkind with
      | 0 => enterQueue tid i p s
      | 1 =>
        if inAlloc t p.addr (64 * p.len) && (p.flag = 0 || inAlloc t p.flag 8) then
          .next (dropPacket i (modTile tl (deliverLocal p) s))
        else discard tl i p undelivered s
      | _ =>
        if t.mq.boundBy = some (p.src * 6 + p.sctx) then
          if 16384 < t.mq.operand.length + 64 * p.len then .fault (.notEnabled "DELIVERY") else .next (dropPacket i (modThr tid (fun t => { t with mq := { t.mq with
            operand := t.mq.operand ++ p.data.flatMap Flit.bytes } }) s))
        else discard tl i p undelivered s

/-- Where a piece of a dkind-3 delivery goes: by the translation made at FSEND, and otherwise by one made now
(12 R310). -/
def pieceHome (p : Packet) (va n : Nat) (s : State) : Except Nat Home × State :=
  match p.tr.find? fun e => e.1 = va / 4096 with
  | some e => (homeOf s p.part (e.2 + va % 4096) n, s)
  | none => tileWriteAs p.src p.part p.vf p.pasid va n s

/-- The rest of a dkind-3 delivery is discarded, and the sending thread takes the deferred fault, which a saved one holds
(12 R310, 16 R355; 19 R419). -/
def refuseDelivery (i cause va : Nat) (p : Packet) (s : State) : State :=
  let f : FaultRec :=
    { code := 1, engine := 6, defer := true, async := true, cmd := p.cmd, addr := BitVec.ofNat 64 va
      lo := BitVec.ofNat 64 (cause + p.mpc % 65536 * 65536 + p.cmd.toNat * 2 ^ 32) }
  let s1 := dropPacket i s
  let s2 := if p.held = 0 then s1 else modDie (dieOf p.src) (fun g => { g with hold := g.hold - 1 }) s1
  if p.byRouter then s2
  else match liveAs s2 p.team p.member with
    | some tid => if (thr s2 tid).dying then s2 else raise tid f false s2
    | none => modSaved p.part p.team p.member (fun t => { t with held := t.held ++ [f] }) s2

/-- The state after a packet that its die holds leaves the hold list (16 R358). -/
def unhold (p : Packet) (s : State) : State :=
  if p.held = 0 then s else modDie (dieOf p.src) (fun g => { g with hold := g.hold - 1 }) s

/-- A packet with its next `n` data flits behind it; it is no more once nothing of it is left (12 R289). -/
def piecesGone (i n : Nat) (p : Packet) (s : State) : State :=
  if p.len < p.entered + n || (p.entered + n = p.len && p.flag = 0) then dropPacket i s
  else modPacket i (fun p => { p with entered := p.entered + n, held := 0 }) s

/-- The data flits that one write at a home takes: a block of HBM that they cover whole, and otherwise one (16 R376). -/
def flitsOfBlock (p : Packet) (va : Nat) : Nat := if va % 256 = 0 && 4 ≤ p.len - p.entered then 4 else 1

/-- The part of a delivery that goes to a peer with its translated addresses; `fl` is 0 where no flag goes with it
(17 R381, R382). -/
def peerPart (p : Packet) (n pa fl : Nat) : Packet :=
  { p with len := n, data := (p.data.drop p.entered).take n, addr := pa, flag := fl }

/-- The state after a part of a delivery of `n` flits has left for a peer: the packet stays until the peer has performed it,
and the rest comes after (12 R310, R316; 16 R364). -/
def awaitPeer (i n va pa : Nat) (p : Packet) (s : State) : State :=
  modPacket i (fun p => { p with entered := p.entered + n, held := 0, sent := true, peerVa := va
                                 tr := (va / 4096, pa / 4096 * 4096) :: p.tr }) (unhold p s)

/-- A part of a delivery leaves for a peer as a flow packet: the data flits of one page, and with the last of them the
flag, where it goes to that peer. DESIGN CHOICE (log entry 91): the spec lays no addresses out for a delivery that takes
two pages (12 R289; 17 R381, R382). -/
def deliverPeer (i m va pa : Nat) (p : Packet) (s : State) : Out :=
  let n := min (p.len - p.entered) ((4096 - va % 4096) / 64)
  let send := fun (fl : Nat) (s : State) => emit (.beats 0 (packetBeats (beatFor s p.part m (if p.byRouter then none else some p.launch)) (peerPart p n pa fl))) s
  if p.entered + n < p.len || p.flag = 0 then .next (awaitPeer i n va pa p (send 0 s))
  else match pieceHome p p.flag 8 s with
    | (.ok (.peer k fa), s1) =>
      .next (if k = m then awaitPeer i (n + 1) va pa p (send fa s1) else awaitPeer i n va pa p (send 0 s))
    | (.ok _, _) => .next (awaitPeer i n va pa p (send 0 s))
    | (.error e, s1) =>
      if e = onTheWay then waiting "DELIVERY" s (onlyAsked s s1) else .next (awaitPeer i n va pa p (send 0 s))

/-- The home of a delivery's next piece is known: it is written there, or leaves for the peer (12 R289; 17 R382). -/
def deliverPiece (i va n : Nat) (p : Packet) (h : Home) (s : State) : Out :=
  let atFlag := decide (p.len ≤ p.entered)
  let bs := if atFlag then flagBytes p else ((p.data.drop p.entered).take n).flatMap Flit.bytes
  let bad := fun (base w : Nat) => !atFlag && (p.data.getD (p.entered + (w - base) / 64) {}).poison
  match h with
  | .peer m pa =>
    if atFlag then .next (awaitPeer i 1 va pa p (emit (.rowOut m (p.src * 6 + p.sctx) 0 pa 8 true bs [] 0) s))
    else deliverPeer i m va pa p s
  | .hbm o => .next (piecesGone i n p (unhold p (homeWrite p.part h (bad o) (bs.map some) s)))
  | .host a => .next (piecesGone i n p (unhold p (homeWrite p.part h (bad a) (bs.map some) s)))
  | .got _ _ => .fault (.notEnabled "DELIVERY")

/-- The next piece of a dkind-3 delivery: data flits, or the flag word last. One that is held for another page than this
one has not been refused for it (12 R289; 16 R355, R358). -/
def deliverHome (i : Nat) (p : Packet) (s : State) : Out :=
  let atFlag := decide (p.len ≤ p.entered)
  let va := if atFlag then p.flag else p.addr + 64 * p.entered
  let n := if atFlag then 1 else flitsOfBlock p va
  match pieceHome p va (if atFlag then 8 else 64 * n) s with
  | (.ok h, s1) => deliverPiece i va n p h s1
  | (.error e, s1) =>
    if e = onTheWay then waiting "DELIVERY" s (onlyAsked s s1)
    else if e = noPermission || e = migrating then
      let held := if p.held = 3 && p.page != va / 4096 then 2 else p.held
      match holdAs (dieOf p.src) { vf := p.vf, part := p.part, pasid := p.pasid, page := va / 4096, w := true } held e (onlyAsked s s1) with
      | .ok (h, s2) => .next (modPacket i (fun p => { p with held := h, page := va / 4096, tr := [] }) s2)
      | .error 3 => .next (refuseDelivery i 3 va p s)
      | .error _ => .fault (.notEnabled "DELIVERY")
    else .next (refuseDelivery i e va p s)

/-- Whether all of a delivery has left for where it goes. -/
def allGone (p : Packet) : Bool := p.len + (p.flag != 0).toNat = p.entered

/-- Whether a packet at an HBM controller waits for an earlier one of its sender and flow, so that both are delivered in
send order (12 R305, R316; log entry 92). -/
def sendOrder (s : State) (i : Nat) (p : Packet) : Bool :=
  (s.packets.take i).any fun q => q.loc = .home && !(q.sent && allGone q) && q.part = p.part && q.src = p.src && q.sctx = p.sctx && q.flow = p.flow

/-- A peer has performed what was sent it of a delivery, the packet of a number and a sequence number, or has refused it
with a cause: the rest follows, or nothing is left (12 R310, R316; 17 R382). An answer for a packet that a partition reset
has discarded finds nothing (23 R479). -/
def peerDelivered (no seq cause : Nat) (s : State) : Out :=
  match placeOf (fun (p : Packet) => p.sent && packetNo p = no && p.seq.toNat = seq) 0 s.packets with
  | some i =>
    let p := s.packets.getD i {}
    .next (if cause != 0 then refuseDelivery i cause p.peerVa p s
      else if allGone p then dropPacket i s else modPacket i (fun p => { p with sent := false }) s)
  | none => .next s

/-- Event DELIVERY: packet `a` is delivered at its destination by dkind, once its flits have come; a receive queue takes
them as they come (12 R289, R306). A packet that cannot enter its queue stops its last link, so that deliveries at a tile
keep their order (R291, R305). With `d` 1 a peer module has performed what was sent it of the packet whose number is `b`
and whose sequence number is `c`, or has refused it with the cause `e` (17 R382). -/
def execDelivery (s : State) : Out :=
  let i := s.arg.a
  let no : Out := .fault (.notEnabled "DELIVERY")
  if s.arg.d = 1 then peerDelivered s.arg.b s.arg.c s.arg.e s else
  match s.packets[i]? with
  | none => no
  | some p =>
    if s.clock.now < p.due then no
    else match p.loc with
    | .tile tl =>
      if linkBusy s i p || (p.dkind != 0 && !p.behind.isEmpty) then no
      else if (part s p.part).draining.isSome then discard tl i p (fun c => { c with bound := satAdd 65535 c.bound 1 }) s
      else deliverTile tl i p s
    | .home =>
      if p.held = 1 || p.sent || !p.behind.isEmpty || sendOrder s i p then no
      else if (part s p.part).draining.isSome then .next (hubDiscard i p s)
      else deliverHome i p s
    | _ => no

end Sys2Proof.Machine
end

