-- ==== Sys2Proof/Machine/Flows.lean ====
section
/-!
DEFINITION. The flow port: every F word but the collective ones, VRECV, MRD with the bound queues, and the nest's step
with the credit it returns (12 R309-R315; 07 R193; 10 R263).
-/
namespace Sys2Proof.Machine

/-! ## FSEND (12 R310) -/

/-- Whether a flow identifier is one that a partition may name (12 R283). -/
def flowInRange (s : State) (p f : Nat) : Bool :=
  let c := (part s p).cfg
  decide (c.flowLo ≤ f) && decide (f ≤ c.flowHi) && decide (f < 0xFF00)

/-- Whether a destination vector of a window is acceptable (12 R290, R310). -/
def windowOk (s : State) (p origin dv : Nat) : Bool :=
  decide (origin < 576) && dv != 0 &&
  ((upFrom 0 64).filter (bitOf dv)).all fun n => windowBit origin n && inPart s p (windowTile origin n)

/-- The first field of a template that breaks R310, by its offset. -/
def headFault (s : State) (p : Nat) (h : List Byte) : Option Nat :=
  let kind := field h 3 1
  let dk := kind % 4
  let mc := bitOf kind 2
  let va := dk = 1 || dk = 3
  if !(flowInRange s p (field h 0 2)) then some 0
  else if 8 ≤ kind || dk = 2 || (mc && dk = 3) then some 3
  else if field h 16 1 = 0 || 64 < field h 16 1 then some 16
  else if 7 < field h 17 1 then some 17
  else if 3 < field h 18 1 then some 18
  else if dk < 2 && !mc && !(inPart s p (field h 20 2)) then some 20
  else if mc && !(windowOk s p (field h 20 2) (field h 40 8)) then some 40
  else if !((field h 22 2 = 0 && field h 24 2 = 0) || (field h 22 2 < field h 24 2 && field h 24 2 ≤ 4096)) then some 22
  else if (if va then field h 32 8 % 64 != 0 else field h 32 8 != 0) then some 32
  else if (if va then field h 48 8 % 8 != 0 else field h 48 8 != 0) then some 48
  else if !mc && field h 40 8 != 0 then some 40
  else if !(zeroAt h 27 5) then some 27
  else if !(zeroAt h 56 8) then some 56
  else none

/-- The packet that a template and data give (12 R288, R310). -/
def makePacket (s : State) (h : List Byte) (cls : Nat) (data : List Flit) : Packet :=
  let t := me s
  let (cmd, mpc, _) := posOf t 6
  let tl := tileOf s.cur
  { flow := field h 0 2, part := t.id.part, dkind := field h 3 1 % 4, mcast := bitOf (field h 3 1) 2, src := tl,
    sctx := ctxOf s.cur, cls := cls, seq := BitVec.ofNat 32 (field h 8 4), gen := BitVec.ofNat 32 (field h 12 4),
    len := field h 16 1, q := field h 17 1, dctx := field h 18 1, dtile := field h 20 2, rlo := field h 22 2,
    rhi := field h 24 2, addr := field h 32 8, dv := field h 40 8, flag := field h 48 8, data := data,
    loc := .router tl, link := portLink (ctxOf s.cur), org := tl, due := s.clock.now + 3, vf := t.id.vf,
    pasid := t.id.pasid, cmd := cmd, mpc := mpc, team := t.id.team, member := t.id.member, launch := t.id.launch
    behind := [(.tile tl, portLink (ctxOf s.cur), field h 16 1)] }

/-- The data flits that lie at a local address (12 R310). -/
def flitsAt (t : Tile) (a n : Nat) : List Flit :=
  (upFrom 0 n).map fun k =>
    { bytes := readBytes t.mem (a + 64 * k) 64, poison := poisonedIn t.poison (a + 64 * k) 64 }

/-- The first address in each page that a dkind-3 delivery writes, the flag's last (12 R310; 19 R424). -/
def deliveryPages (p : Packet) : List Nat :=
  let a := p.addr / 4096
  let l := if (p.addr + 64 * p.len - 1) / 4096 = a then [p.addr] else [p.addr, (a + 1) * 4096]
  if p.flag = 0 || l.any (fun x => x / 4096 = p.flag / 4096) then l else l ++ [p.flag]

/-- The module by which a home is reached, for R382's cause 7. -/
def homeModule : Home → Option Nat
  | .peer m _ => some m
  | _ => none

/-- What translating the pages of a delivery answers: it waits, the cause and address of a fault, or the packet with the
pages that grant the write, the modules they lie in, and the page that does not with its answer (12 R310, 17 R382). -/
def translatePages (tid : Nat) : List Nat → Packet → List (Option Nat) → Option (Nat × Nat) → State →
    Option (Except (Nat × Nat) (Packet × List (Option Nat) × Option (Nat × Nat))) × State
  | [], p, ms, lack, s => (some (.ok (p, ms, lack)), s)
  | va :: rest, p, ms, lack, s =>
    match tileWrite tid va 8 s with
    | (.ok h, s1) =>
      let id := (thr s tid).id
      match tileXlat (tileOf tid) id.part id.vf id.pasid va s1 with
      | (.page q _ _, s2) =>
        translatePages tid rest { p with tr := p.tr ++ [(va / 4096, q / 4096 * 4096)] } (ms ++ [homeModule h]) lack s2
      | (_, s2) => (none, s2)
    | (.error e, s1) =>
      if e = onTheWay then (none, s1)
      else if e = noPermission || e = migrating then
        translatePages tid rest p ms (lack.orElse fun _ => some (va / 4096, e)) s1
      else (some (.error (e, va)), s1)

/-- The word at issue waits for what it asked of the host. -/
def waitAsked (s s1 : State) : Out := waitBusy (onlyAsked s s1)

/-- A flow word that has passed its checks issues with its packet: the port takes the head in this network cycle and a
flit in each of the next ones unless the router stops it, and the word retires with the last (12 R305). DESIGN CHOICE (log entry 93): its data is read at
issue (12 R310). -/
def sendPacket (tk : Tok) (t cls : Nat) (p : Packet) (s : State) : Out :=
  let last := s.clock.now + p.len
  issueEng 2 tk false (fun wid s1 =>
    addPackets [{ p with wid := wid }] (modTile (tileOf s.cur) (fun x => { x with port := last + 1 })
      (modMe (setDue 6 wid last) (traceMem s.cur 6 3 p.mpc p.cmd.toNat t 64 cls false s1)))) s

/-- Whether a tile's flow port cannot take a packet of a context now: it injects another, or its router has stopped it
(12 R305, R310). -/
def portBusy (s : State) (tid : Nat) : Bool :=
  decide (s.clock.now < (tile s (tileOf tid)).port) || stopped s (.router (tileOf tid)) (portLink (ctxOf tid))

/-- FSEND (12 R310). -/
def execFsend (a b cls : Nat) (tk : Tok) (s : State) : Out :=
  if !(occupied s s.cur) then .fault .noThread
  else match tokWait (cycle s) (me s) s.strm tk with
  | some fl => waitFlag fl s
  | none =>
    let th := me s
    let tl := tile s (tileOf s.cur)
    let t := (gOf th b).toNat
    let d := (gOf th a).toNat
    match readFault th tl 6 t 64 8 with
    | some f => faultAt f s
    | none =>
      let h := readBytes tl.mem t 64
      match headFault s th.id.part h with
      | some off => faultAt (flowRec 6 (field h 0 2) off) s
      | none =>
        let len := field h 16 1
        match writeFault th 6 d (64 * len) 64 with
        | some f => faultAt f s
        | none =>
          let p := makePacket s h cls (flitsAt tl d len)
          if portBusy s s.cur then waitBusy s
          else if p.dkind != 3 then sendPacket tk t cls p s
          else match translatePages s.cur (deliveryPages p) p [] none s with
            | (none, s1) => waitAsked s s1
            | (some (.error (cause, va)), s1) => faultAt (accessRec 6 cause va) s1
            | (some (.ok (p1, ms, lack)), s1) =>
              if ms.any (fun m => m != ms.headD none) then faultAt (accessRec 6 7 p.addr) s
              else match lack with
                | none => sendPacket tk t cls p1 s1
                | some (g, e) =>
                  match holdAccess s.cur 0 e g s1 with
                  | .ok (n, s2) => sendPacket tk t cls { p1 with held := n, page := g, tr := [] } s2
                  | .error _ => waitAsked s s1

/-! ## Receive queues (12 R291, R311; 07 R193) -/

/-- The value that records the arrival of a packet (24 R493). -/
def arrivalWord (p : Packet) (q : Nat) : Word :=
  BitVec.ofNat 64 (p.flow + p.src % 1024 * 2 ^ 16 + p.sctx % 8 * 2 ^ 26 + q * 2 ^ 29 + p.seq.toNat * 2 ^ 32)

/-- The place of the packet that a word of a stream acts on in queue `q`: the one begun, and otherwise the first, or in
replay the one recorded, unless the first is a packet that is not logged (07 R193, 24 R493, R494). -/
def packetOf (s : State) (tid st q : Nat) : Option Nat :=
  let l : List RxPkt := look [] (thr s tid).rx q
  match placeOf (fun r => r.taken != 0) 0 l with
  | some i => some i
  | none =>
    if recMode (thr s tid) = 2 && !((l.headD {}).pkt.made) then
      match logPeek tid 4 st s with
      | some v => placeOf (fun r => arrivalWord r.pkt q == v) 0 l
      | none => if l.isEmpty then none else some 0
    else if l.isEmpty then none else some 0

/-- The state after a word takes the first flit of a packet: the arrival is recorded or its record taken
(24 R493, R494). -/
def logArrival (tid st q : Nat) (r : RxPkt) (s : State) : State :=
  if r.taken != 0 || r.pkt.made then s else (consume tid 4 st (arrivalWord r.pkt q) s).2

/-- Whether a word that takes a packet's first flit must wait for room in the log ring (24 R493). -/
def arrivalWaits (s : State) (tid : Nat) (r : RxPkt) : Bool := r.taken = 0 && !r.pkt.made && logFull s tid 1

/-- The thread after `n` data flits have left the packet at a place of a queue, and the packet itself with its head when
it is whole (12 R291). -/
def takeFlits (now q i n : Nat) (t : Thread) : Thread :=
  let l : List RxPkt := look [] t.rx q
  let r := l.getD i {}
  let gone := decide (r.pkt.len ≤ r.taken + n)
  let l1 := if gone then dropAt i l else modAt (fun (r : RxPkt) => { r with taken := r.taken + n }) i l
  let f : Nat × Nat := look (0, 0) t.rxFreed q
  let freed := (if f.1 = now + 1 then f.2 else 0) + n + gone.toNat
  { t with rx := put q l1 t.rx, rxFreed := put q (now + 1, freed) t.rxFreed }

/-- VRECV (07 R193). -/
def execVrecv (wb : Bool) (d q : Nat) (tk : Tok) (s : State) : Out :=
  if !(occupied s s.cur) then .fault .noThread
  else match tokWait (cycle s) (me s) s.strm tk with
  | some fl => waitFlag fl s
  | none =>
    match packetOf s s.cur 1 q with
    | none => waitFlag (72 + q) s
    | some i =>
      let r : RxPkt := (look [] (me s).rx q).getD i {}
      let n := min 4 (r.pkt.len - r.taken)
      if r.arrived - r.taken < n || n = 0 then waitFlag (72 + q) s
      else
        let fs := (r.pkt.data.drop r.taken).take n
        if fs.any Flit.poison then
          faultAt { code := 6, engine := 1, lo := BitVec.ofNat 64 q } s
        else if arrivalWaits s s.cur r then waitBusy s
        else
          let bs := fs.flatMap Flit.bytes
          issueEng 2 tk false (fun wid s1 => addFly
            { wid := wid, latch := some 7, reg := d, wb := wb, row := rowOf fun k => leLane ((bs.drop (4 * k)).take 4),
              due := cycle s + 2 }
            (modMe (takeFlits s.clock.now q i n) (logArrival s.cur 1 q r s1))) s

/-- The tile after a packet is written to local memory: its head with the field taken, then the flits not yet taken
(12 R311). -/
def writePacket (r : RxPkt) (a : Nat) (t : Tile) : Tile :=
  let t1 := storeBytes (headBytes r.pkt r.taken) a t
  ((r.pkt.data.drop r.taken).zip (upFrom 1 64)).foldl (fun t f =>
    storeRun (f.1.bytes.map some) (a + 64 * f.2) (fun _ => f.1.poison) t) t1

/-- FRECV (12 R311). -/
def execFrecv (a b _cls : Nat) (tk : Tok) (s : State) : Out :=
  if !(occupied s s.cur) then .fault .noThread
  else match tokWait (cycle s) (me s) s.strm tk with
  | some fl => waitFlag fl s
  | none =>
    let q := (gOf (me s) b).toNat % 8
    match packetOf s s.cur 6 q with
    | none => waitFlag (72 + q) s
    | some i =>
      let r : RxPkt := (look [] (me s).rx q).getD i {}
      if r.arrived < r.pkt.len then waitFlag (72 + q) s
      else
        let x := (gOf (me s) a).toNat
        match writeFault (me s) 6 x (64 * (1 + r.pkt.len - r.taken)) 8 with
        | some f => faultAt f s
        | none =>
          if arrivalWaits s s.cur r then waitBusy s
          else
            let (cmd, _, _) := posOf (me s) 6
            issueEng 2 tk true (fun _ s1 =>
              let s2 := modTile (tileOf s.cur) (writePacket r x)
                (modMe (takeFlits s.clock.now q i (r.pkt.len - r.taken)) (logArrival s.cur 6 q r s1))
              if r.pkt.err then raise s.cur { flowRec 6 r.pkt.flow 68 with defer := true, cmd := cmd } false s2
              else s2) s

/-! ## Bound M queues (12 R312, 10 R263) -/

/-- The packet that carries one row of a result queue to its bound peer (12 R312). -/
def rowPacket (s : State) (tid : Nat) (b : Binding) (r : Row) : Packet :=
  let t := thr s tid
  let bs := r.flatMap fun x => toBytes 4 x.toNat
  { flow := b.flow, part := t.id.part, dkind := 2, src := tileOf tid, sctx := ctxOf tid, seq := b.seq, len := 4,
    dctx := ctxOf b.peer, dtile := tileOf b.peer, data := (cut 64 4 bs).map fun x => { bytes := x },
    loc := .router (tileOf tid), link := portLink (ctxOf tid), org := tileOf tid, due := s.clock.now + 3,
    vf := t.id.vf, pasid := t.id.pasid }

/-- The state after the rows of a thread's result queue that have credit have left as packets, while the router does not
stop them; `fuel` bounds them (12 R305, R312). -/
def drainResult (tid : Nat) : Nat → State → State
  | 0, s => s
  | fuel + 1, s =>
    let mq := (thr s tid).mq
    match mq.bound, mq.result with
    | some b, r :: rest =>
      if b.credits < 256 || stopped s (.router (tileOf tid)) (portLink (ctxOf tid)) then s
      else drainResult tid fuel (addPackets [rowPacket s tid b r] (modThr tid (fun t => { t with mq := { t.mq with
        result := rest, bound := some { b with credits := b.credits - 256, seq := b.seq + 1 } } }) s))
    | _, _ => s

/-- The sender bound to a thread's operand queue gets the credit of consumed bytes back (12 R312). -/
def giveCredit (tid n : Nat) (s : State) : State :=
  match (thr s tid).mq.boundBy with
  | none => s
  | some u => drainResult u 16 (modThr u (fun t => { t with mq := { t.mq with
      bound := t.mq.bound.map fun b => { b with credits := b.credits + n } } }) s)

/-- Event NEST_STEP (10 R242-R250), with the credit that consumed operand-queue bytes give back (12 R312). -/
def execNestStep (s : State) : Out := nestStep giveCredit s

/-- The lanes that MRD reads: half a row of an accumulator set (10 R263). -/
def halfRow (t : Thread) (a row half : Nat) : Row := rowOf fun n => accOf t a row (64 * half + n)

/-- MRD: to a vector register, or to the result queue when it is bound (10 R260, R263; 12 R312). -/
def execMrd (wb : Bool) (d a row half : Nat) (tk : Tok) (s : State) : Out :=
  if !(occupied s s.cur) then .fault .noThread
  else match tokWait (cycle s) (me s) s.strm tk with
  | some fl => waitFlag fl s
  | none =>
    let t := me s
    if setBusy t a then waitBusy s
    else if wb then
      issueEng 2 tk false (fun wid s1 => addFly
        { wid := wid, stream := 2, reg := d, wb := true, row := halfRow t a row half, due := cycle s + 3 } s1) s
    else if t.mq.bound.isNone then issueEng 2 tk true (fun _ s1 => s1) s
    else if 16 ≤ t.mq.result.length then waitStuck 8 s
    else issueEng 2 tk true (fun _ s1 => drainResult s.cur 16 (modMe (fun t => { t with mq := { t.mq with
        result := t.mq.result ++ [halfRow t a row half] } }) s1)) s

/-- The cause for which FBIND faults, if it does (12 R312). -/
def bindFault (s : State) (a b : Nat) : Option Nat :=
  let p := (gOf (me s) a).toNat
  let v := (gOf (me s) b).toNat
  let f := v % 65536
  if 65536 ≤ v then some 2
  else if !(flowInRange s (partOf s s.cur) f) then some 0
  else if (me s).mq.bound.isSome then some 69
  else match find s.threads p with
    | none => some 70
    | some t =>
      if isTiller p || t.dying || t.id.part != partOf s s.cur || !(inPart s t.id.part (tileOf p)) || t.mq.boundBy.isSome
      then some 70 else none

/-- FBIND (12 R312). DESIGN CHOICE (log entry 109): the handshake, as everything on the system flow, is not sent as packets, for
which the manual gives neither flow number nor route. -/
def execFbind (a b : Nat) (tk : Tok) (s : State) : Out :=
  let p := (gOf (me s) a).toNat
  let f := (gOf (me s) b).toNat % 65536
  engWord 2 tk true (fun s => (bindFault s a b).map (flowRec 6 f)) (fun _ s1 =>
    modThr p (fun t => { t with mq := { t.mq with boundBy := some s.cur } })
      (modMe (fun t => { t with mq := { t.mq with bound := some { peer := p, flow := f } } }) s1)) s

/-- Whether packets that a thread's binding sent are still under way (12 R312). -/
def rowsUnderWay (s : State) (tid : Nat) : Bool :=
  s.packets.any fun p => p.dkind = 2 && p.src = tileOf tid && p.sctx = ctxOf tid

/-- The state after the binding of a thread's result queue is broken at both ends (12 R312). -/
def unbind (tid : Nat) (s : State) : State :=
  match (thr s tid).mq.bound with
  | none => s
  | some b => modThr b.peer (fun t => { t with mq := { t.mq with boundBy := none } })
      (modThr tid (fun t => { t with mq := { t.mq with bound := none, result := [] } }) s)

/-- The state after the bindings of a thread that ends are broken, at either end (12 R312, 19 R434). -/
def breakBindings (tid : Nat) (s : State) : State :=
  let s1 := unbind tid s
  match (thr s1 tid).mq.boundBy with
  | some u => unbind u s1
  | none => s1

/-- FUNBIND (12 R312). -/
def execFunbind (tk : Tok) (s : State) : Out :=
  if !(occupied s s.cur) then .fault .noThread
  else match tokWait (cycle s) (me s) s.strm tk with
  | some fl => waitFlag fl s
  | none =>
    if (me s).mq.bound.isSome && (!((me s).mq.result.isEmpty) || rowsUnderWay s s.cur) then waitBusy s
    else issueEng 2 tk true (fun _ s1 => unbind s.cur s1) s

/-! ## Flow entries (12 R292-R294, R313-R315) -/

/-- The fields of a 64-byte flow record (12 R292). -/
def parseFRec (b : List Byte) : FRec :=
  { id := field b 0 2, action := field b 2 1, at_ := field b 3 1, tile := field b 4 2, op := field b 6 1,
    wf := field b 7 1, n := field b 8 2, slo := field b 10 2, shi := field b 12 2, len := field b 14 1,
    akib := field b 15 1, gen := BitVec.ofNat 32 (field b 16 4), okind := field b 20 1, oq := field b 21 1,
    octx := field b 22 1, otile := field b 24 2, hflow := field b 26 2, oaddr := field b 32 8, odv := field b 40 8,
    oflag := field b 48 8, param := BitVec.ofNat 64 (field b 56 8) }

/-- The routers of an entry's set (12 R292). -/
def routersOf (s : State) (p : Nat) (e : FRec) : List Nat :=
  if e.at_ = 0 then [e.tile]
  else (upFrom 0 576).filter (inPart s p)

/-- Whether an op and a wire format suit an action, as the offset of the field that does not (12 R294). -/
def opFault (e : FRec) : Option Nat :=
  if e.action = 1 || e.action = 4 then
    if 4 < e.op then some 6
    else if 3 < e.wf || (e.op = 0 && e.wf = 3) || (3 ≤ e.op && e.wf != 3) then some 7
    else none
  else if e.action = 6 || e.action = 7 then
    if 1 < e.op then some 6 else if 2 < e.wf then some 7 else none
  else none

/-- The fault of an entry's spans, if any (12 R294). -/
def spanFault (e : FRec) : Option Nat :=
  if e.action = 1 || e.action = 4 then
    if e.n = 0 || 4096 < e.n then some 8
    else if e.shi ≤ e.slo then some 10
    else if e.n < e.shi then some 12
    else if !(isNode e.n e.slo e.shi) then some 10
    else none
  else if e.action = 7 && (e.n = 0 || 4096 < e.n) then some 8
  else none

/-- The fault of an entry's len or akib, if any (12 R293, R294). -/
def storeFault (e : FRec) : Option Nat :=
  if e.len = 0 || 64 < e.len || (e.action = 5 && e.len % 8 != 0) then some 14
  else
    let ok := match e.action with
      | 3 => decide ((e.len + 15) / 16 ≤ e.akib)
      | 1 => decide (1 ≤ openLimit e)
      | 4 => decide (1 ≤ openLimit e)
      | _ => e.akib = 0
    if ok && e.akib ≤ 128 then none else some 15

/-- The fault of an entry's output fields, if any, in rising offset (12 R293, R294). -/
def outputFault (s : State) (p : Nat) (e : FRec) : Option Nat :=
  let dk := e.okind % 4
  let mc := bitOf e.okind 2
  let va := dk = 1 || dk = 3
  if e.action = 4 then (if 7 < e.oq then some 21 else none)
  else if e.action = 7 then
    if e.okind != 0 && e.okind != 4 then some 20
    else if 7 < e.oq then some 21
    else if 3 < e.octx then some 22
    else if !mc && !(inPart s p e.otile) then some 24
    else if (if mc then !(windowOk s p e.otile e.odv) else e.odv != 0) then some 40
    else none
  else if e.action = 3 && e.otile = 0xFFFF then
    if e.okind != 0 then some 20 else if e.oq != 0 then some 21 else if e.octx != 0 then some 22
    else if e.oaddr != 0 then some 32 else if e.odv != 0 then some 40 else if e.oflag != 0 then some 48 else none
  else if 8 ≤ e.okind || dk = 2 || (mc && dk = 3) || (e.action = 2 && !mc) then some 20
  else if 7 < e.oq then some 21
  else if 3 < e.octx then some 22
  else if dk < 2 && !mc && !(inPart s p e.otile) then some 24
  else if (if va then e.oaddr % 64 != 0 else e.oaddr != 0) then some 32
  else if (if mc then !(windowOk s p e.otile e.odv) else e.odv != 0) then some 40
  else if (if va then e.oflag % 8 != 0 else e.oflag != 0) then some 48
  else none

/-- The fields, as offset and size, that an action does not use (12 R293). -/
def unusedFields (action : Nat) : List (Nat × Nat) :=
  let ow := if action = 1 || action = 4 || action = 6 || action = 7 then [] else [(6, 1), (7, 1)]
  let n := if action = 1 || action = 4 then [] else if action = 7 then [(10, 2), (12, 2)] else [(8, 2), (10, 2), (12, 2)]
  let out := if action = 4 then [(20, 1), (22, 1)] else []
  let hf := if action = 6 || action = 7 then [] else [(26, 2)]
  let ot := if action = 4 then [(24, 2)] else []
  let oa := if action = 4 then [(32, 8), (40, 8), (48, 8)] else if action = 7 then [(48, 8)] else []
  let pa := if action = 6 || action = 7 then [] else [(56, 8)]
  ow ++ n ++ out ++ [(23, 1)] ++ ot ++ hf ++ [(28, 4)] ++ oa ++ pa

/-- The store that a partition's entries reserve at a router, in KiB, and their number (12 R285). -/
def sliceUsed (s : State) (p router : Nat) : Nat × Nat :=
  ((part s p).flows.filter fun x => x.1 / 65536 = router).foldl (fun n x => (n.1 + x.2.frec.akib, n.2 + 1)) (0, 0)

/-- The first check of R294 that a record breaks, by its cause. -/
def flowFault (s : State) (p : Nat) (b : List Byte) : Option Nat :=
  let e := parseFRec b
  let rs := routersOf s p e
  let c := (part s p).cfg
  if !(flowInRange s p e.id) then some 0
  else if 7 < e.action then some 2
  else if 1 < e.at_ then some 3
  else if (if e.at_ = 0 then !(inPart s p e.tile) else e.tile != 0) then some 4
  else (opFault e).orElse fun _ => (spanFault e).orElse fun _ => (storeFault e).orElse fun _ =>
    (outputFault s p e).orElse fun _ =>
      (((unusedFields e.action).find? fun u => !(zeroAt b u.1 u.2)).map Prod.fst).orElse fun _ =>
        if e.action = 6 && 1 < e.param.toNat then some 56
        else if e.action = 7 && (e.at_ != 0 || e.oaddr % 4 != 0 ||
            (ownerOf s p e.tile e.oaddr (4 * (e.len * 64 / wireBytes e.wf))).isNone) then some 56
        else if rs.any fun r => (entryAt s p r e.id).isSome then some 64
        else if rs.any fun r => c.flowNe ≤ (sliceUsed s p r).2 then some 65
        else if rs.any fun r => c.flowAb < (sliceUsed s p r).1 + e.akib then some 66
        else if e.action = 6 && rs.any (fun r => match entryAt s p r e.hflow with
            | some x => x.frec.action != 3
            | none => true) then some 67
        else none

/-- The state after an entry is installed at every router of its set (12 R313); `inst` tells by what. -/
def installFlow (p inst : Nat) (e : FRec) (s : State) : State :=
  let rs := routersOf s p e
  modPart p (fun pt => { pt with flows := rs.foldl (fun m r => put (flowKey r e.id) { frec := e, inst := inst } m) pt.flows }) s

/-- The state after the flow entries of a partition that a test tells are removed (12 R314). -/
def removeFlows (p : Nat) (test : Nat × FlowEntry → Bool) (s : State) : State :=
  let gone := (part s p).flows.filter test
  let s1 := modPart p (fun pt => { pt with flows := pt.flows.filter fun x => !(test x) }) s
  gone.foldl (fun s x => if x.2.frec.action = 3 then failNormalise p (x.1 / 65536) (x.1 % 65536) s else s) s1

/-- The state after the entries of a flow are removed from every router of a partition (12 R314). -/
def removeFlow (p f : Nat) (s : State) : State := removeFlows p (fun x => x.1 % 65536 = f) s

/-- FLOW.DEF (12 R313). -/
def execFlowDef (a _cls : Nat) (tk : Tok) (s : State) : Out :=
  let x := (gOf (me s) a).toNat
  let tl := tile s (tileOf s.cur)
  let b := readBytes tl.mem x 64
  let p := partOf s s.cur
  engWord 2 tk true (fun s =>
    (readFault (me s) tl 6 x 64 8).orElse fun _ => (flowFault s p b).map (flowRec 6 (field b 0 2)))
    (fun _ s1 => installFlow p 0 (parseFRec b) s1) s

/-- FLOW.DEL: a name outside the partition's range has no effect (12 R283, R314). -/
def execFlowDel (a : Nat) (tk : Tok) (s : State) : Out :=
  let f := (gOf (me s) a).toNat % 65536
  let p := partOf s s.cur
  engWord 2 tk true (fun _ => none) (fun _ s1 => if flowInRange s p f then removeFlow p f s1 else s1) s

/-- The 32-byte record of FLOW.STAT (12 R315). -/
def flowRecord (s : State) (p f tl : Nat) : List Byte :=
  match (if flowInRange s p f && inPart s p tl then entryAt s p tl f else none) with
  | none => toBytes 2 f ++ toBytes 30 0
  | some x =>
    let n := if x.frec.action = 6 then x.wait.length else (openSeqs x).length
    toBytes 2 f ++ toBytes 1 1 ++ toBytes 1 x.frec.action ++ toBytes 4 x.frec.gen.toNat ++ toBytes 4 n ++
      toBytes 4 x.done.toNat ++ toBytes 4 x.late.toNat ++ toBytes 4 x.error.toNat ++ toBytes 8 0

/-- FLOW.STAT (12 R315). -/
def execFlowStat (a b _cls : Nat) (tk : Tok) (s : State) : Out :=
  let x := (gOf (me s) a).toNat
  let v := (gOf (me s) b).toNat
  engWord 2 tk true (fun s => writeFault (me s) 6 x 32 8) (fun _ s1 =>
    modTile (tileOf s.cur) (storeBytes (flowRecord s (partOf s s.cur) (v % 65536) (bitsOf v 16 10)) x) s1) s

/-- FNOP (03 R81). -/
def execFnop (s : State) : Out := engWord 1 {} true (fun _ => none) (fun _ s => s) s

end Sys2Proof.Machine
end

