-- ==== Sys2Proof/Machine/Far.lean ====
section
/-!
DEFINITION. Far requests: FLD, FST, FAMO, the fences, how a request performs and its reply lands, and the arrivals and
waits of team barriers with their release (04 R113-R116, 12 R317-R322, 14 R326-R346, 16 R355-R358).
-/
namespace Sys2Proof.Machine

/-! ## Order (12 R322; 14 R329, R330, R339) -/

/-- Whether a request has a declared use. -/
def hasUse (u : FUse) (r : FarReq) : Bool :=
  match r.ord with
  | .rlx v => v == u
  | _ => false

/-- Whether two requests touch overlapping bytes. -/
def overlap (x y : FarReq) : Bool := decide (x.va < y.va + y.size) && decide (y.va < x.va + x.size)

/-- Whether a request of a thread must follow an earlier one of the same thread (12 R322; 14 R329, R330). -/
def mustFollow (e r : FarReq) : Bool :=
  if hasUse .speculative e || hasUse .speculative r then false
  else overlap e r || (keepsOrder e && keepsOrder r && (e.cls = r.cls || e.cls = 15 || r.cls = 15))

/-- The controller, host link or peer by which a home is reached. -/
def homeKey : Home → Nat
  | .got _ _ => 13
  | .hbm o => o / 4096 % 12
  | .host _ => 12
  | .peer m _ => 13 + m

/-- The requests of a thread before place `i` that have yet to perform and that request `r` must follow (12 R322). -/
def followed (s : State) (tid i : Nat) (r : FarReq) : List (Nat × Nat) :=
  let l := (thr s tid).far
  ((upFrom 0 i).filter fun j => (l[j]?).any fun e => !e.done && mustFollow e r).map fun j => (tid, j)

/-- The requests of the same tile that entered the request channel earlier, for the same home, and have yet to perform:
one route keeps their order (14 R339). A held request has left that route. -/
def routeAhead (s : State) (tid : Nat) (r : FarReq) : List (Nat × Nat) :=
  match r.home with
  | none => []
  | some h =>
    (upFrom (tileOf tid * 6) 6).flatMap fun u =>
      let l := (thr s u).far
      ((upFrom 0 l.length).filter fun j => (l[j]?).any fun f =>
        !f.done && f.held = 0 && decide (f.nc < r.nc) && !(hasUse .speculative f) && !(hasUse .speculative r) &&
        (match f.home with | some g => homeKey g = homeKey h | none => false)).map fun j => (u, j)

/-- The requests, by thread and place, that must perform before request `i` of a thread. -/
def performsAfter (s : State) (tid i : Nat) (r : FarReq) : List (Nat × Nat) :=
  followed s tid i r ++ (if r.held != 0 then [] else routeAhead s tid r)

/-- Whether request `i` of a thread may perform now. -/
def mayPerform (s : State) (tid i : Nat) (r : FarReq) : Bool := (performsAfter s tid i r).isEmpty

/-- Whether the requests that a release covers have performed as its scope requires (14 R334, R339). -/
def releaseReady (t : Thread) (sc : Scope) : Bool :=
  t.far.all fun r => r.done || hasUse .speculative r || (match sc with
    | .thread => r.held = 0
    | .tile => r.held = 0
    | _ => false)

/-- The scope of a release, if a word is one (14 R333). -/
def releaseScope : Order → Option Scope
  | .rel sc => some sc
  | .acqrel sc => some sc
  | _ => none

/-! ## Issue (12 R317-R321) -/

/-- The state with a far request added to the thread at issue; `listed` says that its word retires with its reply. -/
def addFar (r : FarReq) (listed : Bool) (s : State) : State :=
  modMe (fun t => { (if listed then listWord 0 r.wid false none t else t) with far := t.far ++ [r] }) s

/-- What recording and replay do at the issue of a word that consumes a far return, and with `nr` also a residency
outcome: the places of its log records, or the recorded values (24 R493, R494). -/
def farLogs (nr : Bool) (r : FarReq) (s : State) : FarReq × State :=
  match recMode (me s) with
  | 1 =>
    let (a, s1) := logPut s.cur 1 0 0 s
    if nr then
      let (b, s2) := logPut s.cur 2 0 0 s1
      ({ r with logs := [a, b] }, s2)
    else ({ r with logs := [a] }, s1)
  | 2 =>
    match logTake s.cur 1 0 s with
    | (none, s1) => (r, s1)
    | (some v, s1) =>
      if nr then
        match logTake s.cur 2 0 s1 with
        | (none, s2) => (r, s2)
        | (some b, s2) => ({ r with forced := some v, forcedNr := some (b != 0) }, s2)
      else ({ r with forced := some v }, s1)
  | _ => (r, s)

/-- A far word that has passed its checks issues with its request. -/
def issueFar (r : FarReq) (s : State) : Out :=
  let t := me s
  let r0 : FarReq := { r with pc := t.c.pc, wid := t.kn, nc := s.clock.now }
  doneCS 2 (fun s1 =>
    let s2 := traceMem s1.cur 0 3 0 t.c.pc.toNat r.va r.size r.cls (r.kind != 0) s1
    if r.kind = 1 then addFar r0 false s2
    else
      let (r1, s3) := farLogs (r.kind = 0 && r.nr != 0) r0 s2
      let zero := r.kind = 0 && r1.forcedNr = some true
      let wait := r.kind = 0 && r1.forcedNr = some false && r1.nonres
      let r2 : FarReq :=
        if zero then { r1 with nonres := true, done := true, home := none }
        else if wait then { r1 with nonres := false, done := false, home := none } else r1
      addFar r2 true s3) s

/-- The checks that every far word makes first: alignment, an outstanding acquire, the limit of 64 requests, what its
own release waits for, and the room of the log ring (12 R317; 14 R334; 24 R493). -/
def farWord (va size logs : Nat) (ord : Order) (k : State → Out) (s : State) : Out :=
  if !(occupied s s.cur) then .fault .noThread
  else if va % size != 0 then faultAt (accessRec 0 1 va) s
  else if acquiring (me s) || 64 ≤ (me s).far.length || logFull s s.cur logs then waitBusy s
  else if (match releaseScope ord with | some sc => !(releaseReady (me s) sc) | none => false) then waitBusy s
  else k s

/-- FLD of `size` bytes (12 R319, 16 R355, R357). -/
def farLoad (size d a cls : Nat) (ord : Order) (nr : Nat) (s : State) : Out :=
  let va := (gOf (me s) a).toNat
  let r : FarReq := { kind := 0, size := size, va := va, reg := d, nr := nr, cls := cls, ord := ord }
  farWord va size (if nr = 0 then 1 else 2) ord (fun s =>
    let id := (me s).id
    match tileXlat (tileOf s.cur) id.part id.vf id.pasid va s with
    | (.miss, s1) => waitAsked s s1
    | (.refused, s1) => faultAt (accessRec 0 2 va) s1
    | (.page q rd _, s1) =>
      if !rd then issueFar { r with nonres := true, done := true } (countNres (tileOf s.cur) id.part s1)
      else match homeOf s1 id.part q size with
        | .error c => faultAt (accessRec 0 c va) s1
        | .ok h => issueFar { r with home := some h } s1) s

/-- FLD.W (12 R319). -/
def execFldW (d a cls : Nat) (ord : Order) (nr : Nat) (s : State) : Out := farLoad 4 d a cls ord nr s

/-- FLD.D (12 R319). -/
def execFldD (d a cls : Nat) (ord : Order) (nr : Nat) (s : State) : Out := farLoad 8 d a cls ord nr s

/-- Whether the host link carries an operation of FAMO (12 R317). -/
def hostCarries (op : FOp) : Bool :=
  match op with
  | .add => true
  | .swap => true
  | .cas => true
  | _ => false

/-- Whether a request is a FAMO that its home cannot perform: the host link does not carry its operation. -/
def hostRefuses (r : FarReq) (h : Home) : Bool :=
  match h with
  | .host _ => r.kind = 2 && !(hostCarries r.op)
  | _ => false

/-- An FST or FAMO that has passed its first checks: it waits for its translation, is refused, is held for its page, or
issues to its home (12 R317, 16 R355, R358). -/
def farWrite (r : FarReq) (s : State) : Out :=
  match tileWrite s.cur r.va r.size s with
  | (.ok h, s1) => if hostRefuses r h then faultAt (accessRec 0 3 r.va) s1 else issueFar { r with home := some h } s1
  | (.error e, s1) =>
    if e = onTheWay then waitAsked s s1
    else if e = noPermission || e = migrating then
      match holdAccess s.cur 0 e (r.va / 4096) s1 with
      | .ok (n, s2) => issueFar { r with held := n } s2
      | .error _ => waitAsked s s1
    else faultAt (accessRec 0 e r.va) s1

/-- FST of `size` bytes (12 R320). -/
def farStore (size d a cls : Nat) (ord : Order) (s : State) : Out :=
  let va := (gOf (me s) a).toNat
  farWord va size 0 ord (fun s =>
    farWrite { kind := 1, size := size, va := va, b := gOf (me s) d, cls := cls, ord := ord } s) s

/-- FST.W (12 R320). -/
def execFstW (d a cls : Nat) (ord : Order) (s : State) : Out := farStore 4 d a cls ord s

/-- FST.D (12 R320). -/
def execFstD (d a cls : Nat) (ord : Order) (s : State) : Out := farStore 8 d a cls ord s

/-- FAMO of `size` bytes: for cas, gd names the pair of registers and the failure order (12 R321). -/
def farAtomic (size d a cls : Nat) (ord : Order) (op : FOp) (s : State) : Out :=
  let va := (gOf (me s) a).toNat
  let n := if op = .cas then d / 2 * 2 else d
  farWord va size 1 ord (fun s =>
    farWrite { kind := 2, size := size, va := va, op := op, b := gOf (me s) n,
               c := if op = .cas then gOf (me s) (n + 1) else 0, reg := n, cls := cls, ord := ord,
               failAcq := op = .cas && d % 2 = 1 } s) s

/-- FAMO.W (12 R321). -/
def execFamoW (d a cls : Nat) (ord : Order) (op : FOp) (s : State) : Out := farAtomic 4 d a cls ord op s

/-- FAMO.D (12 R321). -/
def execFamoD (d a cls : Nat) (ord : Order) (op : FOp) (s : State) : Out := farAtomic 8 d a cls ord op s

/-! ## Fences (14 R331, R337) -/

/-- Whether every far request whose class a mask names has performed; a speculative one is not waited for
(14 R331, R340). -/
def maskQuiet (t : Thread) (mask : Nat) : Bool :=
  t.far.all fun r => r.done || hasUse .speculative r || !(bitOf mask r.cls)

/-- FENCE.C (14 R331). -/
def execFenceC (mask : Nat) (s : State) : Out :=
  if !(occupied s s.cur) then .fault .noThread
  else if !(maskQuiet (me s) mask) then waitBusy s
  else doneC 2 (fun t => t) s

/-- FENCE.S: it acts also as FENCE.C of every class, which waits for all that any scope requires (14 R337, R339). -/
def execFenceS (_sc : Scope) (s : State) : Out :=
  if !(occupied s s.cur) then .fault .noThread
  else if !(maskQuiet (me s) 0xFFFF) then waitBusy s
  else doneC 2 (fun t => t) s

/-! ## Performing (12 R319-R322; 14 R341, R342) -/

/-- The new value of a FAMO (12 R321). -/
def famoNew (op : FOp) (size old b c : Nat) : Nat :=
  let m := 2 ^ (8 * size)
  let less := fun x y => decide (signed (8 * size) x < signed (8 * size) y)
  match op with
  | .add => (old + b) % m
  | .swap => b % m
  | .cas => if old = b % m then c % m else old
  | .band => old &&& (b % m)
  | .bor => old ||| (b % m)
  | .bxor => old ^^^ (b % m)
  | .min => if less old (b % m) then old else b % m
  | .max => if less old (b % m) then b % m else old

/-- The state with request `i` of a thread changed. -/
def modFar (tid i : Nat) (f : FarReq → FarReq) (s : State) : State :=
  modThr tid (fun t => { t with far := modAt f i t.far }) s

/-- The values of an aligned word at a home within the last 1000 ns, each with whether it is poisoned, the present one
first (14 R342). -/
def recentValues (s : State) (h : Home) (n : Nat) : List (Nat × Bool) :=
  let pick := fun (host : Bool) (a : Nat) =>
    (s.old.filter fun o => o.host = host && o.addr = a / 8 * 8 && decide (nsNow s ≤ o.ns + 1000)).map fun o =>
      (field (toBytes 8 o.value.toNat) (a % 8) n, o.bad)
  (leNat (homeRead s h n).1, (homeRead s h n).2) :: (match h with
    | .hbm o => pick false o
    | .host a => pick true a
    | _ => [])

/-- The value an FLD takes and whether it is poisoned: the present one, and for a speculative FLD any of the last 1000 ns,
a free choice (14 R342; log entry 20). -/
def loadValue (r : FarReq) (h : Home) (s : State) : (Nat × Bool) × State :=
  let vs := recentValues s h r.size
  if hasUse .speculative r then
    (vs.getD (Config.freeChoice s.freeCount % vs.length) (vs.headD (0, false)), { s with freeCount := s.freeCount + 1 })
  else (vs.headD (0, false), s)

/-- Whether the atomic unit may perform a FAMO as one update with another: both commutative with the same operation, or
both adds of use quantum, at one location (14 R341). -/
def joinable (r q : FarReq) : Bool :=
  q.kind = 2 && q.op = r.op && q.size = r.size &&
  ((hasUse .commutative r && hasUse .commutative q) || (hasUse .quantum r && hasUse .quantum q && r.op = .add))

/-- A request put in its place in the order of issue. -/
def insertFar (x : Nat × Nat × FarReq) : List (Nat × Nat × FarReq) → List (Nat × Nat × FarReq)
  | [] => [x]
  | y :: rest => if x.2.2.nc ≤ y.2.2.nc then x :: y :: rest else y :: insertFar x rest

/-- The other FAMOs that the atomic unit could join with a request at its home, in the order of issue (14 R341). -/
def joinables (s : State) (tid i : Nat) (r : FarReq) (h : Home) : List (Nat × Nat × FarReq) :=
  (s.threads.flatMap fun e => (upFrom 0 e.2.far.length).filterMap fun j =>
    let q := e.2.far.getD j {}
    if !(e.1 = tid && j = i) && !q.done && !q.sent && q.held = 0 && q.home = some h && joinable r q then some (e.1, j, q)
    else none).foldr insertFar []

/-- The FAMOs that perform as one update with a request, it first, and how many free choices that takes: each of the
others that waits for none but those already chosen joins or does not, by a free choice (14 R341; log entry 20). -/
def joined (s : State) (tid i : Nat) (r : FarReq) (h : Home) : List (Nat × Nat × FarReq) × Nat :=
  (joinables s tid i r h).foldl (fun l x =>
    let waits := (performsAfter s x.1 x.2.1 x.2.2).filter fun y => !(l.1.any fun z => (z.1, z.2.1) = y)
    if !waits.isEmpty then l
    else (if Config.freeChoice (s.freeCount + l.2) % 2 = 1 then l.1 ++ [x] else l.1, l.2 + 1)) ([(tid, i, r)], 0)

/-- An element put in a list at a place. -/
def insertPlace (x : Nat × Nat × FarReq) : Nat → List (Nat × Nat × FarReq) → List (Nat × Nat × FarReq)
  | _, [] => [x]
  | 0, l => x :: l
  | n + 1, y :: rest => y :: insertPlace x n rest

/-- A batch in the order in which its values are handed out: any order, by free choices from number `n` on (14 R341; log
entry 20). -/
def handOut (n : Nat) (l : List (Nat × Nat × FarReq)) : List (Nat × Nat × FarReq) :=
  ((l.zip (upFrom 0 l.length)).foldl (fun q x => insertPlace x.1 (Config.freeChoice (n + x.2) % (x.2 + 1)) q) [])

/-- The values that requests return that perform as one update of a location that holds `old`, and what it holds after:
merged ones return what it held before, and those of a batch each the sum of those before it (12 R321; 14 R341). -/
def oneUpdate (batch : Bool) (old : Nat) (l : List (Nat × Nat × FarReq)) : List ((Nat × Nat) × Nat) × Nat :=
  l.foldl (fun q x =>
    let r := x.2.2
    (q.1 ++ [((x.1, x.2.1), if batch then q.2 else old)], famoNew r.op r.size q.2 r.b.toNat r.c.toNat)) ([], old)

/-- The state after a FAMO has performed at a home together with those that join it: the location moves straight to the
result of all of them (12 R321; 14 R341); on poison none is performed (16 R377). -/
def performFamo (tid i : Nat) (r : FarReq) (h : Home) (s : State) : State :=
  let (l, n) := joined s tid i r h
  let batch := hasUse .quantum r && decide (1 < l.length)
  let order := if batch then handOut (s.freeCount + n) l else l
  let bad := atomBad s h r.size
  let (vs, new) := oneUpdate batch (leNat (homeRead s h r.size).1) order
  let s1 : State := { s with freeCount := s.freeCount + n + (if batch then l.length else 0) }
  let s2 := if bad then s1 else homeWrite (partOf s tid) h (fun _ => false) ((toBytes r.size new).map some) s1
  vs.foldl (fun s x => modFar x.1.1 x.1.2 (fun r => { r with done := true, value := BitVec.ofNat 64 x.2, poison := bad }) s) s2

/-- The state after request `i` has performed at a home of this module or of the host. -/
def performAt (tid i : Nat) (r : FarReq) (h : Home) (s : State) : State :=
  match r.kind with
  | 0 =>
    let (v, s1) := loadValue r h s
    modFar tid i (fun r => { r with done := true, value := BitVec.ofNat 64 v.1, poison := v.2 }) s1
  | 1 =>
    modFar tid i (fun r => { r with done := true })
      (homeWrite (partOf s tid) h (fun _ => false) ((toBytes r.size r.b.toNat).map some) s)
  | _ => performFamo tid i r h s

/-- The deferred fault of a far word (12 R319, 16 R355; 19 R424): the status word names its macro PC. -/
def farRec (r : FarReq) (code cause : Nat) : FaultRec :=
  { code := code, engine := 0, defer := true, addr := BitVec.ofNat 64 r.va
    lo := BitVec.ofNat 64 (cause + r.pc.toNat % 2 ^ 32 * 2 ^ 32) }

/-- The state without request `i`: its word has retired (12 R319-R321). -/
def dropFar (tid i : Nat) (r : FarReq) (s : State) : State :=
  modThr tid (fun t => retire 0 r.wid { t with far := dropAt i t.far }) s

/-- Whether an FLD or FAMO of a thread is at a peer module: no later C word issues before its reply, so that a refusal
finds the C stream at the word (17 R383). -/
def peerWait (t : Thread) : Bool := t.far.any fun r => r.kind != 1 && r.sent && !r.done

/-- A request ends in an access-permission fault: deferred for a held write (16 R355) and a refused store, precise for
an FLD or FAMO that a peer refuses (17 R383). -/
def refuseFar (tid i cause : Nat) (r : FarReq) (s : State) : State :=
  let s1 := dropFar tid i r (leaveHold tid r.held s)
  if (thr s tid).dying then s1
  else if r.sent && r.kind != 1 then
    raise tid (accessRec 0 cause r.va) false (modThr tid (setPc r.pc) s1)
  else raise tid (farRec r 1 cause) false s1

/-- The state after a request performs, or is sent to a peer module (17 R382). A write that was held has then yet to
perform, which a release of any scope waits for (14 R339). -/
def goFar (tid i : Nat) (r : FarReq) (h : Home) (s : State) : State :=
  let s1 := modFar tid i (fun r => { r with held := 0, home := some h }) (leaveHold tid r.held s)
  match h with
  | .peer m pa =>
    emit (.farOut m tid pa r) (modFar tid i (fun q => { q with sent := true, held := if r.held = 0 then 0 else 4 }) s1)
  | h => performAt tid i r h s1

/-- A load of a replaying thread whose recorded outcome is resident: it requests the page and waits (24 R494). -/
def loadAgain (tid i : Nat) (r : FarReq) (s : State) : Out :=
  let id := (thr s tid).id
  match tileXlat (tileOf tid) id.part id.vf id.pasid r.va s with
  | (.miss, s1) => waiting "FAR_REQUEST" s (onlyAsked s s1)
  | (.refused, s1) => .next (refuseFar tid i 2 r s1)
  | (.page q rd _, s1) =>
    if rd then
      match homeOf s1 id.part q r.size with
      | .error c => .next (refuseFar tid i c r s1)
      | .ok h => .next (goFar tid i r h s1)
    else
      let d := dieOf (tileOf tid)
      if batchRoom (die s1 d) && !(pagePending (die s1 d) id.pasid (r.va / 4096)) then
        .next (enterPage d { vf := id.vf, part := id.part, pasid := id.pasid, page := r.va / 4096, w := false } (onlyAsked s s1))
      else waiting "FAR_REQUEST" s (onlyAsked s s1)

/-- A store or an atomic that its page held back is translated again (16 R355, R358). -/
def writeAgain (tid i : Nat) (r : FarReq) (s : State) : Out :=
  match tileWrite tid r.va r.size s with
  | (.ok h, s1) => .next (if hostRefuses r h then refuseFar tid i 3 r s1 else goFar tid i r h s1)
  | (.error e, s1) =>
    if e = onTheWay then waiting "FAR_REQUEST" s (onlyAsked s s1)
    else if e = noPermission || e = migrating then
      match holdAccess tid r.held e (r.va / 4096) (onlyAsked s s1) with
      | .ok (n, s2) => .next (modFar tid i (fun r => { r with held := n }) s2)
      | .error 3 => .next (refuseFar tid i 3 r s1)
      | .error _ => .fault (.notEnabled "FAR_REQUEST")
    else .next (refuseFar tid i e r s1)

/-- Event FAR_REQUEST: request `b` of thread `a`, which no request it must follow holds back, performs at its home
(12 R319-R322). A store has then been acknowledged and is gone. -/
def execFarRequest (s : State) : Out :=
  let tid := s.arg.a
  let i := s.arg.b
  let no : Out := .fault (.notEnabled "FAR_REQUEST")
  match (thr s tid).far[i]? with
  | none => no
  | some r =>
    if r.done || r.sent || r.held = 1 || !(mayPerform s tid i r) then no
    else match r.home with
      | some h => .next (goFar tid i r h s)
      | none => if r.kind = 0 then loadAgain tid i r s else writeAgain tid i r s

/-- The value a word's register receives: zero-extended, or the recorded bits (12 R319, 24 R494). -/
def replyValue (r : FarReq) : Word := (r.forced).getD (BitVec.ofNat 64 (r.value.toNat % 2 ^ (8 * r.size)))

/-- The thread with the registers that a reply lands on noted: a FRZ.WR of the same network cycle does not replace them
(19 R432). -/
def noteReply (now : Nat) (r : FarReq) (t : Thread) : Thread :=
  let m := put r.reg (now + 1) t.replied
  { t with replied := if r.kind = 0 && r.nr != 0 then put (64 + r.nr) (now + 1) m else m }

/-- The state after the reply of request `i` lands: its register and its residency predicate are written and its word
retires; a poisoned reply is a deferred fault and leaves both unchanged (12 R319, R321; 24 R493). -/
def landReply (tid i : Nat) (r : FarReq) (s : State) : State :=
  if r.kind = 1 then dropFar tid i r s
  else if r.poison then
    let s1 := dropFar tid i r s
    if (thr s tid).dying then s1 else raise tid (farRec r 6 0) false s1
  else
    let v := replyValue r
    let bits : Word := if r.nonres then BitVec.allOnes 64 else 0
    let s1 := (r.logs.zip [v, bits]).foldl (fun s e => logFill e.1 e.2 s) s
    let s2 := dropFar tid i r (modThr tid (fun t => setG r.reg v (noteReply s.clock.now r t)) s1)
    if r.kind = 0 && r.nr != 0 then writeP tid 0 r.nr (BitVec.allOnes 64) bits 0 r.pc.toNat s2 else s2

/-- Event FAR_REPLY: the reply of request `b` of thread `a`, which has performed, lands (12 R319). A reply from a peer
module is an input: `v` is the value returned, `flag` says that it is poisoned, and `c` is the cause of a fault where the
peer refuses (17 R382, R383). -/
def execFarReply (s : State) : Out :=
  let tid := s.arg.a
  let i := s.arg.b
  match (thr s tid).far[i]? with
  | none => .fault (.notEnabled "FAR_REPLY")
  | some r =>
    if r.done then .next (landReply tid i r s)
    else if r.sent then
      if s.arg.c != 0 then .next (refuseFar tid i s.arg.c r s)
      else .next (landReply tid i { r with done := true, value := s.arg.v, poison := s.arg.flag } s)
    else .fault (.notEnabled "FAR_REPLY")

/-! ## Barriers (04 R113-R116) -/

/-- The team scope instance of a thread's team: the smallest of tile, quad, die and module that holds every member
(04 R116). -/
def teamScope (s : State) (tid : Nat) : Scope :=
  let ts := ((team s (thr s tid).id.team).members.filter (· < 3456)).map tileOf
  let same := fun (f : Nat → Nat) => ts.all fun x => f x == f (tileOf tid)
  if same id then .tile else if same quadOf then .quad else if same dieOf then .die else .module

/-- Whether the accesses that an arrival of a thread releases have performed, as the scope of its team requires
(04 R116; 14 R334, R339). -/
def arriveReady (s : State) (tid : Nat) : Bool := releaseReady (thr s tid) (teamScope s tid)

/-- BARA: it waits while an arrival of the thread at the barrier is outstanding, and for its release (04 R115). -/
def execBara (n : Nat) (s : State) : Out :=
  appOnly (fun s =>
    if arrivedAt (me s) n then waitFlag (88 + n) s
    else if acquiring (me s) || !(arriveReady s s.cur) then waitBusy s
    else doneCS 1 (arriveBar s.cur n) s) s

/-- The number of the phase that a barrier of a thread's team is in, plus one (04 R113). -/
def phaseNo (s : State) (tid n : Nat) : Nat := (barOf (team s (thr s tid).id.team) n).phase.toNat + 1

/-- A word that waits for the phase whose number, plus one, stands in `cprog` (04 R115). -/
def waitPhase (n : Nat) (s : State) : Out :=
  if phaseNo s s.cur n = (me s).cprog then waitFlag (88 + n) s else doneC 1 (fun t => { t with cprog := 0 }) s

/-- BARW: it waits for the phase of the thread's outstanding arrival, if there is one: that phase alone, whatever arrives
for the thread once it has completed (04 R115). -/
def execBarw (n : Nat) (s : State) : Out :=
  appOnly (fun s =>
    if (me s).cprog != 0 then waitPhase n s
    else if arrivedAt (me s) n then waitFlag (88 + n) (modMe (fun t => { t with cprog := phaseNo s s.cur n }) s)
    else doneC 1 (fun t => t) s) s

/-- BAR: BARA and then BARW as one word; `cprog` says that its arrival is made, and in which phase (04 R115). -/
def execBar (n : Nat) (s : State) : Out :=
  appOnly (fun s =>
    if (me s).cprog != 0 then waitPhase n s
    else if arrivedAt (me s) n then waitFlag (88 + n) s
    else if acquiring (me s) || !(arriveReady s s.cur) then waitBusy s
    else waitFlag (88 + n) (modMe (fun t => { t with cprog := phaseNo s s.cur n }) (arriveBar s.cur n s))) s

end Sys2Proof.Machine
end

