-- ==== Sys2Proof/Machine/Residency.lean ====
section
/-!
DEFINITION. Residency: what the host answers to translation and page requests, shoot-down, PAGE.REQ, migration, the
attribute table, and host accesses through the HBM window (16 R353-R371, R376).
-/
namespace Sys2Proof.Machine

/-! ## PAGE.REQ (16 R362) -/

/-- The pages of a PAGE.REQ from place `k` on are entered, counted in `e`: the count, and the place at which the batch
can take no more. `n` pages are left. -/
def enterPages (d : Nat) (q : PageReq) (k e : Nat) : Nat → State → Nat × Option Nat × State
  | 0, s => (e, none, s)
  | n + 1, s =>
    let x : PageReq := { q with page := (q.page + k) % 2 ^ 52 }
    if pagePending (die s d) x.pasid x.page then enterPages d q (k + 1) e n (enterPage d x s)
    else if batchRoom (die s d) then enterPages d q (k + 1) (e + 1) n (enterPage d x s)
    else (e, some k, s)

/-- PAGE.REQ: the pages it has entered or merged so far stand in `cprog`, as the place reached times 128 with the count
(16 R362; 24 R493). -/
def execPageReq (d a b : Nat) (s : State) : Out :=
  if !(occupied s s.cur) then .fault .noThread
  else if logFull s s.cur 1 then waitBusy s
  else
    let t := me s
    let x := (gOf t b).toNat
    let n := x % 128
    if n = 0 || 64 < n || x / 128 % 2 != 0 || 512 ≤ x then doneCS 2 (setShared d 5 minusOne) s
    else
      let q : PageReq := { vf := t.id.vf, part := t.id.part, pasid := t.id.pasid, page := (gOf t a).toNat / 4096, w := bitOf x 8 }
      let k := t.cprog / 128
      match enterPages (dieOf (tileOf s.cur)) q k (t.cprog % 128) (n - k) s with
      | (e, none, s1) => doneCS 2 (fun s2 => setShared d 5 (BitVec.ofNat 64 e) (modMe (fun t => { t with cprog := 0 }) s2)) s1
      | (e, some k1, s1) => waitBusy (modMe (fun t => { t with cprog := k1 * 128 + e }) s1)

/-! ## The host's answers (16 R353, R355, R360) -/

/-- The units that hold translations: the agents of the four dies, and 4 for the hub's cache. -/
def agents : List Nat := [0, 1, 2, 3, 4]

/-- Whether two ranges meet. -/
def meets (a n b m : Nat) : Bool := decide (a < b + m) && decide (b < a + n)

/-- An answer of the host to the request for a page, where it is one that the bus can carry: the entries it makes, a range
beyond 1 GiB as pieces of 1 GiB, at most `cap` of them, the piece of the page the last (16 R354). -/
def entriesFor (cap pasid page : Nat) (x : XlatAnswer) : Option (List XEntry) :=
  if x.refused then some [{ pasid := pasid, base := page * 4096, size := 4096, refused := true }]
  else if x.size < 4096 || x.size != 2 ^ Nat.log2 x.size || x.base % x.size != 0 || x.target % x.size != 0 ||
      !(meets x.base x.size (page * 4096) 4096) then none
  else if x.size ≤ 2 ^ 30 then some [{ pasid := pasid, base := x.base, size := x.size, target := x.target, r := x.r, w := x.w }]
  else
    let mine := (page * 4096 - x.base) / 2 ^ 30
    let piece := fun (k : Nat) =>
      ({ pasid := pasid, base := x.base + k * 2 ^ 30, size := 2 ^ 30, target := x.target + k * 2 ^ 30, r := x.r, w := x.w } : XEntry)
    some (((upFrom 0 (min cap (x.size / 2 ^ 30))).filter (· != mine)).map piece ++ [piece mine])

/-- An answer's entry put into a unit's cache in the place of those that it meets; the hub keeps only what grants
something (16 R352). -/
def installEntry (u : Nat) (e : XEntry) (g : Die) : Die :=
  let l := g.agent.filter fun x => !(x.pasid = e.pasid && meets x.base x.size e.base e.size)
  if u = 4 && (e.refused || !(e.r || e.w)) then hubTold e { g with agent := l }
  else { g with agent := lruPut (if u = 4 then 4096 else 16384) e l }

/-- Event TRANSLATION_COMPLETION: the host answers (`xlat`) the ATS request of agent `a` for page `c` of process `b`. A
completion for a request sent before an invalidation that covers its page is discarded, and the request is sent
again; it comes for function `d`, and one that fails IDE integrity there is dropped (25 R501); otherwise a miss that waits for a request to complete becomes one (16 R353, R355,
R364). -/
def execTranslationCompletion (s : State) : Out :=
  let u := s.arg.a
  let key := (s.arg.b, s.arg.c)
  let g := die s u
  if !(g.reqs.contains key) then .fault (.notEnabled "TRANSLATION_COMPLETION")
  else fromHost s.arg.d (fun s =>
  if g.stale.contains key then
    .next (emit (onStream s s.arg.d (.atsRequest u s.arg.d s.arg.b s.arg.c)) (modDie u (fun g => { g with stale := g.stale.filter fun x => x != key }) s))
  else match entriesFor (if u = 4 then 4096 else 16384) s.arg.b s.arg.c s.arg.xlat with
    | none => .fault (.notEnabled "TRANSLATION_COMPLETION")
    | some es =>
      .next (nextMiss u (modDie u (fun g => es.foldl (fun g e => installEntry u e g) { g with reqs := g.reqs.filter fun x => x != key }) s))) s

/-- The accesses of a die that wait for a page to change in some way take a new standing in their hold list
(16 R355, R358). `hit` tells them by partition, process and page. -/
def wakeHeld (d held : Nat) (hit : Nat → Nat → Nat → Bool) (s : State) : State :=
  let mine := fun (tid : Nat) => dieOf (tileOf tid) = d
  let far := fun (id : Ident) (r : FarReq) =>
    if r.held = 1 && hit id.part id.pasid (r.va / 4096) then { r with held := held } else r
  let copy := fun (id : Ident) (c : Copy) => if c.held = 1 && hit id.part id.pasid c.page then { c with held := held } else c
  { s with
    threads := mapVals (fun tid t =>
      if mine tid then { t with far := t.far.map (far t.id), copies := t.copies.map (copy t.id) } else t) s.threads
    packets := s.packets.map fun p =>
      if dieOf p.src = d && p.held = 1 && hit p.part p.pasid p.page then { p with held := held } else p }

/-- The state after an entry is taken from a cache where a test tells it. -/
def purge (bad : XEntry → Bool) (s : State) : State :=
  { s with dies := mapVals (fun _ g => { g with agent := g.agent.filter fun e => !(bad e), told := g.told.filter fun e => !(bad e) }) s.dies
           tiles := mapVals (fun _ t => { t with cache := t.cache.filter fun e => !(bad e) }) s.tiles }

/-- The pages of a group, or of a batch, are refused: a refused entry for each, and the accesses that the die holds for
it go on to their fault (16 R360). -/
def refusePages (d : Nat) (qs : List PageReq) (s : State) : State :=
  let s1 := qs.foldl (fun s q =>
    let s1 := installRefused d q.pasid q.page s
    if q.hub then installRefused 4 q.pasid q.page s1 else s1) s
  wakeHeld d 3 (fun _ pasid page => qs.any fun q => q.pasid = pasid && q.page = page) s1

/-- The closed batch of a die is sent as far as it can be, and a full batch that waited for it closes (16 R359). -/
def settleBatch (d : Nat) (s : State) : State :=
  let s1 := sendGroups d 64 s
  if (die s1 d).batch.length = 64 then closeBatch d s1 else s1

/-- Every die's batcher goes on. -/
def settleBatches (s : State) : State := [0, 1, 2, 3].foldl (fun s d => settleBatch d s) s

/-- The effect of a PRG response with Success on a page: the entries that lack what was asked are cleared, so that the
accesses held for it ask the host again, and a unit of the hub knows that it was granted (16 R355, R360). -/
def grantPage (s : State) (q : PageReq) : State :=
  let s1 := purge (fun e => covering q.pasid (q.page * 4096) e && !e.refused && ((!e.r && !e.w) || (q.w && !e.w))) s
  if q.hub && q.w then modDie 4 (fun g => { g with granted := (q.pasid, q.page) :: g.granted }) s1 else s1

/-- Event PRG_RESPONSE: the host answers group `b` of virtual function `a` with `code` (16 R355, R359, R360); an answer that
fails IDE integrity is dropped (25 R501). -/
def execPrgResponse (s : State) : Out :=
  let vf := s.arg.a
  let mine := fun (g : PrgGroup) => g.vf = vf && g.idx = s.arg.b
  match [0, 1, 2, 3].find? fun d => (die s d).groups.any mine with
  | none => .fault (.notEnabled "PRG_RESPONSE")
  | some d => fromHost vf (fun s =>
    let qs := ((die s d).groups.filter mine).flatMap PrgGroup.pages
    let s1 := modDie d (fun g => { g with groups := g.groups.filter fun x => !(mine x) }) s
    match s.arg.code with
    | .success =>
      let s2 := qs.foldl grantPage s1
      .next (settleBatches (wakeHeld d 3 (fun _ pasid page => qs.any fun q => q.pasid = pasid && q.page = page) s2))
    | .invalid => .next (settleBatches (refusePages d qs s1))
    | .failure =>
      let off := fun (q : PageReq) => q.vf = vf
      let s2 := refusePages d qs { s1 with refusedVf := addNat vf s1.refusedVf }
      .next (settleBatches ([0, 1, 2, 3].foldl (fun s e =>
        let g := die s e
        refusePages e ((g.batch ++ g.closed ++ g.ready.flatMap PrgGroup.pages).filter off) (modDie e (fun g => { g with
          batch := g.batch.filter fun q => !(off q), closed := g.closed.filter fun q => !(off q)
          ready := g.ready.filter fun r => r.vf != vf }) s)) s2))) s

/-- Event PAGE_REQUEST_ENABLE: the host enables the page-request interface of virtual function `a` again; with `flag` it
writes `b` as the function's page-request allocation (16 R359, R360). -/
def execPageRequestEnable (s : State) : Out :=
  fromHost s.arg.a (fun s => .next (if s.arg.flag then settleBatches { s with prgAlloc := put s.arg.a s.arg.b s.prgAlloc }
    else { s with refusedVf := delNat s.arg.a s.refusedVf })) s

/-- Event BATCH_TIMER: the batch timer of die `a` expires, PRTIMER of the partition of its first page after that page
entered, and the batch closes (16 R359). -/
def execBatchTimer (s : State) : Out :=
  let g := die s s.arg.a
  match g.batch with
  | [] => .fault (.notEnabled "BATCH_TIMER")
  | q :: _ =>
    if !(batchWaits g) && decide (g.batchNs + (part s q.part).regs.prtimer ≤ nsNow s) then .next (closeBatch s.arg.a s)
    else .fault (.notEnabled "BATCH_TIMER")

/-! ## Shoot-down (16 R364-R366) -/

/-- Whether an invalidation of a process, or of all, and a range covers a page. -/
def invalHits (pasid : Option Nat) (va size p page : Nat) : Bool :=
  (pasid.isNone || pasid = some p) && meets va size (page * 4096) 4096

/-- Whether a copy has a row at a peer module (17 R382). -/
def atPeer (c : Copy) : Bool :=
  !c.acks.isEmpty || !c.buf.peers.isEmpty || c.resp.any (fun w => !w.peers.isEmpty)

/-- The accesses of a die that have translated a page that an invalidation covers and have not performed at their home:
far requests and packets under way, and copies with a row at a peer module (16 R364; 17 R382). -/
def usersOf (s : State) (d : Nat) (hit : Nat → Nat → Bool) : List (Nat × Nat) :=
  (s.threads.flatMap fun e =>
    if dieOf (tileOf e.1) != d then []
    else
      (e.2.far.filterMap fun r =>
        if !r.done && r.home.isSome && hit e.2.id.pasid (r.va / 4096) then some (e.1, r.wid) else none) ++
      (e.2.copies.filterMap fun c =>
        if atPeer c then some (e.1, c.wid) else none)) ++
  (s.packets.filterMap fun p =>
    if dieOf p.src = d && p.dkind = 3 && p.held = 0 && p.tr.any (fun x => hit p.pasid x.1) then some (packetNo p, p.seq.toNat)
    else none)

/-- The accesses of units of the hub that wait at a peer's window with the translation of a page that an invalidation
covers, by their numbers (16 R364; 17 R382). -/
def hubUsers (s : State) (hit : Nat → Nat → Bool) : List Nat :=
  ((s.hub.asked ++ s.hub.wrote).filter fun x => hit x.pasid (x.va / 4096)).map HubAccess.no

/-- Whether an access of a unit of the hub that an invalidation waits for is still under way. -/
def hubUnder (s : State) (n : Nat) : Bool := (s.hub.asked ++ s.hub.wrote).any fun x => x.no = n && x.cause = 0

/-- Whether an access that an invalidation waits for is still under way. -/
def stillUnder (s : State) (x : Nat × Nat) : Bool :=
  if x.1 < 3456 then
    let t := thr s x.1
    (t.far.any fun r => r.wid = x.2 && !r.done) ||
      t.copies.any fun c => c.wid = x.2 && atPeer c
  else s.packets.any fun p => packetNo p = x.1 && p.seq.toNat = x.2 && p.dkind = 3 && !p.tr.isEmpty

/-- The writes that the migrations of a partition hold go on, whichever process they are of (16 R358, R367). -/
def wakePart (p : Nat) (s : State) : State := [0, 1, 2, 3].foldl (fun s d => wakeHeld d 2 (fun q _ _ => q = p) s) s

/-- The migrations that a driver has acknowledged end with the invalidation of their page, and the writes they held go
on (16 R367). -/
def endMigrations (hit : Nat → Nat → Bool) (s : State) : State :=
  let isOver := fun (m : MigCmd) => m.stage = 6 && hit m.pasid (m.va / 4096)
  s.parts.foldl (fun s e =>
    if e.2.migs.any isOver then
      wakePart e.1 (modPart e.1 (fun pt => { pt with migs := pt.migs.filter fun m => !(isOver m) }) s)
    else s) s

/-- Event ATS_INVALIDATION: the host invalidates `c` bytes at address `b` of process `a`, or of every process where
`flag` is set. Every covering entry is removed from the agents, the hub's cache and the tiles; requests outstanding for
a covered page will be sent again; accesses held for one translate again; and each die's agent waits for what used
the entries (16 R358, R364, R365). A host has at most 32 of them outstanding (R354); one of function `d` that fails IDE
integrity is dropped (25 R501). -/
def execAtsInvalidation (s : State) : Out :=
  let pasid := if s.arg.flag then none else some s.arg.a
  let va := s.arg.b
  let size := s.arg.c
  let hit := invalHits pasid va size
  let bad := fun (e : XEntry) => (pasid.isNone || pasid = some e.pasid) && meets va size e.base e.size
  let users := [0, 1, 2, 3].map fun d => (d, usersOf s d hit)
  if s.dies.any fun e => 32 ≤ e.2.invals.length then .fault (.notEnabled "ATS_INVALIDATION") else fromHost s.arg.d (fun s =>
  let s1 := purge bad s
  let s2 := agents.foldl (fun s u => modDie u (fun g => { g with
    stale := (g.reqs.filter fun x => hit x.1 x.2) ++ g.stale.filter fun x => !(hit x.1 x.2)
    granted := g.granted.filter fun x => !(hit x.1 x.2) }) s) s1
  let units := hubUsers s hit
  let s3 := users.foldl (fun s x => wakeHeld x.1 2 (fun _ => hit) (modDie x.1 (fun g => { g with
    invals := g.invals ++ [{ pasid := pasid, va := va, size := size, waits := x.2, hub := units }] }) s)) s2
  .next (endMigrations hit s3)) s

/-- Event INVALIDATION_COMPLETION: every access that used an entry which the oldest invalidation of agent `a` removed
has performed, and the agent sends the completion (16 R364, R366). -/
def execInvalidationCompletion (s : State) : Out :=
  match (die s s.arg.a).invals with
  | i :: rest =>
    if i.waits.any (stillUnder s) || i.hub.any (hubUnder s) then .fault (.notEnabled "INVALIDATION_COMPLETION")
    else .next (emit (.invalidationDone s.arg.a i.va i.size) (modDie s.arg.a (fun g => { g with invals := rest }) s))
  | [] => .fault (.notEnabled "INVALIDATION_COMPLETION")

/-! ## Migration (16 R367-R370) -/

/-- The commands that stand in a partition's migration queue: one that its driver has acknowledged has left it. -/
def queuedMigs (pt : Partition) : List MigCmd := pt.migs.filter fun m => m.stage != 6

/-- The migration number after a number: 32 bits, from 1, wrapping past 0 (16 R370). -/
def nextMig (m : BitVec 32) : BitVec 32 := if m + 1 = 0 then 1 else m + 1

/-- The effect of MIGRATE (16 R370). -/
def enterMigrate (va deadline : Nat) (s : State) : Word × State :=
  let p := partOf s s.cur
  let pt := part s p
  if va % 4096 != 0 then (neg 2, s)
  else if 256 ≤ (queuedMigs pt).length then (neg 1, s)
  else
    let c : MigCmd := { pasid := (me s).id.pasid, va := va, deadline := deadline, num := pt.migNext, vf := (me s).id.vf }
    (BitVec.ofNat 64 pt.migNext.toNat, modPart p (fun pt => { pt with migs := pt.migs ++ [c], migNext := nextMig pt.migNext }) s)

/-- MIGRATE (16 R370, 24 R493). -/
def execMigrate (d a b : Nat) (s : State) : Out :=
  if !(occupied s s.cur) then .fault .noThread
  else if logFull s s.cur 1 then waitBusy s
  else
    let va := (gOf (me s) a).toNat
    let dl := (gOf (me s) b).toNat
    doneCS 2 (fun s1 => let r := enterMigrate va dl s1; setShared d 5 r.1 r.2) s

/-- The command of a partition that the migration agent works on: the one it has begun, or the one with the earliest
deadline, the first accepted among equals (16 R367). -/
def nextCommand (pt : Partition) : Option MigCmd :=
  match pt.migs.find? fun m => (0 < m.stage && m.stage < 5) || m.stage = 7 with
  | some m => some m
  | none => pt.migs.foldl (fun best m =>
      if m.stage != 0 then best
      else match best with
        | none => some m
        | some b => if m.deadline < b.deadline then some m else best) none

/-- The state with the command of a number changed. -/
def modMig (p : Nat) (num : BitVec 32) (f : MigCmd → MigCmd) (s : State) : State :=
  modPart p (fun pt => { pt with migs := pt.migs.map fun m => if m.num = num then f m else m }) s

/-- A migration ends without a remap: its writes go to the old translation and the abandoned count rises; `f` says
what becomes of the command (16 R367, R369). -/
def giveUp (p : Nat) (f : List MigCmd → List MigCmd) (s : State) : State :=
  wakePart p (modPart p (fun pt => { pt with
    migs := f pt.migs, stats := { pt.stats with aband := satAdd 65535 pt.stats.aband 1 } }) s)

/-- The commands without one. -/
def withoutMig (m : MigCmd) (l : List MigCmd) : List MigCmd := l.filter fun x => x.num != m.num

/-- A migration that its driver has declined (16 R367). -/
def abandon (p : Nat) (m : MigCmd) (s : State) : State := giveUp p (withoutMig m) s

/-- A migration whose copy has failed: it waits only for its kind-3 record, with `flags` (16 R369). -/
def failMig (p : Nat) (m : MigCmd) (flags : Nat) (s : State) : State :=
  giveUp p (fun l => l.map fun x => if x.num = m.num then { x with stage := 7, flags := flags, sent := false } else x) s

/-- Whether some bytes at a home are host memory that answers with Unsupported Request or Completer Abort (16 R369; log
entry 115). -/
def hostRejects (s : State) (h : Home) (n : Nat) : Bool :=
  match h with
  | .host a => s.hostUr.any fun x => decide (x.1 < a + n) && decide (a < x.1 + x.2)
  | _ => false

/-- The end of step 4 of a migration: a poisoned source ends it, and otherwise the copy is made (16 R367, R369). -/
def pageCopied (p : Nat) (m : MigCmd) (bad : Bool) (s : State) : State :=
  if bad then failMig p m 4 s else modMig p m.num (fun m => { m with stage := 4, sent := false }) s

/-- Step 4 of a migration whose source is at a home: 4096 bytes are copied to the frame (16 R367); a source that cannot be
read or a frame that cannot be written ends it (R369). A frame in a peer's window is written once the peer has
acknowledged it (17 R382). -/
def copyPage (p : Nat) (m : MigCmd) (src : Home) (s : State) : State :=
  let (bs, bad) := homeRead s src 4096
  let go := fun (h : Home) =>
    let s1 := hubWrite (.mig m.num) p m.pasid m.va h (fun _ => bad) (bs.map some) 0 (countReads p (hbmPlace src 4096) s)
    if hubBusy s1 (.mig m.num) p then modMig p m.num (fun m => { m with sent := true, flags := if bad then 4 else 0 }) s1
    else pageCopied p m bad s1
  if hostRejects s src 4096 then failMig p m 2 s
  else match homeOf s p m.frame 4096 with
  | .ok (.peer w pa) => if boundTo s p w then go (.peer w pa) else failMig p m 2 s
  | .ok h => if hostRejects s h 4096 then failMig p m 2 s else go h
  | .error _ => failMig p m 2 s

/-- Step 5 of a migration, once the ring has room: a kind-2 record, or the kind-3 record of a copy that has failed, with
which the command leaves (16 R361, R367, R369). -/
def recordMig (p : Nat) (m : MigCmd) (s : State) : State :=
  let put_ := fun (kind flags : Nat) (s : State) =>
    flqWrite p (flqRec kind flags p m.vf m.pasid m.va m.num.toNat 0 (BitVec.ofNat 64 m.frame)) s
  if m.stage = 7 then put_ 3 m.flags (modPart p (fun pt => { pt with migs := withoutMig m pt.migs }) s)
  else modMig p m.num (fun m => { m with stage := 5 }) (put_ 2 0 s)

/-- Event MIGRATION_COMMAND: the migration agent takes the next command of partition `a` a step further. It waits for a
frame, for its page, for a peer's data and acknowledgement, and for the room that its record needs (16 R361, R367, R369). -/
def execMigrationCommand (s : State) : Out :=
  let p := s.arg.a
  let no : Out := .fault (.notEnabled "MIGRATION_COMMAND")
  match nextCommand (part s p) with
  | none => no
  | some m =>
    if m.stage = 0 then
      match (part s p).frames with
      | [] => no
      | f :: rest => .next (modMig p m.num (fun m => { m with stage := 1, frame := f }) (modPart p (fun pt => { pt with frames := rest }) s))
    else if 4 ≤ m.stage then (if flqRoomFor s p 1 then .next (recordMig p m s) else no)
    else if m.sent then
      if (hubRefused s (.mig m.num) p).isSome then .next (failMig p m 2 (noteRefused (.mig m.num) p s))
      else if hubBusy s (.mig m.num) p then no
      else .next (pageCopied p m (m.flags != 0) s)
    else
      let go := if m.stage < 3 then hubHome p m.vf m.pasid m.va 4096 false s
        else hubGo (.mig m.num) p m.vf m.pasid m.va 4096 false s
      match go with
      | (.wait, s1) => waiting "MIGRATION_COMMAND" s (onlyAsked s s1)
      | (.fault _, s1) => .next (failMig p m 2 s1)
      | (.home h, s1) =>
        let target := match (hubXlat m.vf m.pasid m.va s1).1 with
          | .page t _ _ => t
          | _ => 0
        if m.stage < 3 then .next (modMig p m.num (fun m => { m with stage := 3, target := target }) s1)
        else .next (copyPage p m h s1)

/-- Event MIGACK: the driver of partition `a` acknowledges migration `b`, or declines it where `flag` is set. A number
with no waiting command is ignored. An acknowledgement after the deadline counts a slip; the writes stay held until the
page is invalidated (16 R367, R368, R379). -/
def execMigack (s : State) : Out :=
  let p := s.arg.a
  match (part s p).migs.find? fun m => m.stage = 5 && m.num.toNat = s.arg.b with
  | none => .next s
  | some m =>
    let s1 := if m.deadline < tickOf s p then
        modPart p (fun pt => { pt with stats := { pt.stats with slip := satAdd (2 ^ 32 - 1) pt.stats.slip 1 } }) s
      else s
    .next (if s.arg.flag then abandon p m s1 else modMig p m.num (fun m => { m with stage := 6 }) s1)

/-- Event FRAMEPUSH: the driver pushes frame address `b` to the pool of partition `a`; it is ignored where the pool
holds 256 frames or the address is no multiple of 4096 (16 R367, R379). -/
def execFramepush (s : State) : Out :=
  .next (modPart s.arg.a (fun pt =>
    if 256 ≤ pt.frames.length || s.arg.b % 4096 != 0 then pt else { pt with frames := pt.frames ++ [s.arg.b] }) s)

/-- Event PPATWR: the driver of partition `a` sets the compression bit of HBM page `b` to `flag`; a page outside the
partition's slice is ignored; an access of this network cycle sees the old bit (16 R371, R379). -/
def execPpatwr (s : State) : Out :=
  let c := (part s s.arg.a).cfg
  let o := s.arg.b * 4096
  let now1 := s.clock.now + 1
  let old := match find s.hbm.attrOld s.arg.b with
    | some x => if x.1 = now1 then x.2 else look 0 s.hbm.attr s.arg.b
    | none => look 0 s.hbm.attr s.arg.b
  if (find s.parts s.arg.a).isSome && c.hbmBase * 2 ^ 30 ≤ o && o < (c.hbmBase + c.hbmSize) * 2 ^ 30 then
    .next { s with hbm := { s.hbm with
      attr := put0 0 s.arg.b s.arg.flag.toNat s.hbm.attr, attrOld := put s.arg.b (now1, old) s.hbm.attrOld } }
  else .next s

/-! ## Host accesses through the HBM window (16 R356, R375, R376) -/

/-- The partition whose slice holds an offset of HBM, if there is one: its counters take a read-modify-write. -/
def sliceOwner (s : State) (o : Nat) : Nat :=
  match s.parts.find? fun e => e.2.cfg.hbmBase * 2 ^ 30 ≤ o && o < (e.2.cfg.hbmBase + e.2.cfg.hbmSize) * 2 ^ 30 with
  | some e => e.1
  | none => 24

/-- Where the attribute table begins: the top 192 MiB below 768 GiB (16 R356). -/
def attrBase : Nat := 768 * 2 ^ 30 - 192 * 2 ^ 20

/-- The key under which a block of HBM is stored that no partition owns any longer, if one is: that of the partition that its
slice belonged to, until the block is written again (25 R502). -/
def deadKey (h : Hbm) (b : Nat) : Option Nat := if h.raw.contains b then none else find h.dead (b * 256 / 2 ^ 30)

/-- The bytes of a block of HBM as its sectors are stored under a key: encryption follows compression. DESIGN CHOICE (log entry
121): what stands past the payload is zero before encryption (16 R372; 25 R502). -/
def storedBlock (h : Hbm) (k b : Nat) : List Byte :=
  let p := padTo 256 (payload (look 0 h.mode b) (readBytes h.mem (b * 256) 256))
  ((cut 32 8 p).zip (upFrom (b * 8) 8)).flatMap fun x => padTo 32 (Config.xts (Config.key k) x.2 x.1)

/-- HBM with a block that no partition owns laid open: its bytes are those that were stored, since its key is gone. -/
def layOpen (h : Hbm) (b : Nat) : Hbm :=
  match deadKey h b with
  | none => h
  | some k =>
    { h with mem := writeBytes h.mem (b * 256) (storedBlock h k b), mode := put0 0 b 0 h.mode, raw := addNat b h.raw }

/-- HBM with the blocks of a run of offsets laid open. -/
def layOpenAll (h : Hbm) (o n : Nat) : Hbm :=
  if h.dead.isEmpty then h else (upFrom (o / 256) ((o + n - 1) / 256 + 1 - o / 256)).foldl layOpen h

/-- Event HOST_WINDOW_ACCESS: the host reads `b` bytes at offset `a` of the HBM window, or with `flag` writes `bytes`
there; `c` says that the data it writes is poisoned. Readers receive decoded bytes. The attribute table reads as it
stands and is written through PPATWR alone (16 R356, R371, R375, R376). A block whose key is gone is read as it is stored
(25 R502; DESIGN CHOICE, log entry 121), and in recovery no window is exposed (25 R497). -/
def execHostWindowAccess (s : State) : Out :=
  let o := s.arg.a
  let n := if s.arg.flag then s.arg.bytes.length else s.arg.b
  let h := layOpenAll s.hbm o n
  if 768 * 2 ^ 30 < o + n || n = 0 then .fault (.notEnabled "HOST_WINDOW_ACCESS")
  else if s.sec.life = .recovery then .next s
  else if s.arg.flag then
    if attrBase < o + n then .next s
    else .next (hbmWrite (sliceOwner s o) (fun _ => s.arg.c != 0) o (s.arg.bytes.map some) { s with hbm := h })
  else if attrBase < o + n then
    .next (emit (.windowData ((upFrom o n).map fun x =>
      if x < attrBase then readByte h.mem x else BitVec.ofNat 8 (look 0 s.hbm.attr (x - attrBase))) false) s)
  else .next (emit (.windowData (readBytes h.mem o n) (poisonedIn s.hbm.poison o n)) (countReads (sliceOwner s o) [(o, n)] s))

end Sys2Proof.Machine
end

