-- ==== Sys2Proof/Machine/Monitors.lean ====
section
/-!
DEFINITION. Conservation monitors: arming with its scan, reading, the reference, and the completion of a barrier phase
with the check that is made there (04 R113, R114; 21 R452-R460).
-/
namespace Sys2Proof.Machine

/-- A monitor of the tile of the thread at issue. -/
def monAt (s : State) (i : Nat) : Option Monitor := find (tile s (tileOf s.cur)).mons i

/-- Whether a monitor belongs to the thread at issue. -/
def monMine (s : State) (m : Monitor) : Bool := m.owner = ctxOf s.cur

/-- The state with a monitor of the tile of the thread at issue put in place. -/
def putMon (i : Nat) (m : Monitor) (s : State) : State :=
  modTile (tileOf s.cur) (fun t => { t with mons := put i m t.mons }) s

/-- A monitor word: no word of a tiller, and an access of class 15; g[gb] must hold nothing outside `allowed`
(04 R93; 21 R458). -/
def monWord (d b allowed : Nat) (k : Nat → State → Out) (s : State) : Out :=
  appOnly (fun s =>
    let x := (gOf (me s) b).toNat
    if classHeld (me s) 15 then waitBusy s
    else if x &&& allowed != x then doneC 2 (setG d minusOne) s
    else k x s) s

/-- A value of FP32 in units of 2 to the power -149, where it is finite (21 R453). -/
def units (x : Nat) : Option Int :=
  match classify fp32 x with
  | .fin _ v => some ((v * pow2 149).num)
  | _ => none

/-- A total rounded to FP32 (21 R455, R459). -/
def totalF32 (x : Total) : Nat := roundTo fp32 (.fin (decide (x < 0)) ((x : Rat) / pow2 149))

/-- The monitor that an arm record describes (21 R458). -/
def parseArm (owner : Nat) (b : List Byte) : Monitor :=
  { owner := owner, base := field b 0 8, count := field b 8 4, stride := field b 12 4, foff := field b 16 2, fmt := field b 18 1,
    bar := field b 19 1, bound := BitVec.ofNat 32 (field b 20 4), upd := field b 24 1 = 1 }

/-- Whether an arm record breaks its table, or its fields are misaligned or do not all lie in one allocation of the
thread (21 R458). -/
def armBad (t : Thread) (b : List Byte) (m : Monitor) : Bool :=
  let n := fieldSize m
  let a := fieldAddr m 0
  m.count = 0 || 2 ^ 24 < m.count || m.stride < n || m.stride ≤ m.foff || 3 < m.fmt || 7 < m.bar ||
  isNan (classify fp32 m.bound.toNat) || (signOf (classify fp32 m.bound.toNat) && m.bound.toNat != 2 ^ 31) ||
  1 < field b 24 1 || !(zeroAt b 25 7) || a % n != 0 || (1 < m.count && m.stride % n != 0) ||
  !(inAlloc t a ((m.count - 1) * m.stride + n))

/-- The scan of a monitor reads its next field (21 R458). -/
def scanField (t : Tile) (m : Monitor) : Monitor :=
  match fieldVal t m m.scan with
  | some v => { m with scan := m.scan + 1, acc := m.acc + v, acc0 := m.acc + v, nf0 := m.nf }
  | none => { m with scan := m.scan + 1, nf := m.nf + 1, acc0 := m.acc, nf0 := m.nf + 1 }

/-- Whether a monitor's scan goes on. -/
def scanning (m : Monitor) : Bool := decide (m.scan < m.count)

/-- Whether a thread's MON.ARM has yet to retire: its C stream waits (21 R458; log entry 10). -/
def armUnderWay (s : State) (tid : Nat) : Bool :=
  (tile s (tileOf tid)).mons.any fun e => e.2.owner = ctxOf tid && scanning e.2

/-- One network cycle of the scan of monitor `i` of a tile: the word ends with the last field, whether or not its thread
is frozen (21 R452, R458). -/
def scanStep (tl i : Nat) (s : State) : State :=
  let m1 := scanField (tile s tl) (look {} (tile s tl).mons i)
  let s1 := modTile tl (fun t => { t with mons := put i m1 t.mons }) s
  if scanning m1 then s1 else modThr (tl * 6 + m1.owner) (fun t => retire 0 m1.wid (setG m1.dst 0 t)) s1

/-- Every scan reads one field in a network cycle, as the cycle's writes have left it (21 R457, R458). -/
def scanAll (s : State) : State :=
  (s.tiles.flatMap fun e => (e.2.mons.filter fun m => scanning m.2).map fun m => (e.1, m.1)).foldl
    (fun s x => scanStep x.1 x.2 s) s

/-- MON.ARM: the monitor is armed and scans (21 R458). One that a member still to be restored brings is armed by another
context (19 R444). -/
def execMonArm (d a b : Nat) (s : State) : Out :=
  monWord d b 3 (fun i s =>
    match monAt s i with
    | some m => doneC 2 (setG d (neg (if monMine s m then 4 else 2))) s
    | none =>
      if monComing s (tileOf s.cur) i then doneC 2 (setG d (neg 2)) s
      else
        let x := (gOf (me s) a).toNat
        let tl := tile s (tileOf s.cur)
        match readFault (me s) tl 0 x 32 8 with
        | some r => faultAt r s
        | none =>
          let bs := readBytes tl.mem x 32
          let m := { parseArm (ctxOf s.cur) bs with dst := d, wid := (me s).kn }
          if armBad (me s) bs m then doneC 2 (setG d (neg 3)) s
          else doneCS 2 (fun s => modMe (listWord 0 m.wid false none) (putMon i m s)) s) s

/-- MON.REF: the reference becomes the running total, or a value of FP32 (21 R458); a snapshot of this network cycle
takes the reference before (R457). -/
def execMonRef (d a b : Nat) (s : State) : Out :=
  monWord d b 0x103 (fun x s =>
    let i := x % 4
    match monAt s i with
    | none => doneC 2 (setG d (neg 2)) s
    | some m =>
      let set := fun (v : Total) => doneCS 2 (fun s => modMe (setG d 0)
        (putMon i { m with ref := v, refOld := m.ref, refAt := s.clock.now + 1 } s)) s
      if !(monMine s m) then doneC 2 (setG d (neg 2)) s
      else if !(bitOf x 8) then set m.acc
      else match units ((gOf (me s) a).toNat % 2 ^ 32) with
        | none => doneC 2 (setG d (neg 3)) s
        | some v => set v) s

/-- 64 bits of a 320-bit total in two's complement (21 R453, R459). -/
def totalBits (x : Total) (j : Nat) : Word := BitVec.ofInt 64 (x / ((2 ^ (64 * j) : Nat) : Int))

/-- An item of MON.RD (21 R459). -/
def monItem (m : Monitor) (item : Nat) : Word :=
  match item with
  | 0 => BitVec.ofNat 64 (totalF32 m.acc)
  | 1 => BitVec.ofNat 64 (totalF32 m.ref)
  | 2 => BitVec.ofNat 64 m.d.toNat
  | 3 => BitVec.ofNat 64 (m.nf * 2 ^ 39 + m.bar * 2 ^ 36 + m.fmt * 2 ^ 34 + m.upd.toNat * 2 ^ 33)
  | 9 => totalBits m.ref 0
  | 10 => totalBits m.ref 1
  | n => if n < 9 then totalBits m.acc (n - 4) else minusOne

/-- MON.RD (21 R459). -/
def execMonRd (d b : Nat) (s : State) : Out :=
  monWord d b 0xF03 (fun x s =>
    match monAt s (x % 4) with
    | none => doneC 2 (setG d (neg 2)) s
    | some m => if monMine s m then doneC 2 (setG d (monItem m (x / 256))) s else doneC 2 (setG d (neg 2)) s) s

/-- MON.OFF (21 R458). -/
def execMonOff (d b : Nat) (s : State) : Out :=
  monWord d b 3 (fun i s =>
    match monAt s i with
    | none => doneC 2 (setG d (neg 2)) s
    | some m =>
      if !(monMine s m) then doneC 2 (setG d (neg 2)) s
      else doneCS 2 (fun s => modMe (setG d 0) (modTile (tileOf s.cur) (fun t => { t with mons := del i t.mons }) s)) s) s

/-- The monitors of a thread leave its tile (21 R452). -/
def disarm (tid : Nat) (s : State) : State :=
  modTile (tileOf tid) (fun t => { t with mons := t.mons.filter fun e => e.2.owner != ctxOf tid }) s

/-! ## The completion of a phase (04 R114; 21 R455-R457) -/

/-- The members of a team that hold monitor `i` armed with a barrier, its scan ended, with that monitor. -/
def checked (s : State) (t b i : Nat) : List (Nat × Monitor) :=
  let tm := team s t
  tm.members.filterMap fun tid =>
    match find (tile s (tileOf tid)).mons i with
    | some m =>
      if m.owner = ctxOf tid && (thr s tid).id.team = t && tm.live.contains (thr s tid).id.member && m.bar = b && m.scan = m.count then some (tid, m) else none
    | none => none

/-- The reference that a snapshot takes (21 R457). -/
def refNow (now : Nat) (m : Monitor) : Total := if m.refAt = now + 1 then m.refOld else m.ref

/-- The drift of the monitors of one number at a phase and whether the check fails (21 R455). -/
def drift (now : Nat) (ms : List Monitor) : Lane × Bool :=
  if 0 < (ms.map Monitor.nf0).foldl (· + ·) 0 then (BitVec.ofNat 32 (canonNan fp32), true)
  else
    let x : Total := (ms.map fun m => m.acc0 - refNow now m).foldl (· + ·) 0
    let low := (ms.map fun m => m.bound.toNat % 2 ^ 31).foldl min (2 ^ 31 - 1)
    let tooFar := match units low with
      | some v => decide (v < Int.natAbs x)
      | none => false
    (BitVec.ofNat 32 (totalF32 x), tooFar)

/-- A monitor after its check: the drift stands in it, and with `upd` a passing check replaces its reference, over which
a MON.REF of this network cycle prevails (21 R455, R457). -/
def afterCheck (now : Nat) (d : Lane) (fail : Bool) (m : Monitor) : Monitor :=
  { m with d := d, ref := if !fail && m.upd && m.refAt != now + 1 then m.acc0 else m.ref }

/-- The monitor-drift fault of monitor `i` at barrier `b` (21 R456, 19 R424). -/
def driftRec (i b : Nat) (d : Lane) : FaultRec :=
  { code := 7, engine := 0, defer := true, lo := BitVec.ofNat 64 (i + b * 256 + d.toNat * 2 ^ 32) }

/-- A member takes a monitor-drift fault; one that is frozen for an interrupt receives it as a held fault (21 R456). -/
def takeDrift (tid : Nat) (r : FaultRec) (s : State) : State :=
  match (thr s tid).frz with
  | some { fault := none, .. } => modThr tid (fun t => { t with held := t.held ++ [r] }) s
  | _ => raise tid r false s

/-- The check of one monitor number of a team at a barrier: its tiles count it, and a failure is a fault of every live
member (21 R455, R456, R460). -/
def checkMonitor (t b : Nat) (s : State) (i : Nat) : State :=
  let tm := team s t
  let ms := checked s t b i
  if ms.isEmpty then s
  else
    let (d, fail) := drift s.clock.now (ms.map Prod.snd)
    let s1 := ms.foldl (fun s e => modTile (tileOf e.1) (fun tl => { tl with
      mons := adjust i (afterCheck s.clock.now d fail) tl.mons
      monChecks := satAdd 65535 tl.monChecks 1
      monFails := satAdd 65535 tl.monFails fail.toNat }) s) s
    if fail then
      tm.members.foldl (fun s tid =>
        if occupied s tid && tm.live.contains (thr s tid).id.member && (thr s tid).id.team = t then takeDrift tid (driftRec i b d) s
        else s) s1
    else s1

/-- Whether the arrivals at a barrier equal its expected count: every live member has arrived (04 R113, R114). -/
def phaseFull (tm : Team) (b : Nat) : Bool :=
  !(barOf tm b).arrived.isEmpty && tm.savedAt.isNone && tm.live.all fun m => (barOf tm b).arrived.contains m

/-- Event PHASE_COMPLETION: a phase of barrier `b` of team `a` completes: its monitors are checked, the phase number
advances and the arrivals end (04 R114; 21 R455). -/
def execPhaseCompletion (s : State) : Out :=
  let t := s.arg.a
  let b := s.arg.b
  let tm := team s t
  if !(phaseFull tm b) then .fault (.notEnabled "PHASE_COMPLETION")
  else
    let s1 := [0, 1, 2, 3].foldl (checkMonitor t b) s
    let s2 := tm.members.foldl (fun s tid =>
      if (thr s tid).id.team = t then modThr tid (fun t => { t with arrivals := delNat b t.arrivals }) s else s) s1
    .next (modTeam t (fun tm => { tm with bars := put b { phase := (barOf tm b).phase + 1 } tm.bars }) s2)

end Sys2Proof.Machine
end

