-- ==== Sys2Proof/Machine/Pool.lean ====
section
/-!
DEFINITION. The ready pool: which nodes it holds and in which order, valid placements with their tiles, contexts,
allocations and headroom, and the start of a team's members (02 R58; 04 R92, R94; 05 R118, R122; 08 R195-R197;
23 R471-R475).
-/
namespace Sys2Proof.Machine

/-! ## Nodes entering the pool (23 R471) -/

/-- The dies that hold quads of a partition. -/
def diesOf (s : State) (p : Nat) : List Nat := [0, 1, 2, 3].filter fun d => (part s p).cfg.quads.any fun q => q / 36 = d

/-- The usable tiles of a partition on a die, in tile-number order: a lost tile is never placed on (25 R505). -/
def poolTiles (s : State) (p d : Nat) : List Nat :=
  (upFrom (d * 144) 144).filter fun t => enabled s t && !(s.sec.lost.contains t) && (part s p).cfg.quads.contains (quadOf t)

/-- The nodes of a partition in a die's pool. -/
def poolOf (s : State) (p d : Nat) : List PoolNode := (die s d).pool.filter fun n => n.part = p

/-- Whether every pool of a partition has a place. Its pools hold the same nodes (23 R471). -/
def poolRoom (s : State) (p : Nat) : Bool := (diesOf s p).all fun d => (poolOf s p d).length < (part s p).cfg.pool

/-- A node put in the pool of every die of its partition. -/
def poolPut (n : PoolNode) (s : State) : State :=
  (diesOf s n.part).foldl (fun s d => modDie d (fun g => { g with pool := g.pool ++ [n] }) s) s

/-- A ready node enters the pools of its partition, or waits at the hub (23 R471). -/
def enterPool (n : PoolNode) (s : State) : State :=
  if poolRoom s n.part && (part s n.part).hubNodes.isEmpty then poolPut n s
  else modPart n.part (fun pt => { pt with hubNodes := pt.hubNodes ++ [n] }) s

/-- Nodes that wait at the hub enter as places free, in order of readiness; their age counts from now. -/
def refillPool (p : Nat) : Nat → State → State
  | 0, s => s
  | fuel + 1, s =>
    match (part s p).hubNodes with
    | [] => s
    | n :: rest =>
      if poolRoom s p then
        refillPool p fuel (poolPut { n with ns := if n.team.isSome then n.ns else nsNow s }
          (modPart p (fun pt => { pt with hubNodes := rest }) s))
      else s

/-- A node leaves every pool and loses its reservations. -/
def leavePool (p l n : Nat) (s : State) : State :=
  let s1 := [0, 1, 2, 3].foldl (fun s d => modDie d (fun g => { g with
    pool := g.pool.filter fun x => !(x.launch = l && x.node = n)
    regions := g.regions.filter fun x => !(x.launch = l && x.node = n) }) s) s
  refillPool p (part s1 p).hubNodes.length s1

/-! ## Placements (23 R472, R475) -/

/-- The power of a tile of an energy class, in milliwatt (23 R472). -/
def tilePower (e : Nat) : Nat := 1000 + 500 * e

/-- The power that a sensor's quad has left of its budget of 18 W after the power read and that of what has been placed
since; none at 105 °C (23 R472; 25 R507). -/
def roomOf (x : Sensor) : Nat := if 105 ≤ x.celsius then 0 else 18000 - x.milliwatt - x.placed

/-- How many tiles of an energy class a quad's headroom takes; a placement in the network cycle of a reading uses the
earlier one (23 R472, R481). -/
def headroom (s : State) (e q : Nat) : Nat :=
  let x : Sensor := look {} s.sensors q
  (if x.readAt = s.clock.now + 1 then x.oldRoom else roomOf x) / tilePower e

/-- Whether a set of tiles takes no more of each quad than a bound. -/
def quadsFit (cap : Nat → Nat) (ts : List Nat) : Bool :=
  ts.all fun t => (ts.filter fun u => quadOf u = quadOf t).length ≤ cap (quadOf t)

/-- Whether a member can take a tile beside those already taken, within the bounds of its quad. -/
def mayTake (fit : Nat → Nat → Bool) (cap : Nat → Nat) (taken : List Nat) (m t : Nat) : Bool :=
  fit m t && !(taken.contains t) && (taken.filter fun u => quadOf u = quadOf t).length < cap (quadOf t)

/-- Tiles for the members from `m` on of a new team of any shape: each takes the first tile that it can take. Every member
fits the same tiles, so no placement is missed (log entry 16). -/
def pickAny (fit : Nat → Nat → Bool) (cap : Nat → Nat) (ts : List Nat) : Nat → Nat → List Nat → Option (List Nat)
  | 0, _, taken => some taken.reverse
  | n + 1, m, taken =>
    match ts.find? (mayTake fit cap taken m) with
    | some t => pickAny fit cap ts n (m + 1) (t :: taken)
    | none => none

/-- Tiles for the remaining members of a saved team of any shape, each of which fits tiles of its own: the first choice in
tile-number order, member by member, that leaves tiles for the rest. -/
def pickEach (fit : Nat → Nat → Bool) (cap : Nat → Nat) (ts : List Nat) : List Nat → List Nat → Option (List Nat)
  | [], taken => some taken.reverse
  | m :: ms, taken => ts.findSome? fun t => if mayTake fit cap taken m t then pickEach fit cap ts ms (t :: taken) else none

/-- The tiles of a rectangle whose first member stands on a tile, where it lies inside the die (23 R472). -/
def rectAt (rows cols t0 : Nat) : Option (List Nat) :=
  if 12 < rowNo t0 + rows || 12 < colNo t0 + cols then none
  else some ((upFrom 0 (rows * cols)).map fun m => t0 + m / cols * 12 + m % cols)

/-- The first placement of the members `ms` of a node on tiles of a die, in tile-number order of member 0, where `fit` says
which tile can take the member at which place of the list and `cap` how many tiles of a quad it may use; `each` says that
the members fit different tiles (23 R472, R475). A member that has ended takes no tile of its team's rectangle. -/
def placement (each : Bool) (r : NodeRec) (ms : List Nat) (fit : Nat → Nat → Bool) (cap : Nat → Nat) (ts : List Nat) :
    Option (List Nat) :=
  if r.rows = 0 then
    if each then pickEach fit cap ts (upFrom 0 ms.length) [] else pickAny fit cap ts ms.length 0 []
  else (upFrom (ts.headD 0 / 144 * 144) 144).findSome? fun t0 =>
    match rectAt r.rows r.cols t0 with
    | some us =>
      let vs := ms.map fun m => us.getD m 0
      if (vs.zip (upFrom 0 vs.length)).all (fun x => ts.contains x.1 && fit x.2 x.1) && quadsFit cap vs then some vs else none
    | none => none

/-- Whether a tile's array suits a node: matrix use needs it on, fused mode needs its fuse (10 R253, 23 R472). -/
def capsFit (s : State) (r : NodeRec) (t : Nat) : Bool :=
  let a := (tile s t).arr
  !(bitOf r.caps 0 && a.off) && !(bitOf r.caps 1 && !a.fuse)

/-- The members of saved teams that have been placed on a tile and are still to be restored: context and thread
(19 R444). -/
def comingTo (s : State) (t : Nat) : List (Nat × Thread) :=
  s.parts.flatMap fun e => e.2.saved.flatMap fun sv =>
    (sv.members.zip sv.placed).filterMap fun x => if x.2.1 = t then some (x.2.2, x.1.2) else none

/-- The lowest free application context of a tile (log entry 16). -/
def freeCtx (s : State) (t : Nat) : Option Nat :=
  [0, 1, 2, 3].find? fun c => !(occupied s (t * 6 + c)) && !((comingTo s t).any fun x => x.1 = c)

/-- The scratchpad range, or with `bank` the stacked-bank range, of a thread, as start and length. -/
def rangeOf (bank : Bool) (x : Thread) : Nat × Nat :=
  if bank then (x.sr.sbbase.toNat, x.sr.sbsize.toNat) else (x.sr.spbase.toNat, x.sr.spsize.toNat)

/-- The scratchpad ranges, or with `bank` the stacked-bank ranges, that the contexts of a tile hold, as start and
length. -/
def rangesHeld (s : State) (t : Nat) (bank : Bool) : List (Nat × Nat) :=
  (([0, 1, 2, 3].filterMap fun c => find s.threads (t * 6 + c)) ++ (comingTo s t).map Prod.snd).map (rangeOf bank)

/-- Whether a range of a tile's memory is free of other contexts' allocations (08 R196). -/
def rangeFree (held : List (Nat × Nat)) (a n : Nat) : Bool := held.all fun h => n = 0 || h.2 = 0 || !(meets a n h.1 h.2)

/-- The first address of the scratchpad or, with `bank`, of the stacked bank, and the address past its end (08 R195). -/
def memRange (bank : Bool) : Nat × Nat := if bank then (0x1000000, 0x1600000) else (0, 0x200000)

/-- The lowest address at which a memory of a tile has `n` free bytes (08 R196; log entry 16). -/
def freeBase (s : State) (t : Nat) (bank : Bool) (n : Nat) : Option Nat :=
  let held := rangesHeld s t bank
  let (lo, hi) := memRange bank
  let fits := fun a => a + n ≤ hi && rangeFree held a n
  (lo :: held.map fun h => h.1 + h.2).foldl (fun best a =>
    if !(fits a) then best
    else match best with
      | none => some a
      | some b => some (min a b)) none

/-- Whether a tile can take a member of a node now (23 R472). -/
def tileFits (s : State) (r : NodeRec) (t : Nat) : Bool :=
  capsFit s r t && (freeCtx s t).isSome && (freeBase s t false r.spad).isSome && (freeBase s t true r.sbank).isSome

/-- The saved team of a partition by its number. -/
def savedTeam (s : State) (p t : Nat) : Option SavedTeam := (part s p).saved.find? fun x => x.team = t

/-- Whether a tile can take the saved member at a place of its team's list at the bases it had, with its monitors
(19 R444; 21 R452). -/
def restoreFits (s : State) (r : NodeRec) (sv : SavedTeam) (m t : Nat) : Bool :=
  let sr := ((sv.members[m]?).map fun x => x.2.sr).getD {}
  let ms := (sv.mons[m]?).getD []
  capsFit s r t && (freeCtx s t).isSome && !(ms.any fun e => (find (tile s t).mons e.1).isSome || monComing s t e.1) &&
    rangeFree (rangesHeld s t false) sr.spbase.toNat sr.spsize.toNat &&
    rangeFree (rangesHeld s t true) sr.sbbase.toNat sr.sbsize.toNat

/-- The node record of a node in a pool. -/
def recOf (s : State) (n : PoolNode) : NodeRec := (look {} (launch s n.launch).nodes n.node : Node).nrec

/-- The members of a node that a placement puts on tiles: all of a new node, and those that live of a saved team. -/
def toPlace (s : State) (n : PoolNode) : List Nat :=
  match n.team.bind (savedTeam s n.part) with
  | some sv => sv.members.map fun x => x.2.id.member
  | none => upFrom 0 (recOf s n).size

/-- A placement of a node on a die, among some tiles, that is valid now. -/
def validPlace (s : State) (n : PoolNode) (ts : List Nat) : Option (List Nat) :=
  let r := recOf s n
  let cap := headroom s (launch s n.launch).energy
  match n.team with
  | none => placement false r (toPlace s n) (fun _ t => tileFits s r t) cap ts
  | some t =>
    match savedTeam s n.part t with
    | some sv => placement true r (toPlace s n) (restoreFits s r sv) cap ts
    | none => none

/-- The tiles of a placement of members of a node that is valid in all but headroom, contexts and allocation room
(23 R475). -/
def idlePlace (s : State) (r : NodeRec) (ms ts : List Nat) : Option (List Nat) :=
  placement false r ms (fun _ t => capsFit s r t) (fun _ => 4) ts

/-- Whether some die of a partition could hold a node when idle (23 R471). -/
def holdable (s : State) (p : Nat) (r : NodeRec) : Bool :=
  (diesOf s p).any fun d => (idlePlace s r (upFrom 0 r.size) (poolTiles s p d)).isSome

/-- The virtual function of a launch: on a member of a multi-module launch, that of the module's own entry of the
process-group table, and else that of the queue whose entry started it (05 R123, 17 R405). -/
def launchVf (l : Launch) : Nat :=
  match l.group with
  | some g => ((g.queues[g.rank]?).map Prod.fst).getD l.vf
  | none => l.vf

/-- The priority of a node: that of its queue (23 R475). -/
def prioOf (s : State) (n : PoolNode) : Nat :=
  let l := launch s n.launch
  (look {} s.queues (l.vf * 8 + l.queue) : Queue).prio

/-- Whether one node of a pool stands before another: by priority, age, queue index and entry index (23 R475). -/
def poolBefore (s : State) (x y : PoolNode) : Bool :=
  let key := fun (n : PoolNode) =>
    let l := launch s n.launch
    [7 - prioOf s n, n.ns, l.vf * 8 + l.queue, l.idx, n.node]
  decide (key x < key y)

/-- A node put in its place in a pool's order. -/
def poolInsert (s : State) (x : PoolNode) : List PoolNode → List PoolNode
  | [] => [x]
  | y :: rest => if poolBefore s y x then y :: poolInsert s x rest else x :: y :: rest

/-- A die's pool in order. -/
def poolOrder (s : State) (d : Nat) : List PoolNode := (die s d).pool.foldr (poolInsert s) []

/-- What a die's pool does for a node, if anything (23 R475); a tile lost since a region was reserved is no longer used
(25 R505). -/
def moveFor (s : State) (d : Nat) (n : PoolNode) : Option PoolMove :=
  let g := die s d
  if (part s n.part).draining.isSome then none
  else match g.regions.find? fun r => r.launch = n.launch && r.node = n.node with
  | some r => (validPlace s n (r.tiles.filter (poolTiles s n.part d).contains)).map (PoolMove.place n)
  | none =>
    let free := (poolTiles s n.part d).filter fun t => !(g.regions.any fun r => r.tiles.contains t)
    match validPlace s n free with
    | some ts => some (.place n ts)
    | none =>
      if n.ns + (part s n.part).cfg.age * 1000 ≤ nsNow s && !(g.regions.any fun r => r.part = n.part) then
        (idlePlace s (recOf s n) (toPlace s n) (poolTiles s n.part d)).map (PoolMove.reserve n)
      else none

/-- What the pool of a die does next, if anything (23 R475). -/
def poolMove (s : State) (d : Nat) : Option PoolMove := (poolOrder s d).findSome? (moveFor s d)

/-! ## The start of a member (02 R58; 04 R94; 05 R118, R122; 08 R197) -/

/-- The bytes that the data sections of an image give a member in one place: a section for all members, and over it one
for the member alone, both from the allocation's first byte, cut to the allocation (02 R45, R58). -/
def sectionBytes (im : Image) (place member n : Nat) : List Byte :=
  let all := (im.data.filter fun d => d.place = place && d.member.isNone).flatMap DataSec.bytes
  let own := (im.data.filter fun d => d.place = place && d.member = some member).flatMap DataSec.bytes
  (own ++ all.drop own.length).take n

/-- A tile's memory with a range zeroed, its poison cleared, and bytes written from its start. -/
def fillRange (a n : Nat) (bs : List Byte) (t : Tile) : Tile :=
  { t with mem := writeBytes (t.mem.filter fun e => !(a ≤ e.1 && e.1 < a + n)) a bs,
           poison := t.poison.filter fun w => !(meets w 8 a n) }

/-- The dispatch hops from a die's pool to a tile: its port is at row 5, column 5 (01 R22). -/
def dispatchHops (t : Nat) : Nat := (rowNo t - 5) + (5 - rowNo t) + (colNo t - 5) + (5 - colNo t)

/-- The bytes that the loader writes into a member's allocations: what its data sections give, and zeros over the rest
(02 R58; 23 R476). -/
def loadedBytes (r : NodeRec) : Nat := r.spad + r.sbank

/-- The network cycles from a placement to a member's first word: 3 ns, half a nanosecond for each hop and 1 ns, with 1 ns
more for each 256 bytes loaded where the context is not warm, which is the bound of R476 (01 R22; 23 R476; log entry
98). -/
def startDelay (r : NodeRec) (t : Nat) : Nat := 6 + dispatchHops t + 2 * (1 + (loadedBytes r + 255) / 256)

/-- The state after a member of a team starts on a tile (01 R22; 02 R58; 04 R94; 05 R118, R122). -/
def startMember (id : Ident) (r : NodeRec) (t : Nat) (s : State) : Nat × State :=
  let l := launch s id.launch
  let c := (freeCtx s t).getD 0
  let sp := (freeBase s t false r.spad).getD 0
  let sb := (freeBase s t true r.sbank).getD 0
  let im : Image := look {} (part s id.part).images id.image
  let x : Thread :=
    { id := id
      sr := { args := BitVec.ofNat 64 l.args, spbase := BitVec.ofNat 64 sp, spsize := BitVec.ofNat 64 r.spad,
              sbbase := BitVec.ofNat 64 sb, sbsize := BitVec.ofNat 64 r.sbank, dbg := (part s id.part).regs.dbgatt }
      c := { pc := BitVec.ofNat 64 r.entry }
      replay := { mode := l.mode }
      startAt := s.clock.halfNs + startDelay r t }
  let s1 := modTile t (fun tl => fillRange sb r.sbank (sectionBytes im 1 id.member r.sbank)
    (fillRange sp r.spad (sectionBytes im 0 id.member r.spad) tl)) s
  (t * 6 + c, { s1 with threads := put (t * 6 + c) x s1.threads })

/-- The power of tiles placed in their quads since the last reading (23 R472). -/
def drawPower (e : Nat) (ts : List Nat) (s : State) : State :=
  ts.foldl (fun s t =>
    let q := quadOf t
    let x : Sensor := look {} s.sensors q
    { s with sensors := put q { x with placed := x.placed + tilePower e, oldRoom := x.oldRoom - tilePower e } s.sensors }) s

/-- The state after a node is placed on tiles: its team exists, each member starts in a free context, and the node leaves
the pools (04 R92; 23 R474, R475). -/
def placeNode (n : PoolNode) (ts : List Nat) (s : State) : State :=
  let l := launch s n.launch
  let r := recOf s n
  let tm := s.nextTeam
  let s1 := (ts.zip (upFrom 0 ts.length)).foldl (fun (a : List Nat × State) x =>
    let id : Ident := { part := n.part, launch := n.launch, node := n.node, team := tm, member := x.2, vf := launchVf l,
                        pasid := l.pasid, image := l.image, ldw := r.ldw, stw := r.stw, prio := prioOf s n }
    let (tid, s1) := startMember id r x.1 a.2
    (a.1 ++ [tid], s1)) ([], s)
  let t : Team := { part := n.part, launch := n.launch, node := n.node, members := s1.1, live := upFrom 0 ts.length, sinceNs := n.ns }
  let s2 := { s1.2 with teams := put tm t s1.2.teams, nextTeam := tm + 1 }
  leavePool n.part n.launch n.node
    (modLaunch n.launch (fun l => { l with nodes := adjust n.node (fun x => { x with st := .running }) l.nodes })
      (drawPower l.energy ts s2))

/-- The state after a die reserves a region for a node (23 R475). -/
def reserveFor (d : Nat) (n : PoolNode) (ts : List Nat) (s : State) : State :=
  modDie d (fun g => { g with regions := g.regions ++ [{ launch := n.launch, node := n.node, part := n.part, tiles := ts }] }) s

/-- The state after a saved team is placed: its members have their tiles, contexts and allocations, and its RESTORE reads
its area (19 R444). -/
def placeSaved (n : PoolNode) (t : Nat) (ts : List Nat) (s : State) : State :=
  let at_ := ts.map fun x => (x, (freeCtx s x).getD 0)
  let s1 := modPart n.part (fun pt => { pt with
    saved := pt.saved.map fun sv => if sv.team = t then { sv with placed := at_ } else sv }) s
  leavePool n.part n.launch n.node (drawPower (launch s n.launch).energy ts s1)

/-- Event PLACEMENT: the pool of die `a` places a node or a saved team, or reserves a region for one (23 R475). -/
def execPlacement (s : State) : Out :=
  match poolMove s s.arg.a with
  | some (.place n ts) =>
    match n.team with
    | some t => .next (placeSaved n t ts s)
    | none => .next (placeNode n ts s)
  | some (.reserve n ts) => .next (reserveFor s.arg.a n ts s)
  | none => .fault (.notEnabled "PLACEMENT")

/-! ## Readiness and completion of nodes (23 R471, R473, R474) -/

/-- A launch ends before its nodes have run: those that have not started never do, and it completes with a status. -/
def failLaunch (l status : Nat) (s : State) : State :=
  let x := launch s l
  let idle := x.nodes.filter fun e => e.2.st = .waiting || e.2.st = .ready
  let s1 := idle.foldl (fun s e => leavePool x.part l e.1 s) s
  modPart x.part (fun pt => { pt with hubNodes := pt.hubNodes.filter fun n => n.launch != l || n.team.isSome })
    (modLaunch l (fun x => { x with
      status := if x.status = 0 then status else x.status
      nodes := mapVals (fun _ (n : Node) => if n.st = .waiting || n.st = .ready then { n with st := .complete } else n) x.nodes }) s1)

/-- A node becomes ready and enters the pool; one that no die could hold ends its launch with status 2 (23 R471). -/
def readyNode (l n : Nat) (s : State) : State :=
  let x := launch s l
  let y : Node := look {} x.nodes n
  if y.st != .waiting then s
  else if !(holdable s x.part y.nrec) then failLaunch l 2 s
  else
    enterPool { launch := l, node := n, part := x.part, ns := nsNow s }
      (modLaunch l (fun x => { x with nodes := adjust n (fun (y : Node) => { y with st := .ready }) x.nodes }) s)

/-- The nodes of a launch that wait and whose predecessors have all completed. -/
def nowReady (x : Launch) : List Nat :=
  (x.nodes.filter fun e => e.2.st = .waiting && !e.2.posted &&
    e.2.nrec.preds.all fun q => (look {} x.nodes q : Node).st = .complete).map Prod.fst

/-- A node completes, and those that waited for it become ready (23 R471, R474). -/
def completeNode (l n : Nat) (s : State) : State :=
  let s1 := modLaunch l (fun x => { x with nodes := adjust n (fun (y : Node) => { y with st := .complete }) x.nodes }) s
  if (launch s1 l).status != 0 then s1 else (nowReady (launch s1 l)).foldl (fun s m => readyNode l m s) s1

end Sys2Proof.Machine
end

