-- ==== Sys2Proof/Machine/Ends.lean ====
section
/-!
DEFINITION. How threads end: RETIRE, a kill, the release of a context, tillers' spawn and end, escalation to the die
supervisor, the reset of a partition, and the stall watchdog (04 R95, R112; 05 R145; 08 R197; 09 R229; 19 R425-R429,
R434, R446; 23 R474, R479).
-/
namespace Sys2Proof.Machine

/-! ## Release (04 R95; 08 R197; 09 R229) -/

/-- The allocations of a thread that are not empty, as start and length. -/
def allocs (t : Thread) : List (Nat × Nat) :=
  [(t.sr.spbase.toNat, t.sr.spsize.toNat), (t.sr.sbbase.toNat, t.sr.sbsize.toNat)].filter fun r => 0 < r.2

/-- Whether a handle's storage meets some of the ranges of a tile. -/
def storedInAny (tl : Nat) (rs : List (Nat × Nat)) (e : Handle) : Bool := rs.any fun r => storedIn e tl r.1 r.2

/-- Whether a relayout in progress has storage in some ranges of a tile (09 R229). -/
def relayoutIn (s : State) (p tl : Nat) (rs : List (Nat × Nat)) : Bool :=
  (part s p).handles.any fun e => e.2.conv.isSome && !e.2.failed && storedInAny tl rs e.2

/-- Whether a copy of some thread of a partition has its destination in some ranges of a tile (05 R145, 08 R197). Where
`killed` is set, one that has stopped at its own fault does not count (11 R282). -/
def copyInto (s : State) (p tl : Nat) (rs : List (Nat × Nat)) (killed : Bool) : Bool :=
  s.threads.any fun x => x.2.id.part = p && x.2.copies.any fun c =>
    !(c.stopped && (killed || x.2.dying)) && !c.arrived && match handleOf s p c.dhnd with
      | some e => storedInAny tl rs e
      | none => false

/-- Whether what goes on in a thread's allocations lets them be released, when the thread retires, is saved or, as it is
dying, has been killed (05 R145; 08 R197; 09 R229; 11 R282). -/
def allocQuiet (s : State) (tid : Nat) : Bool :=
  let t := thr s tid
  !(relayoutIn s t.id.part (tileOf tid) (allocs t)) && !(copyInto s t.id.part (tileOf tid) (allocs t) t.dying)

/-- The entries whose storage lies in some ranges of a tile are dropped (09 R229). -/
def dropStored (p tl : Nat) (rs : List (Nat × Nat)) (s : State) : State :=
  ((part s p).handles.filter fun e => storedInAny tl rs e.2).foldl (fun s e =>
    modPart p (fun pt => { pt with handles := freeHandle e.1 e.2 pt.handles }) s) s

/-- The tile's engines are free of a context. -/
def leaveEngines (tid : Nat) (s : State) : State := [1, 2, 5, 6].foldl (fun s st => freeEngine tid st s) s

/-- A context is released: its allocations' entries are dropped, its monitors and bindings end, the engines are free of
it, and the context holds no thread (04 R95; 09 R229; 12 R312; 21 R452). -/
def releaseCtx (tid : Nat) (s : State) : State :=
  let t := thr s tid
  let s1 := leaveEngines tid (disarm tid (breakBindings tid (dropStored t.id.part (tileOf tid) (allocs t) s)))
  { s1 with threads := del tid s1.threads }

/-- A member leaves its team and every barrier of it; the node completes with its last member (04 R114; 23 R474). -/
def leaveTeam (tid : Nat) (killed : Bool) (s : State) : State :=
  let id := (thr s tid).id
  let s1 := modTeam id.team (fun tm => { tm with live := delNat id.member tm.live }) s
  let s2 := if killed then modLaunch id.launch (fun l => { l with killed := true }) s1 else s1
  if (find s2.teams id.team).isSome && (team s2 id.team).live.isEmpty then
    completeNode id.launch id.node { s2 with teams := del id.team s2.teams }
  else s2

/-! ## Partition reset (19 R446; 23 R479, R480) -/

/-- The accesses of a thread that stand in its die's hold list. -/
def holdsOf (t : Thread) : Nat := (t.far.filter fun r => r.held != 0).length + (t.copies.filter fun c => c.held != 0).length

/-- A tile after the reset of its partition: its units hold nothing of it, and its counters and controls are at their
reset values (00 R10; 19 R446; 21 R452; 23 R479). The array's health and the trace buffer's words stay. -/
def resetTile (t : Tile) : Tile :=
  { mem := t.mem, poison := t.poison, arr := { t.arr with occupant := none }, cache := t.cache, coreLast := t.coreLast,
    coreAt := t.coreAt, trace := { buf := t.trace.buf }
    eng := mapVals (fun _ (e : EngArb) => { e with owner := none }) t.eng }

/-- A die after the reset of a partition: its pool entries, reservations, page requests and held accesses are gone, and its
tiles' counts of misses are zero; a group index stays in use until the host answers it (00 R10; 16 R378; 23 R479). -/
def resetDie (p : Nat) (mine : Nat → Bool) (holds : Nat) (g : Die) : Die :=
  { g with
    pool := g.pool.filter fun n => n.part != p
    regions := g.regions.filter fun r => r.part != p
    batch := g.batch.filter fun q => q.part != p
    closed := g.closed.filter fun q => q.part != p
    groups := g.groups.map fun x => { x with pages := x.pages.filter fun q => q.part != p }
    prs := del p g.prs
    miss := g.miss.filter fun e => e.1 % 32 != p
    missed := g.missed.filter fun x => !(mine x.1)
    hold := g.hold - holds }

/-- The drain bound in half nanoseconds: 50 ns, 1.5 ns for each router of the longest route of the module, and 0.5 ns for
each of 32 flits (23 R479). -/
def drainTime (s : State) : Nat := 2 * 50 + 3 * longestRoute s + 32

/-- The hub after the reset of a partition: what its units asked of peers for it is of no unit any more (23 R479). -/
def resetHub (p : Nat) (h : Hub) : Hub :=
  let lone := fun (x : HubAccess) => if x.part = p then { x with unit := .other, cause := 0 } else x
  { h with asked := h.asked.map lone, got := h.got.filter fun x => x.1.part != p,
           wrote := (h.wrote.filter fun x => !(x.part = p && x.cause != 0)).map lone }

/-- The queues of a partition count its reset, until a fence completes (23 R480). -/
def countReset (p : Nat) (l : SMap Queue) : SMap Queue :=
  mapVals (fun k (x : Queue) => if k / 32 = p then { x with resets := x.resets + 1 } else x) l

/-- The other members of a multi-module launch that is open, or may be, are told that the partition is resetting
(17 R409). -/
def tellReset (g : Group) (s : State) : State :=
  (g.members.filter fun m => m.1 != s.hub.module).foldl (fun s m => emit (.resetNotice m.1 g.gen) s) s

/-- The process groups of a partition's launches, and those that it keeps. -/
def groupsOf (s : State) (p : Nat) : List Group :=
  ((s.launches.filter fun x => x.2.part = p).filterMap fun x => x.2.group) ++ (part s p).kept

/-- A partition is reset, as far as its drain: everything of it is discarded, and its packets are discarded as they
arrive (23 R479); those that wait in a hold list or for a peer are discarded now, at the hub (log entry 108). The registers
of its page, its frame pool and its save list are at their reset values (00 R10). -/
def resetPartition (p : Nat) (s : State) : State :=
  if (find s.parts p).isNone then s
  else
    let gone := s.threads.filter fun x => x.2.id.part = p
    let stays := fun (k : Packet) => !(k.part = p && (k.held != 0 || k.sent))
    let held := s.packets.filter fun k => k.part = p && k.held != 0
    let gonePackets := (s.packets.filter fun k => !(stays k)).length
    let holds := fun d => ((gone.filter fun x => dieOf (tileOf x.1) = d).map fun x => holdsOf x.2).foldl (· + ·) 0 +
      (held.filter fun k => dieOf k.src = d).length
    let s1 : State := { s with
      threads := s.threads.filter fun x => x.2.id.part != p
      packets := s.packets.filter stays
      queues := countReset p s.queues
      hub := resetHub p s.hub
      teams := s.teams.filter fun x => x.2.part != p
      launches := s.launches.filter fun x => x.2.part != p
      tiles := mapVals (fun n t => if inPart s p n then resetTile t else t) s.tiles
      dies := mapVals (fun d g => resetDie p (inPart s p) (holds d) g) s.dies }
    let s2 := (groupsOf s p).foldl (fun s g => tellReset g s) s1
    modPart p (fun pt => { pt with
      regs := {}, frames := [], areas := []
      handles := [], flows := [], colls := [], migs := [], saved := [], hubNodes := [], early := [], kept := []
      stats := { resets := satAdd 65535 pt.stats.resets 1, hubBound := min 65535 gonePackets }
      draining := match pt.draining with
        | some n => some n
        | none => some (s.clock.halfNs + drainTime s) }) s2

/-! ## Tillers (19 R425-R429) -/

/-- A tiller starts in a context of the tile of a frozen thread, with a capability to it (19 R425). -/
def spawnTiller (tid ctx : Nat) (s : State) : State :=
  let t := thr s tid
  let x : Thread :=
    { id := t.id, sr := { t.sr with dbg := (part s t.id.part).regs.dbgatt, dzen := false }, tillerOf := some tid, capValid := true,
      c := { pc := BitVec.ofNat 64 (part s t.id.part).cfg.hentry }, replay := { mode := t.replay.mode, div := t.replay.div } }
  let s1 := modThr tid (fun t => { t with frz := t.frz.map fun z => { z with tiller := some ctx } }) s
  { s1 with threads := put (tileOf tid * 6 + ctx) x s1.threads }

/-- The free tiller contexts of a tile. -/
def freeTillers (s : State) (tl : Nat) : List Nat := [4, 5].filter fun c => !(occupied s (tl * 6 + c))

/-- The network cycle in which the recorded fault of a thread was raised. -/
def faultAge (s : State) (tid : Nat) : Nat := ((thr s tid).frz.map Freeze.raisedAt).getD 0

/-- Whether the fault of a thread comes before that of another of its tile: earlier, or in the same network cycle with
the smaller context (19 R427, R447). -/
def faultBefore (s : State) (u tid : Nat) : Bool :=
  faultAge s u < faultAge s tid || (faultAge s u = faultAge s tid && u < tid)

/-- The application threads of a tile with an earlier fault whose freeze is not complete: a tiller context is kept for
each (19 R427, R447). -/
def claims (s : State) (tid : Nat) : Nat :=
  ((upFrom 0 4).filter fun c =>
    let u := tileOf tid * 6 + c
    faultBefore s u tid && match (thr s u).frz with
      | some z => z.fault.isSome && !z.closed
      | none => false).length

/-- A list of threads in fault order with one more (19 R427). -/
def inFaultOrder (s : State) (tid : Nat) : List Nat → List Nat
  | [] => [tid]
  | u :: rest => if faultBefore s tid u then tid :: u :: rest else u :: inFaultOrder s tid rest

/-- The oldest pending thread of a tile receives a tiller, where a context is free that no earlier fault claims
(19 R427). -/
def servePending (tl : Nat) (s : State) : State :=
  match (tile s tl).pendList, freeTillers s tl with
  | f :: rest, c :: more =>
    if claims s f ≤ more.length then spawnTiller f c (modTile tl (fun t => { t with pendList := rest }) s) else s
  | _, _ => s

/-- A frozen thread receives a tiller in a free tiller context, context 4 before 5, or stands on the tile's pending list
in the order of the faults (19 R425, R427). -/
def needTiller (tid : Nat) (s : State) : State :=
  let tl := tileOf tid
  servePending tl (modTile tl (fun t => { t with pendList := inFaultOrder s tid t.pendList }) s)

/-- A tiller ends, and its context goes to the oldest pending thread of the tile (19 R427, R429). -/
def endTiller (tid : Nat) (s : State) : State :=
  let leave := fun (z : Freeze) => if z.tiller = some (ctxOf tid) then { z with tiller := none } else z
  let s1 := match (thr s tid).tillerOf with
    | some f => modThr f (fun t => { t with frz := t.frz.map leave }) s
    | none => s
  servePending (tileOf tid) { s1 with threads := del tid s1.threads }

/-- The capability to a frozen thread is revoked, and the thread leaves the pending list (19 R426). -/
def revoke (tid : Nat) (s : State) : State :=
  let s1 := match (thr s tid).frz with
    | some z =>
      match z.tiller with
      | some c => modThr (tileOf tid * 6 + c) (fun t => if t.tillerOf = some tid then { t with capValid := false } else t) s
      | none => s
    | none => s
  modTile (tileOf tid) (fun t => { t with pendList := delNat tid t.pendList }) s1

/-! ## Kill (19 R434) -/

/-- Whether nothing that a killed thread started keeps its context any more (08 R197, 11 R282). -/
def deadQuiet (s : State) (tid : Nat) : Bool :=
  let t := thr s tid
  t.dying && t.copies.isEmpty && t.far.isEmpty && allocQuiet s tid

/-- A killed thread's context is released once nothing keeps it. -/
def bury (tid : Nat) (s : State) : State := if deadQuiet s tid then releaseCtx tid s else s

/-- The thread record of a killed thread: it keeps only what must come to its end. -/
def deadThread (t : Thread) : Thread :=
  { t with dying := true, frz := none, held := [], arrivals := [], win := {}, eng := [], cwords := [], fly := [], rx := [] }

/-- A thread is killed: its pending interrupt, held faults, scatter window and nest are discarded, its bindings break and
its monitors are disarmed, copies stopped at a fault are abandoned and the others run on, it leaves its barriers and its
node, and its context is released (19 R434). -/
def killMember (tid : Nat) (s : State) : State :=
  let s1 := leaveEngines tid (disarm tid (breakBindings tid (endNest tid (revoke tid s))))
  bury tid (servePending (tileOf tid) (modThr tid deadThread (leaveTeam tid true s1)))

/-- Whether the launch record marks a thread's node fatal on kill (23 R470). -/
def fatalNode (s : State) (tid : Nat) : Bool :=
  let id := (thr s tid).id
  bitOf (look {} (launch s id.launch).nodes id.node : Node).nrec.caps 2

/-- A kill, which resets the partition where the node is fatal on kill (19 R434, R446). -/
def killThread (tid : Nat) (s : State) : State :=
  if !(occupied s tid) || (thr s tid).dying then s
  else if fatalNode s tid then resetPartition (partOf s tid) s else killMember tid s

/-- The die supervisor acts on a thread: it kills it, or with ESCPOL 1 resets its partition (19 R428, R441). -/
def supervise (tid : Nat) (s : State) : State :=
  if (part s (partOf s tid)).regs.escpol then resetPartition (partOf s tid) s else killThread tid s

/-- An escalation to the die supervisor is counted on its tile and reported (19 R428, R448). -/
def countEsc (tid : Nat) (s : State) : State :=
  emit (.escalation tid) (modTile (tileOf tid) (fun t => { t with esc := satAdd 65535 t.esc 1 }) s)

/-- A frozen thread is handed to the die supervisor (19 R428, R436). -/
def escalate (tid : Nat) (s : State) : State := supervise tid (countEsc tid s)

/-- A fault of a tiller: the tiller is escalated to the supervisor, which ends it and then acts on the thread that it held,
if it still held one (19 R428). -/
def tillerFault (tid : Nat) (s : State) : State :=
  let s1 := endTiller tid (countEsc tid s)
  match (thr s tid).tillerOf with
  | some f => if (thr s tid).capValid then supervise f s1 else s1
  | none => s1

/-! ## RETIRE (05 R145; 19 R429) -/

/-- Whether a thread's own packets of dkind 3 are still under way. -/
def sendsUnder (s : State) (tid : Nat) : Bool :=
  s.packets.any fun p => p.dkind = 3 && p.src = tileOf tid && p.sctx = ctxOf tid && !p.byRouter

/-- Whether a collective that a thread runs is open. -/
def runsOpen (s : State) (tid : Nat) : Bool :=
  let id := (thr s tid).id
  (part s id.part).colls.any fun e => e.2.team = id.team && e.2.member = id.member && e.2.open_

/-- Whether everything that RETIRE waits for has ended, but for the scatter window (05 R145; 09 R229). -/
def retireReady (s : State) (tid : Nat) : Bool :=
  let t := thr s tid
  ([1, 2, 3, 4, 5, 6].all fun st => streamIdle t st) && decide (loadsLand t ≤ s.clock.now) && t.far.isEmpty && t.copies.isEmpty && t.nest.isNone &&
  (t.mq.bound.isNone || (t.mq.result.isEmpty && !(rowsUnderWay s tid))) && !(sendsUnder s tid) && !(runsOpen s tid) &&
  allocQuiet s tid

/-- The end of a member by RETIRE. DESIGN CHOICE (log entry 97): its context is released now (05 R145; 04 R95), while other
members of its team may still run (04 R92). -/
def retireMember (tid : Nat) (s : State) : State := releaseCtx tid (leaveTeam tid false s)

/-- The control core of a tile has issued a word of a context. -/
def coreServed (tid : Nat) (s : State) : State :=
  modTile (tileOf tid) (fun t => { t with coreLast := ctxOf tid, coreAt := some s.clock.now }) s

/-- RETIRE: it waits for all the work of the thread, performs what an open scatter window holds, and releases the
context; a tiller's RETIRE escalates a thread that it still holds, and ends the tiller (05 R145; 08 R215; 19 R429). -/
def execRetire (s : State) : Out :=
  if !(occupied s s.cur) then .fault .noThread
  else if isTiller s.cur then
    if !((me s).far.isEmpty) then waitBusy s
    else
      let s1 := coreServed s.cur s
      match (me s1).tillerOf with
      | some f => .next (endTiller s.cur (if (me s1).capValid then escalate f s1 else s1))
      | none => .next (endTiller s.cur s1)
  else if !(retireReady s s.cur) then waitBusy s
  else if !((me s).win.doing.isEmpty) then waitBusy s
  else if !((me s).win.list.isEmpty) then waitBusy (modMe (modWin startList) s)
  else .next (retireMember s.cur (coreServed s.cur s))

/-! ## The stall watchdog (04 R112) -/

/-- How many tokens, flits or entries the flag or queue that a head waits on holds (04 R112, 24 R484). -/
def waitCount (t : Thread) (h : Head) : List Nat :=
  match h with
  | .flag n =>
    if n < 49 then [n, look 0 t.fifo n]
    else if n < 80 then [n, queueFlits (look [] t.rx (n - 72))]
    else [n, t.mq.operand.length]
  | .stuck n => [n, if n < 7 then (engOf t n).queue.length else t.mq.result.length]
  | _ => []

/-- The queues of the streams of a mask that meet a test, each with its count (04 R112). -/
def queueCounts (t : Thread) (mask : Nat) (p : Nat → Bool) : List (List Nat) :=
  ((upFrom 0 6).filter fun b => bitOf mask b && p (b + 1)).map fun b => [b + 1, (engOf t (b + 1)).queue.length]

/-- What a C head that waits on engine queues waits on: a JOIN on each named queue that is not idle, a FORK on each that
is full, another word on one (04 R98, R101, R102, R112). -/
def queueWaits (s : State) (tid : Nat) (h : Head) : List (List Nat) :=
  let t := thr s tid
  match decodeAt .C (codeFrom s tid 0 t.c.pc.toNat) with
  | .ok (.join m, _) => queueCounts t m fun st => !(streamIdle t st)
  | .ok (.fork _ m, _) => queueCounts t m fun st => !(queueRoom s.clock.now (engOf t st))
  | _ => [waitCount t h]

/-- Whether a head waits in a way that the watchdog counts (04 R112). -/
def countsStall (h : Head) : Bool :=
  match h with
  | .flag n => n < 64 || (72 ≤ n && n ≤ 80)
  | .stuck _ => true
  | _ => false

/-- What the watchdog reports of a thread's waiting streams: each with its command index, its mPC and each FIFO or queue
that it waits on, with the count (04 R112). -/
def stallWaits (s : State) (tid : Nat) : List (List Nat) :=
  let t := thr s tid
  (t.heads.filter fun e => countsStall e.2).flatMap fun e =>
    let (cmd, mpc, _) := posOf t e.1
    (if e.1 = 0 then queueWaits s tid e.2 else [waitCount t e.2]).map fun w =>
      [e.1, if e.1 = 0 then 0 else cmd.toNat, if e.1 = 0 then t.c.pc.toNat else mpc] ++ w

/-- Event STALL_WATCHDOG: the stall count of thread `a` has reached its partition's limit; the supervisor receives the
report and resets the partition (04 R112). With `flag` it comes from outside: the supervisor itself has faulted, and
partition `a` is reset (19 R428, R446). -/
def execStallWatchdog (s : State) : Out :=
  let tid := s.arg.a
  let t := thr s tid
  if s.arg.flag then .next (resetPartition s.arg.a s)
  else if occupied s tid && !(isTiller tid) && !t.dying && t.frz.isNone && (part s t.id.part).cfg.stall * 2000 ≤ t.stallNs then
    .next (resetPartition t.id.part (emit (.stallReport tid (stallWaits s tid)) s))
  else .fault (.notEnabled "STALL_WATCHDOG")

end Sys2Proof.Machine
end

