-- ==== Sys2Proof/Machine/SysRegs.lean ====
section
/-!
DEFINITION. System registers: what SRR reads and SRW writes under each number, and the read of the trace buffer
(05 R121-R126; 08 R207, R216, R217; 10 R265, R266; 12 R284, R286, R323, R324; 16 R378; 17 R406, R411; 19 R448; 21 R460;
23 R478; 24 R482, R485, R487, R491, R495).
-/
namespace Sys2Proof.Machine

/-- Fields of a register, each as its lowest bit and its value (00 R10). -/
def packed (l : List (Nat × Nat)) : Word := BitVec.ofNat 64 ((l.map fun f => f.2 * 2 ^ f.1).foldl (· + ·) 0)

/-! ## Registers of the thread (05 R122-R125; 08 R207, R216; 10 R265; 12 R324; 24 R495) -/

/-- sr.ctx (05 R123). -/
def ctxReg (s : State) (tid : Nat) : Word :=
  let t := thr s tid
  packed [(56, s.hub.module), (51, t.id.part), (44, t.id.vf), (32, (isTiller tid).toNat), (24, quadOf (tileOf tid)),
    (22, dieOf (tileOf tid)), (12, tileOf tid), (0, ctxOf tid)]

/-- sr.team (05 R124). -/
def teamReg (s : State) (tid : Nat) : Word :=
  let id := (thr s tid).id
  if isTiller tid then 0 else packed [(48, id.node), (32, (team s id.team).members.length), (24, id.member)]

/-- sr.ctl (05 R125). -/
def ctlReg (t : Thread) : Word := packed [(8, t.sr.dbg.toNat), (0, t.sr.dzen.toNat)]

/-- sr.acstat (08 R216). -/
def acstatReg (w : Window) : Word :=
  packed [(63, w.isOpen.toNat), (61, w.op), (59, w.ty), (55, w.cls), (49, w.list.length)]

/-- sr.mstat (10 R265). -/
def mstatReg (t : Thread) : Word :=
  packed [(63, t.nest.isSome.toNat), (62, t.shadow.loaded.toNat),
    (56, match t.nest with | some n => nestSets n.cfg n.set | none => 0), (0, t.steps)]

/-- sr.rqdepth (12 R324). -/
def rqdepthReg (t : Thread) : Word :=
  packed ((upFrom 0 8).map fun q => (8 * q, queueFlits (look [] t.rx q)))

/-- sr.oqdepth (12 R324). -/
def oqdepthReg (t : Thread) : Word :=
  packed [(32, t.mq.bound.isSome.toNat), (16, t.mq.operand.length), (0, 256 * t.mq.result.length)]

/-- sr.rstat (24 R495). -/
def rstatReg (t : Thread) : Word := packed [(62, t.replay.mode), (61, t.replay.div.toNat), (0, t.replay.count.toNat)]

/-! ## Registers of the tile (08 R217; 10 R266; 12 R323; 16 R378; 19 R448; 21 R460) -/

/-- sr.lmcount (08 R217). -/
def lmcountReg (t : Tile) : Word := packed [(48, t.spcorr), (32, t.sbcorr), (16, t.uncorr), (0, t.pdrop)]

/-- sr.mhealth; `n` self-tests ran at bring-up (10 R266; 25 R504). -/
def mhealthReg (n : Nat) (a : ArraySt) : Word :=
  packed [(63, a.off.toNat), (62, a.fuse.toNat), (61, a.spare.toNat), (58, a.sgrp), (50, a.fenced), (49, a.sfail.toNat),
    (16, satAdd 65535 n a.tests), (0, a.fails)]

/-- sr.tstat (19 R448). -/
def tstatReg (s : State) (tl : Nat) : Word :=
  packed [(63, (occupied s (tl * 6 + 4)).toNat), (62, (occupied s (tl * 6 + 5)).toNat), (48, (tile s tl).pendList.length),
    (16, (tile s tl).esc), (0, (tile s tl).faults)]

/-- sr.monstat (21 R460). -/
def monstatReg (t : Tile) : Word :=
  packed ([(48, t.monFails), (32, t.monChecks)] ++
    t.mons.flatMap fun e => [(12 + e.1, 1), (3 * e.1, e.2.owner)])

/-! ## Registers of the die, the partition and the module (12 R284, R286; 16 R378; 17 R406, R411; 23 R478) -/

/-- sr.prstat; the nine bits of held show a full hold list as 511 (16 R378; DEDUCED, log entry 118). -/
def prstatReg (s : State) (p d : Nat) : Word :=
  let g := die s d
  let c : PrCount := look {} g.prs p
  packed [(32, c.pages), (16, c.groups), (7, min 511 g.hold), (0, g.batch.length)]

/-- sr.migstat (16 R378). -/
def migstatReg (pt : Partition) : Word := packed [(32, pt.stats.slip), (16, pt.stats.aband), (0, (queuedMigs pt).length)]

/-- sr.pgrank (17 R406). -/
def pgrankReg (l : Launch) : Word :=
  match l.group with
  | some g => packed [(32, g.gen.toNat), (16, g.n), (0, g.rank)]
  | none => packed [(16, 1)]

/-- sr.granary (17 R411). -/
def granaryReg (pt : Partition) : Word := packed [(32, pt.cfg.granary), (0, (pt.colls.map fun e => e.2.units).foldl (· + ·) 0)]

/-- sr.fabstat (17 R411). -/
def fabstatReg (h : Hub) : Word :=
  packed ((h.ports.map fun e => (32 + e.1, e.2.up.toNat)) ++ [(31, h.time.lock.toNat), (16, h.time.hops), (0, h.time.offset)])

/-- sr.quadmap0 to sr.quadmap2 (23 R478). -/
def quadmapReg (c : PartCfg) (i : Nat) : Word := packed ((c.quads.filter fun q => q / 64 = i).map fun q => (q % 64, 1))

/-- sr.launch (23 R478). -/
def launchReg (l : Launch) (prio : Nat) : Word := packed [(32, l.seq.toNat), (11, prio), (8, l.queue), (0, l.energy)]

/-- sr.poolstat (23 R478). -/
def poolstatReg (s : State) (p d : Nat) : Word :=
  packed [(48, (part s p).stats.resets), (32, ((die s d).regions.any fun r => r.part = p).toNat),
    (16, (part s p).hubNodes.length), (0, (poolOf s p d).length)]

/-! ## Reading (05 R121, R126) -/

/-- A register that a tiller reads as zero (04 R93). -/
def appReg (tid : Nat) (v : Word) : Word := if isTiller tid then 0 else v

/-- Profiling, trace and breakpoint registers of a tile by number (24 R485, R487, R491). -/
def debugReg (t : Tile) (n : Nat) : Option Word :=
  if n < 0x208 then some (look 0 t.prof.cfg (n - 0x200))
  else if n < 0x210 then some (look 0 t.prof.cnt (n - 0x208))
  else match n with
    | 0x210 => some t.trace.ctl
    | 0x211 => some (packed [(32, t.trace.lost), (31, t.trace.wrapped.toNat), (0, t.trace.next)])
    | 0x212 => some (BitVec.ofNat 64 t.trace.tidx)
    | 0x213 => some (look 0 t.trace.buf t.trace.tidx)
    | n => if 0x218 ≤ n && n ≤ 0x21B then some (look 0 t.prof.bpt (n - 0x218)) else none

/-- The value of the system register of a number for a thread; none where the number is illegal (05 R121). -/
def sysReg (s : State) (tid n : Nat) : Option Word :=
  let t := thr s tid
  let tl := tile s (tileOf tid)
  let pt := part s t.id.part
  let d := dieOf (tileOf tid)
  let cnt := countAt tl t.id.part
  match n with
  | 0x000 => some (ctxReg s tid)
  | 0x001 => some (teamReg s tid)
  | 0x002 => some t.sr.args
  | 0x004 => some t.sr.spbase
  | 0x005 => some t.sr.spsize
  | 0x006 => some t.sr.sbbase
  | 0x007 => some t.sr.sbsize
  | 0x008 => some (ctlReg t)
  | 0x010 => some (nsWord s)
  | 0x011 => some (BitVec.ofNat 64 (tickOf s t.id.part))
  | 0x012 => some (BitVec.ofNat 64 pt.cfg.tickns)
  | 0x018 => some (BitVec.ofNat 64 pt.cfg.hentry)
  | 0x040 => some (lmcountReg tl)
  | 0x041 => some (appReg tid (BitVec.ofNat 64 t.tags.length))
  | 0x042 => some (appReg tid (acstatReg t.win))
  | 0x043 => some (appReg tid (if t.win.isOpen then BitVec.ofNat 64 t.win.base else 0))
  | 0x080 => some (appReg tid (mstatReg t))
  | 0x081 => some (mhealthReg s.sec.tests tl.arr)
  | 0x0C0 => some (packed [(16, pt.cfg.flowHi), (0, pt.cfg.flowLo)])
  | 0x0C1 => some (packed [(32, pt.cfg.flowAb), (0, pt.cfg.flowNe)])
  | 0x0C2 => some (BitVec.ofNat 64 cnt.transit)
  | 0x0C3 => some (packed [(48, cnt.bound), (32, cnt.undeliv), (16, cnt.late), (0, cnt.error)])
  | 0x0C4 => some (appReg tid (rqdepthReg t))
  | 0x0C5 => some (appReg tid (oqdepthReg t))
  | 0x0E0 => some (pgrankReg (launch s t.id.launch))
  | 0x0E1 => some (granaryReg pt)
  | 0x0E2 => some (fabstatReg s.hub)
  | 0x100 => some (BitVec.ofNat 64 t.id.pasid)
  | 0x101 => some (packed [(32, look 0 (die s (dieOf (tileOf tid))).miss (missKey (tileOf tid) t.id.part)), (16, cnt.nres), (0, cnt.refused)])
  | 0x102 => some (prstatReg s t.id.part d)
  | 0x103 => some (migstatReg pt)
  | 0x104 => some (packed [(32, pt.stats.rmw), (0, pt.stats.saved)])
  | 0x140 => some (monstatReg tl)
  | 0x180 => some (tstatReg s (tileOf tid))
  | 0x1C0 => some (quadmapReg pt.cfg 0)
  | 0x1C1 => some (quadmapReg pt.cfg 1)
  | 0x1C2 => some (quadmapReg pt.cfg 2)
  | 0x1C3 => some (launchReg (launch s t.id.launch) t.id.prio)
  | 0x1C4 => some (packed [(32, pt.cfg.stall), (0, pt.cfg.age)])
  | 0x1C5 => some (poolstatReg s t.id.part d)
  | 0x220 => some (rstatReg t)
  | n => if 0x200 ≤ n && n < 0x220 then debugReg tl n else none

/-- The state after sr.tword has been read: tidx is one further (24 R487). -/
def tidxNext (tid n : Nat) (s : State) : State :=
  if n = 0x213 then
    modTile (tileOf tid) (fun t => { t with trace := { t.trace with tidx := (t.trace.tidx + 1) % 8192 } }) s
  else s

/-- SRR: an illegal number faults with reason 8; sr.ns and sr.tick are timer reads, which recording captures
(05 R121, R126; 24 R493). -/
def execSrr (d n : Nat) (s : State) : Out :=
  if !(occupied s s.cur) then .fault .noThread
  else match sysReg s s.cur n with
    | none => illegalAt 8 s
    | some v =>
      if n = 0x010 || n = 0x011 then
        if logFull s s.cur 1 then waitBusy s else doneCS 2 (setShared d 3 v) s
      else doneCS 2 (fun s => tidxNext s.cur n (modMe (setG d v) s)) s

/-- Event TWORD_READ: thread `a` reads sr.tword into g register `b` by its SRR (24 R487). -/
def execTwordRead (s : State) : Out := execSrr s.arg.b 0x213 { s with cur := s.arg.a, strm := 0 }

/-! ## Writing (00 R5, R10; 05 R126) -/

/-- The writable bits of sr.pcfgN (24 R485). -/
def pcfgMask : Word := BitVec.ofNat 64 (2 ^ 64 - 2 ^ 42)

/-- The writable bits of sr.bptN (24 R491). -/
def bptMask : Word := BitVec.ofNat 64 (2 ^ 64 - 2 ^ 60 + (2 ^ 59 - 2 ^ 56) + (2 ^ 48 - 1))

/-- The bits of sr.tctl that software stores (24 R487). -/
def tctlMask : Word := BitVec.ofNat 64 (2 ^ 63 + (2 ^ 62 - 2 ^ 24))

/-- The trace buffer after a write to sr.tctl: writing 1 to frozen clears it; one that the device sets in this network
cycle it sets at its end (00 R10; 24 R487, R489). -/
def writeTctl (v : Word) (t : Trace) : Trace :=
  let kept : Word := t.ctl &&& BitVec.ofNat 64 (2 ^ 24 - 2 ^ 20 + (if v.getLsbD 62 then 0 else 2 ^ 62))
  { t with ctl := (v &&& tctlMask &&& ~~~(BitVec.ofNat 64 (2 ^ 62))) ||| kept }

/-- A tile after a write to a profiling, trace or breakpoint register (24 R485, R487, R491). The value that a write to a
counter replaces is kept, since a device increment of this network cycle prevails over the write (00 R10). -/
def writeDebug (now n : Nat) (v : Word) (t : Tile) : Tile :=
  if n < 0x208 then { t with prof := { t.prof with cfg := put0 0 (n - 0x200) (v &&& pcfgMask) t.prof.cfg } }
  else if n < 0x210 then
    let i := n - 0x208
    { t with prof := { t.prof with cnt := put0 0 i v t.prof.cnt, wrote := put i (now, look 0 t.prof.cnt i) t.prof.wrote } }
  else if n = 0x210 then { t with trace := writeTctl v t.trace }
  else if n = 0x212 then { t with trace := { t.trace with tidx := v.toNat % 8192 } }
  else if 0x218 ≤ n then { t with prof := { t.prof with bpt := put0 0 (n - 0x218) (v &&& bptMask) t.prof.bpt } }
  else t

/-- SRW: an illegal number faults with reason 8, and a register without a writable field is left as it is (05 R126). -/
def execSrw (n a : Nat) (s : State) : Out :=
  if !(occupied s s.cur) then .fault .noThread
  else match sysReg s s.cur n with
    | none => illegalAt 8 s
    | some _ =>
      let v := gOf (me s) a
      if n = 0x008 then doneC 2 (fun t => { t with sr := { t.sr with dzen := v.getLsbD 0 } }) s
      else if 0x200 ≤ n && n < 0x21C then
        doneCS 2 (fun s => modTile (tileOf s.cur) (writeDebug s.clock.now n v) s) s
      else doneC 2 (fun t => t) s

end Sys2Proof.Machine
end

