-- ==== Sys2Proof/Machine/Faults.lean ====
section
/-!
DEFINITION. How a thread comes to rest and goes on: the end of a freeze with its record and its tiller, resumption,
pre-emption requests and debug stops, and the FRZ words (19 R418-R440; 24 R490).
-/
namespace Sys2Proof.Machine

/-! ## The frozen record (19 R422, R423, R431) -/

/-- A stream's position in the form of selector class 8 (19 R431). -/
def posWord (t : Thread) (st : Nat) : Word :=
  if st = 0 then t.c.pc
  else
    let (cmd, mpc, iter) := posOf t st
    packed [(48, iter), (32, mpc), (0, cmd.toNat)]

/-- Word 0 of the frozen record (19 R423). -/
def recWord0 (z : Freeze) : Word :=
  match z.fault with
  | none => 0
  | some f => packed [(32, f.cmd.toNat), (18, f.held.toNat), (17, f.async.toNat), (16, f.defer.toNat), (8, f.engine), (0, f.code)]

/-- The progress index of the failing engine (19 R422). -/
def recProg (t : Thread) (z : Freeze) : Nat :=
  match z.fault with
  | none => 0
  | some f =>
    if f.prog != 0 || f.async then f.prog
    else if f.defer || f.engine = 0 then 0
    else match (engOf t f.engine).call with
      | some c => c.prog
      | none => 0

/-- The collective runs of a thread that hold a fault (19 R419). -/
def heldRuns (s : State) (tid : Nat) : List (Nat × FaultRec) :=
  (part s (partOf s tid)).colls.filterMap fun e =>
    if e.2.team = (thr s tid).id.team && e.2.member = (thr s tid).id.member && !(isTiller tid) then
      e.2.heldFault.map fun f => (e.1, f)
    else none

/-- The sixteen words of a frozen record (19 R422). -/
def recordOf (s : State) (tid : Nat) (z : Freeze) : List Word :=
  let t := thr s tid
  let f : FaultRec := z.fault.getD {}
  [recWord0 z, f.lo, f.addr, t.c.pc] ++ ([1, 2, 3, 4, 5, 6].map (posWord t)) ++
  [BitVec.ofNat 64 (recProg t z), packed [(9, (heldRuns s tid).length), (2, t.held.length), (0, z.pending)], z.ns,
    packed [(26, ctxOf tid), (16, tileOf tid), (8, t.id.part), (0, t.far.length)], 0, 0]

/-! ## The end of a freeze (19 R419, R425, R428) -/

/-- Whether an MTEST of the thread holds the array. -/
def testing (s : State) (tid : Nat) : Bool :=
  (arrOf s (tileOf tid)).occupant = some (ctxOf tid) && (thr s tid).nest.isNone

/-- The M word in which the cut of a freezing thread lies comes to its rest: a self-test that an MTEST began ends when its
time has come, and a MEMIT ends the row that it is writing (10 R250, R261, R262). -/
def finishM (tid : Nat) (s : State) : State :=
  let s0 : State := { s with cur := tid, strm := 2 }
  let c := callOf s0
  if testing s tid && c.held && c.base ≤ cycle s then { endTest s0 with cur := s.cur, strm := s.strm }
  else if c.held && c.part != 0 then
    match decodeAt .M (codeFrom s tid 2 (c.entry.off + c.mpc)) with
    | .ok (.memit _ a out _ _, _) => { emitRow a out s0 with cur := s.cur, strm := s.strm }
    | _ => s
  else s

/-- Whether the work at the cut of a thread has come to rest: its local loads have landed, its M words have retired, the
lists that entered lanes completed have performed, and its nest is paused (10 R250, 19 R419). -/
def atRest (s : State) (tid : Nat) : Bool :=
  !(testing s tid) && decide (loadsLand (thr s tid) ≤ s.clock.now) && (thr s tid).win.doing.isEmpty &&
  !((thr s tid).fly.any onlyRetires) && match (thr s tid).nest with
    | some n => n.phase = .paused
    | none => true

/-- The thread's results in flight, saved with their remaining cycles; an AOPEN that has not issued will read its base again
(08 R211; 19 R418, R420). -/
def saveFly (z : Freeze) (t : Thread) : Thread :=
  { t with
    win := { t.win with bad := none }
    fly := t.fly.map fun r => if r.rel || onlyRetires r then r else { r with rel := true, due := r.due - cutCycle z r.stream } }

/-- What the scatter word at which the A stream stands does to the window once its updates have performed: none where
it is an APUSH with lanes still to enter, or has not begun (08 R211-R215). -/
def scatterEnd (s : State) (tid : Nat) : Option (Window → Window) :=
  match (engOf (thr s tid) 5).call with
  | none => none
  | some c =>
    if !c.held then none
    else match decodeAt (Stream.ofCode 5) (codeFrom s tid 5 (c.entry.off + c.mpc)) with
      | .ok (.apush _ _ _, _) => if c.prog = 64 then some id else none
      | .ok (.aopen _ op ty cls _, _) =>
        some fun _ => { isOpen := true, base := c.base, op := op.code, ty := ty.code, cls := cls }
      | .ok (.aflush _, _) => some id
      | .ok (.aclose _, _) => some fun _ => {}
      | _ => none

/-- A scatter word of a thread that has come to rest with nothing left to do has retired (08 R213, 19 R419). -/
def restScatter (tid : Nat) (s : State) : State :=
  match scatterEnd s tid with
  | some f =>
    let s2 := endScatter (modThr tid (modWin f) { s with cur := tid, strm := 5 })
    { s2 with cur := s.cur, strm := s.strm }
  | none => s

/-- The record closes: results in flight are saved, the record is written, and a stop record is offered to the trace buffer (19 R419, R420, R422; 24 R486). -/
def closeFreeze (tid : Nat) (z : Freeze) (s : State) : State :=
  let s1 := modThr tid (saveFly z) (restScatter tid s)
  let w := recordOf s1 tid z
  let z1 : Freeze := { z with closed := true, record := w }
  let st := match z.fault with
    | some f => f.engine
    | none => z.failing.getD 0
  let (cmd, mpc, _) := posOf (thr s1 tid) st
  traceEv tid true 0 5 st (if st = 0 then 0 else mpc) (if st = 0 then (thr s1 tid).c.pc.toNat else cmd.toNat) (w.headD 0) 0
    (modThr tid (fun t => { t with frz := some z1 }) s1)

/-- Event FREEZE: once the cut of thread `a` is past and its work is at rest, its record closes. A faulting thread
receives a tiller or joins the pending list, a faulting tiller escalates, and a thread stopped by an interrupt waits
for its save or for the debugger (19 R419, R425, R427, R428, R440; 24 R490). -/
def execFreeze (s : State) : Out :=
  let tid := s.arg.a
  match (thr s tid).frz with
  | none => .fault (.notEnabled "FREEZE")
  | some z =>
    if z.closed || s.clock.now ≤ z.cut then .fault (.notEnabled "FREEZE")
    else
      let s1 := finishM tid s
      if !(atRest s1 tid) then .fault (.notEnabled "FREEZE")
      else
        let s2 := closeFreeze tid z s1
        .next (if z.fault.isNone then s2 else if isTiller tid then tillerFault tid s2 else needTiller tid s2)

/-! ## Interrupts and resumption (19 R420, R433, R438-R440; 24 R490) -/

/-- A thread sees an interrupt: a running thread freezes at its cut, a frozen one keeps it pending (19 R438, R439).
`kind` is 1 for a pre-emption and 2 for a debug stop, which goes before a pre-emption of the same network cycle; of two that
a frozen thread keeps, the debug stop is taken first (24 R496; log entry 38). -/
def interrupt (kind tid : Nat) (s : State) : State :=
  match (thr s tid).frz with
  | none => modThr tid (fun t => { t with frz := some (freezeOf s none false kind) }) s
  | some z =>
    if z.taken = kind then s
    else if kind = 2 && z.taken = 1 && z.raisedAt = s.clock.now && z.fault.isNone then
      modThr tid (fun t => { t with frz := some { z with taken := 2, pending := 1 } }) s
    else if z.pending = kind then s
    else if z.pending = 0 then modThr tid (fun t => { t with frz := some { z with pending := kind } }) s
    else if z.taken = 0 then modThr tid (fun t => { t with frz := some { z with pending := 2, behind := 1 } }) s
    else s

/-- The copies of a resumed thread: those stopped at their own fault go on (11 R275). -/
def restartCopies (l : List Copy) : List Copy := l.map fun c => { c with stopped := false }

/-- The thread of a resumption: interrupted block calls wait for their engines, and results of streams with no block call
left land counted from the next cycle; those of the others are counted from their engine's first service (19 R420).
Cancelled results are gone (R432), and copies stopped at their own fault go on (11 R282). -/
def unfreeze (cyc : Nat) (t : Thread) : Thread :=
  let idle := [1, 2].filter fun st => (engOf t st).call.isNone && (engOf t st).queue.isEmpty
  let t1 := idle.foldl (fun t st => rebase st (cyc + 1) t) { t with fly := t.fly.filter fun r => !r.gone }
  { t1 with
    frz := none
    eng := mapVals (fun _ (e : EngStream) => { e with back := e.call.isSome }) t1.eng
    nest := t1.nest.map fun n => { n with since := cyc }
    copies := restartCopies t1.copies }

/-- The timers of a thread's runs that a timeout had stopped count again (17 R402). -/
def restartTimers (tid : Nat) (s : State) : State :=
  let id := (thr s tid).id
  modPart id.part (fun pt => { pt with
    colls := mapVals (fun _ (c : Coll) => if c.team = id.team && c.member = id.member then { c with timerOff := false } else c) pt.colls }) s

/-- The other live members of a stopped thread's team see a stop request in the next network cycle (24 R490). -/
def tellStop (tid : Nat) (s : State) : State :=
  if isTiller tid then s
  else modTeam (thr s tid).id.team (fun tm => { tm with stops := some (min (tm.stops.getD (s.clock.now + 1)) (s.clock.now + 1)) }) s

/-- A freeze in which no stream issues a word (19 R433). -/
def allStill (z : Freeze) : Freeze := { z with stops := upFrom 0 7 }

/-- A frozen thread is resumed: a held fault is taken first, those of the context in arrival order and then those of runs
in rising flow order; then a pending interrupt; neither lets a word issue before it, and copies stopped at their own fault run on beside the
interrupt (11 R282). Otherwise every stream goes on at
its cut (19 R419, R433). -/
def resume (tid : Nat) (s : State) : State :=
  match (thr s tid).frz with
  | none => s
  | some z =>
    let again := fun (f : FaultRec) (s : State) =>
      let s1 := raise tid { f with held := true } false (modThr tid (fun t => { t with frz := none }) s)
      modThr tid (fun t => { t with frz := t.frz.map fun y => allStill { y with pending := z.pending, behind := z.behind } }) s1
    match (thr s tid).held, heldRuns s tid with
    | f :: rest, _ => again f (modThr tid (fun t => { t with held := rest }) s)
    | [], (w, f) :: _ =>
      again f (modPart (partOf s tid) (fun pt => { pt with colls := adjust w (fun c => { c with heldFault := none }) pt.colls }) s)
    | [], [] =>
      if z.pending != 0 then
        let s1 := modThr tid (fun t => { t with
          frz := some { allStill (freezeOf s none false z.pending) with pending := z.behind }, copies := restartCopies t.copies }) s
        if z.pending = 2 then tellStop tid s1 else s1
      else restartTimers tid (modThr tid (unfreeze (cycle s)) s)

/-- The live members of a team by thread number. -/
def liveOf (s : State) (t : Nat) : List Nat :=
  (team s t).members.filter fun tid => occupied s tid && (thr s tid).id.team = t && !(thr s tid).dying && !(isTiller tid)

/-- A debug stop of one thread: it freezes, with the stream of a breakpoint at its word or the C stream after an EBRK
standing still, and the other live members of its team see a stop request. Where the thread is already freezing for
something else, the stop is pending (19 R439; 24 R490). -/
def debugStop (tid : Nat) (failing : Option Nat) (s : State) : State :=
  let st := stopsOf failing failing.isNone
  match (thr s tid).frz with
  | none => tellStop tid (modThr tid (fun t => { t with frz := some { freezeOf s none false 2 with failing := failing, stops := st } }) s)
  | some z =>
    let pend := if z.taken = 2 || z.pending != 0 then z.pending else 2
    modThr tid (fun t => { t with frz := some { z with stops := z.stops ++ st, pending := pend } }) s

/-- EBRK: a NOP while no debugger is attached, and otherwise a debug stop with the C stream held after it
(05 R146; 19 R418; 24 R490). -/
def execEbrk (s : State) : Out :=
  doneCS 1 (fun s1 => if (me s).sr.dbg then debugStop s.cur none s1 else s1) s

/-- Whether an enabled breakpoint of a thread's tile matches where a stream stands (24 R491). -/
def breakpointAt (s : State) (tid st : Nat) : Bool :=
  let t := thr s tid
  let (cmd, mpc, _) := posOf t st
  (tile s (tileOf tid)).prof.bpt.any fun e =>
    let b := e.2.toNat
    bitOf b 63 && bitsOf b 60 3 = st && bitsOf b 56 3 = ctxOf tid && ctxOf tid < 4 &&
      (if st = 0 then bitsOf b 0 32 = t.c.pc.toNat else bitsOf b 32 16 = mpc && bitsOf b 0 32 = cmd.toNat)

/-- Whether a stream stands at a word that has issued and goes on over several cycles: it does not reach issue again. -/
def underWay (t : Thread) (st : Nat) : Bool :=
  if st = 0 then t.cprog != 0 else ((engOf t st).call.map Call.held).getD false

/-- Whether the word that a stream would issue is stopped by a breakpoint (24 R490, R491). -/
def breaks (s : State) (tid st : Nat) : Bool :=
  (thr s tid).sr.dbg && !((thr s tid).noMatch.contains st) && !(underWay (thr s tid) st) && breakpointAt s tid st

/-- The members of a team that a stop request of the debugger reaches: those that live with dbg set (24 R490). -/
def stoppable (s : State) (t : Nat) : List Nat := (liveOf s t).filter fun m => (thr s m).sr.dbg

/-- Event DEBUG_STOP: thread `a` stops for the debugger, at a breakpoint of stream `b` minus one, or with `b` 0 as a member
of a team of which another has stopped (24 R490). -/
def execDebugStop (s : State) : Out :=
  let tid := s.arg.a
  let t := thr s tid
  if s.arg.b = 0 then
    match (team s t.id.team).stops with
    | some n =>
      if occupied s tid && n ≤ s.clock.now then
        .next (modTeam t.id.team (fun tm => { tm with stops := none })
          ((stoppable s t.id.team).foldl (fun s m => interrupt 2 m s) s))
      else .fault (.notEnabled "DEBUG_STOP")
    | none => .fault (.notEnabled "DEBUG_STOP")
  else if canIssue s tid (s.arg.b - 1) && breaks s tid (s.arg.b - 1) then
    .next (modThr tid (fun t => { t with noMatch := addNat (s.arg.b - 1) t.noMatch }) (debugStop tid (some (s.arg.b - 1)) s))
  else .fault (.notEnabled "DEBUG_STOP")

/-! ## Teams named by the host (23 R477, 24 R492) -/

/-- The running team that a write to PREEMPT, DBGSTOP or DBGRES names, if any (23 R477). -/
def namedTeam (s : State) (p : Nat) (v : Word) : Option Nat :=
  let x := v.toNat
  (s.teams.find? fun e =>
    let l := launch s e.2.launch
    e.2.part = p && e.2.node = bitsOf x 48 16 && e.2.savedAt.isNone && l.queue = bitsOf x 35 3 && l.vf = 4 * p + bitsOf x 32 3 &&
      l.seq.toNat = bitsOf x 0 32).map Prod.fst

/-! ## The FRZ words (19 R430-R437) -/

/-- The frozen thread that capability register h`a` of the tiller at issue names, if the capability is valid
(19 R426). -/
def capOf (s : State) (a : Nat) : Option Nat := if a = 0 && (me s).capValid then (me s).tillerOf else none

/-- A FRZ word: illegal with reason 9 in an application context; an access of class 15 of the tiller; −1 for an invalid
capability (03 R90; 19 R426, R430). -/
def frzWord (d a : Nat) (k : Nat → State → Out) (s : State) : Out :=
  if !(occupied s s.cur) then .fault .noThread
  else if !(isTiller s.cur) then illegalAt 9 s
  else if classHeld (me s) 15 then waitBusy s
  else match capOf s a with
    | none => doneC 2 (setG d minusOne) s
    | some f => k f s

/-- The class, the index and the sub of a selector; none where its upper half is not zero (19 R431). -/
def selector (v : Word) : Option (Nat × Nat × Nat) :=
  let x := v.toNat
  if 2 ^ 32 ≤ x then none else some (bitsOf x 12 4, bitsOf x 0 12, bitsOf x 16 16)

/-- The header of an in-flight result; the latch number of a word that writes no latch and the register of a compare
are free values (19 R431; log entry 69). -/
def flyHeader (r : InFlight) : Word :=
  packed [(63, 1), (60, r.latch.getD (Config.flightField r.wid 0 % 8)),
    (55, if r.pred.isSome then Config.flightField r.wid 1 % 32 else r.reg), (54, r.wb.toNat), (48, r.due), (45, r.stream)]

/-- An item of the frozen state by its selector; none where it is not allotted (19 R431). -/
def frozenItem (s : State) (f : Nat) (sel : Nat × Nat × Nat) : Option Word :=
  let t := thr s f
  let (c, i, sub) := sel
  let ok := fun (b : Bool) (w : Word) => if b then some w else none
  match c with
  | 0 => ok (i < 16 && sub = 0) ((((t.frz.map Freeze.record).getD [])[i]?).getD 0)
  | 1 => ok (i < 64 && sub = 0) (gOf t i)
  | 2 => ok (i < 48 && sub = 0) (pOf t i)
  | 3 => ok (i < 4 && sub = 0) (tOf t i)
  | 4 => if sub = 0 then sysReg s f i else none
  | 5 => ok (i < 32 && sub < 64) ((lane (vOf t i) sub).setWidth 64)
  | 6 => ok (i < 8 && sub < 64) ((lane (bOf t i) sub).setWidth 64)
  | 7 => ok (i < 4 && sub < 8192) ((accOf t i (sub / 128) (sub % 128)).setWidth 64)
  | 8 => ok (i < 7 && sub = 0) (posWord t i)
  | 9 => ok (i < 49 && sub = 0 && i / 7 != i % 7) (BitVec.ofNat 64 (look 0 t.fifo i))
  | 10 => ok (i < 32 && sub = 0) (match t.fly[i]? with | some r => if r.gone then 0 else flyHeader r | none => 0)
  | 11 => ok (i < 32 && sub < 64) (match t.fly[i]? with | some r => if r.gone then 0 else (lane r.row sub).setWidth 64 | none => 0)
  | 12 => ok (i < 256 && sub < 3) (match t.tags[i]?, sub with
      | some e, 0 => BitVec.ofNat 64 e.1
      | some e, 1 => BitVec.ofNat 64 e.2.toNat
      | some _, _ => 1
      | none, _ => 0)
  | 13 => ok (i < 8 && sub = 0) (match kOf t i with | .idle => 0 | .busy => 1 | .done => 2)
  | _ => none

/-- FRZ.RD (19 R432). -/
def execFrzRd (d a b : Nat) (s : State) : Out :=
  frzWord d a (fun f s =>
    match (selector (gOf (me s) b)).bind (frozenItem s f) with
    | none => doneC 2 (setG d (neg 2)) s
    | some v => doneC 2 (setG d v) s) s

/-- The parts of one range that lie outside another, as start and length. -/
def outsideOf (a n b m : Nat) : List (Nat × Nat) :=
  if n = 0 then []
  else if m = 0 then [(a, n)]
  else [(a, min (a + n) (max a b) - a), (max a (min (a + n) (b + m)), a + n - max a (min (a + n) (b + m)))].filter
    fun r => 0 < r.2

/-- Whether a raw region of a copy in flight meets a range (11 R270, R272). -/
def rawMeets (s : State) (p : Nat) (c : Copy) (r : Nat × Nat) : Bool :=
  (rawSrc c || rawDst c) && meets c.laddr (ceilDiv (boxElems c * copyBits s p c) 8) r.1 r.2

/-- Whether a packet bound for a context's local memory meets a range of it (12 R289). -/
def packetMeets (tid : Nat) (k : Packet) (r : Nat × Nat) : Bool :=
  k.dkind = 1 && k.dctx = ctxOf tid && (k.mcast || k.dtile = tileOf tid) &&
    (meets k.addr (64 * k.data.length) r.1 r.2 || (k.flag != 0 && meets k.flag 8 r.1 r.2))

/-- Whether a range of a thread's memory is addressed by a copy, a delivery or a relayout in flight, holds handle
storage, or lies under an armed monitor (19 R432, 21 R458). -/
def rangeBusy (s : State) (tid : Nat) (r : Nat × Nat) : Bool :=
  let t := thr s tid
  let p := t.id.part
  (part s p).handles.any (fun e => storedInAny (tileOf tid) [r] e.2) || t.copies.any (fun c => rawMeets s p c r) ||
  s.packets.any (fun k => k.part = p && packetMeets tid k r) ||
  (tile s (tileOf tid)).mons.any fun e =>
    e.2.owner = ctxOf tid && meets e.2.base (e.2.count * e.2.stride) r.1 r.2

/-- The state after an allocation register of a frozen thread is written, or the status that refuses it; its tiller's own
allocation registers read the new value too (08 R195; 19 R425, R432). -/
def writeAlloc (f n : Nat) (v : Word) (s : State) : Word × State :=
  let t := thr s f
  let bank := n = 6 || n = 7
  let (a, m) := if bank then (t.sr.sbbase.toNat, t.sr.sbsize.toNat) else (t.sr.spbase.toNat, t.sr.spsize.toNat)
  let (b, k) := if n = 4 || n = 6 then (v.toNat, m) else (a, v.toNat)
  let (lo, hi) := memRange bank
  let tl := tileOf f
  let others := rangesHeld { s with threads := del f s.threads } tl bank
  if b % 4096 != 0 || k % 4096 != 0 || b < lo || hi < b + k || !(rangeFree others b k) then (neg 4, s)
  else if (outsideOf a m b k).any (rangeBusy s f) then (neg 5, s)
  else
    let s1 := (outsideOf b k a m).foldl (fun s r => modTile tl (fillRange r.1 r.2 []) s) s
    let given := fun (t : Thread) => { t with sr :=
      if bank then { t.sr with sbbase := BitVec.ofNat 64 b, sbsize := BitVec.ofNat 64 k }
      else { t.sr with spbase := BitVec.ofNat 64 b, spsize := BitVec.ofNat 64 k } }
    let s2 := modThr f given s1
    (0, match ((thr s f).frz.bind Freeze.tiller) with
      | some c => modThr (tl * 6 + c) given s2
      | none => s2)

/-- The thread without the progress that a stream held: a long word that had begun gives up its place and its
reservation (19 R432). -/
def dropHeld (st : Nat) (t : Thread) : Thread :=
  match (engOf t st).call with
  | none => t
  | some c =>
    if !c.held then t
    else
      let gone := (engOf t st).words.filter fun w => w.wid = c.wid
      let t1 := gone.foldl (fun t w => match w.push with
        | some y => setRsv st y (rsvd t st y - 1) t
        | none => t) t
      modEng st (fun e => { e with words := prune (e.words.filter fun w => w.wid != c.wid) }) t1

/-- A call moved to a position of its block, with nothing held at the old one (19 R432). -/
def moveCall (mpc iter : Nat) (c : Call) : Call :=
  { c with mpc := mpc, iter := iter, prog := 0, held := false, snapA := [], snapB := [], got := [], part := 0 }

/-- The state after a stream position of a frozen thread is written, or the status that refuses it (19 R432). -/
def writePos (f st : Nat) (v : Word) (s : State) : Word × State :=
  let t := thr s f
  if st = 0 then
    (0, modThr f (fun t => if t.c.pc = v then t else setPc v { t with cprog := 0 }) s)
  else
    let (cmd, mpc, iter) := posOf t st
    let m := bitsOf v.toNat 32 16
    let i := bitsOf v.toNat 48 12
    let e := engOf t st
    let start := match e.call, e.queue with
      | some c, _ => if c.entry.one then none else some c
      | none, q :: _ => if q.one || (callFault s f st q).isSome then none else some (startCall s f st q)
      | none, [] => none
    match start with
    | none => (neg 4, s)
    | some c =>
      if 2 ^ 60 ≤ v.toNat || v.toNat % 2 ^ 32 != cmd.toNat || m < 2 || c.len ≤ m || c.rep ≤ i then (neg 4, s)
      else if m = mpc && i = iter then (0, s)
      else (0, modThr f (fun t => modEng st (fun e => { e with call := some (moveCall m i c) }) (dropHeld st t)) s)

/-- The thread with the in-flight result of a number cancelled: its word has retired, and the others keep their numbers
(19 R432). -/
def cancelFly (i : Nat) (t : Thread) : Thread :=
  match t.fly[i]? with
  | none => t
  | some r =>
    let t1 := { t with fly := modAt (fun r => { r with gone := true }) i t.fly }
    if t1.fly.any fun x => x.wid = r.wid && x.stream = r.stream && !x.gone then t1 else retire r.stream r.wid t1

/-- A row with one lane replaced. -/
def setLane (n : Nat) (v : Lane) (r : Row) : Row := rowOf fun k => if k = n then v else lane r k

/-- The state after an item of a frozen thread is written, with the status; a register on which a far reply landed in this
network cycle keeps the reply (19 R432). -/
def writeItem (f : Nat) (sel : Nat × Nat × Nat) (v : Word) (s : State) : Word × State :=
  let (c, i, sub) := sel
  let low : Lane := v.setWidth 32
  let put_ := fun (g : Thread → Thread) => ((0 : Word), modThr f g s)
  let stands := fun (n : Nat) (g : Thread → Thread) => put_ (if look 0 (thr s f).replied n = s.clock.now + 1 then id else g)
  match c with
  | 1 => stands i (setG i v)
  | 2 => stands (64 + i) (setP i v)
  | 3 => put_ (setT i v)
  | 4 =>
    if 4 ≤ i && i ≤ 7 then writeAlloc f i v s
    else if i = 8 then put_ (fun t => { t with sr := { t.sr with dzen := v.getLsbD 0 } })
    else (neg 3, s)
  | 5 => put_ (fun t => setV i (setLane sub low (vOf t i)) t)
  | 6 => put_ (fun t => setB i (setLane sub low (bOf t i)) t)
  | 7 => put_ (setAcc i (sub / 128) (sub % 128) low)
  | 8 => writePos f i v s
  | 9 =>
    let n := v.toNat
    if 16 < n || 16 < n + look 0 (thr s f).rsv i then (neg 4, s) else put_ (fun t => { t with fifo := put0 0 i n t.fifo })
  | 10 => if v.getLsbD 63 then (neg 4, s) else put_ (cancelFly i)
  | _ => (neg 3, s)

/-- The status of writing a value to the item that a selector names, and the state (19 R432). -/
def frozenWrite (f : Nat) (sel v : Word) (s : State) : Word × State :=
  match selector sel with
  | none => (neg 2, s)
  | some x =>
    match frozenItem s f x with
    | none => (neg 2, s)
    | some _ => writeItem f x v s

/-- FRZ.WR: the value is g[gd] before it becomes the status (19 R432). -/
def execFrzWr (d a b : Nat) (s : State) : Out :=
  frzWord d a (fun f s =>
    let sel := gOf (me s) b
    let v := gOf (me s) d
    doneCS 2 (fun s => let r := frozenWrite f sel v s; modMe (setG d r.1) r.2) s) s

/-- FRZ.RES: it waits until every far access of the tiller before it has performed (19 R433). -/
def execFrzRes (d a : Nat) (s : State) : Out :=
  frzWord d a (fun f s =>
    if !(farQuiet (me s)) then waitBusy s
    else doneCS 2 (fun s => resume f (revoke f (modMe (setG d 0) s))) s) s

/-- FRZ.KILL (19 R434). -/
def execFrzKill (d a : Nat) (s : State) : Out :=
  frzWord d a (fun f s => doneCS 2 (fun s => killThread f (revoke f (modMe (setG d 0) s))) s) s

/-- FRZ.ARR: an arrival for the frozen thread, whose release covers its own accesses and the tiller's (04 R116;
19 R435). -/
def execFrzArr (d a b : Nat) (s : State) : Out :=
  frzWord d a (fun f s =>
    let n := (gOf (me s) b).toNat
    if 7 < n then doneC 2 (setG d (neg 4)) s
    else if arrivedAt (thr s f) n then doneC 2 (setG d (neg 6)) s
    else if !(releaseReady (me s) (teamScope s f)) || !(arriveReady s f) then waitBusy s
    else doneCS 2 (fun s => arriveBar f n (modMe (setG d 0) s)) s) s

/-- FRZ.ESC (19 R436). -/
def execFrzEsc (d a : Nat) (s : State) : Out :=
  frzWord d a (fun f s => doneCS 2 (fun s => escalate f (revoke f (modMe (setG d 0) s))) s) s

end Sys2Proof.Machine
end

