-- ==== Sys2Proof/Machine/Collectives.lean ====
section
/-!
DEFINITION. Collectives: the checks of COLL.LOAD, the COLL words, the collective engine with its ops and rings, and the
notices between ranks (17 R384-R404).
-/
namespace Sys2Proof.Machine

/-! ## Records (17 R389-R391) -/

/-- The fields of a collective's header, with the addresses of its op table and its channel table (17 R389). -/
def parseColl (b : List Byte) : Coll :=
  { n := field b 4 2, r := field b 6 2, wf := field b 8 1, tmo := field b 10 2,
    bsize := (upFrom 0 8).map fun i => field b (32 + 2 * i) 2, param := BitVec.ofNat 64 (field b 48 8) }

/-- A channel record (17 R390). -/
def parseChan (b : List Byte) : ChanRec := { dir := field b 0 1, peer := field b 1 1, pch := field b 2 1, depth := field b 3 1 }

/-- An operand of an op record (17 R391). -/
def parseOperand (b : List Byte) (off : Nat) : Operand :=
  { kind := field b off 1, index := field b (off + 1) 1, chunk := field b (off + 2) 2 }

/-- An op record (17 R391). -/
def parseOp (b : List Byte) : OpRec :=
  { kind := field b 0 1, deps := field b 1 1, func := field b 2 1, a := parseOperand b 4, b := parseOperand b 8,
    o := parseOperand b 12, lo := field b 16 2, hi := field b 18 2,
    succ := ([20, 22, 24, 26].map fun k => field b k 2).filter fun x => x != 0xFFFF }

/-- The op of an index; an op that is not there names nothing. -/
def opOf (c : Coll) (i : Nat) : OpRec := c.ops.getD i {}

/-- The channel record of an index. -/
def chanOf (c : Coll) (i : Nat) : ChanRec := c.chans.getD i {}

/-- The size in chunks of a buffer; 0 for one that is not named. -/
def sizeOf_ (c : Coll) (i : Nat) : Nat := c.bsize.getD i 0

/-- The operands that an op reads. -/
def readsOf (o : OpRec) : List Operand := [o.a, o.b]

/-- Whether an op reads an in channel. -/
def readsChan (ch : Nat) (o : OpRec) : Bool := (readsOf o).any fun x => x.kind = 2 && x.index = ch

/-- Whether an op sends on an out channel. -/
def writesChan (ch : Nat) (o : OpRec) : Bool := o.o.kind = 2 && o.o.index = ch

/-- Whether an op reads the result of op `i`. -/
def readsResult (i : Nat) (o : OpRec) : Bool := (readsOf o).any fun x => x.kind = 3 && x.chunk = i

/-- The elements of a chunk (17 R389). -/
def chunkElems (wf : Nat) : Nat := 4096 / wireBytes wf

/-! ## The checks of COLL.LOAD (17 R392, R395) -/

/-- The first field of a header that breaks R389, by its offset. -/
def collHeaderFault (b : List Byte) : Option Nat :=
  let nbuf := field b 3 1
  if field b 0 2 = 0 || 1024 < field b 0 2 then some 0
  else if 16 < field b 2 1 then some 2
  else if 8 < nbuf then some 3
  else if field b 4 2 = 0 || 256 < field b 4 2 then some 4
  else if field b 4 2 ≤ field b 6 2 then some 6
  else if 2 < field b 8 1 then some 8
  else if !(zeroAt b 9 1) then some 9
  else if field b 10 2 = 0 then some 10
  else if !(zeroAt b 12 4) then some 12
  else if field b 16 8 % 32 != 0 then some 16
  else if field b 24 8 % 8 != 0 || (field b 2 1 = 0 && field b 24 8 != 0) then some 24
  else if (upFrom 0 8).any (fun i => (field b (32 + 2 * i) 2 = 0) == decide (i < nbuf)) then some 32
  else if !(zeroAt b 56 8) then some 56
  else none

/-- The modules of a launch. -/
def modulesOf (s : State) (l : Nat) : List Nat :=
  match (launch s l).group with
  | some g => g.members.map Prod.fst
  | none => [s.hub.module]

/-- Whether a channel record is acceptable (17 R390, R395; log entry 41 for the reserved bytes). -/
def chanGood (s : State) (c : Coll) (b : List Byte) (i : Nat) : Bool :=
  let x := chanOf c i
  x.dir ≤ 1 && x.peer != s.hub.module && (modulesOf s c.launch).contains x.peer &&
  (if x.dir = 1 then 2 ≤ x.depth && x.depth ≤ 64 else x.depth = 0) && zeroAt b 4 4 &&
  !(c.ops.any fun o => if x.dir = 1 then writesChan i o else readsChan i o)

/-- Whether an operand names a chunk of a buffer. -/
def isBuffer (c : Coll) (x : Operand) : Bool := x.kind = 1 && x.chunk < sizeOf_ c x.index

/-- Whether an operand names a channel. -/
def isChan (c : Coll) (x : Operand) : Bool := x.kind = 2 && x.index < c.chans.length

/-- Whether an operand of op `i` names the result of one of its predecessors (17 R395). -/
def isResult (c : Coll) (i : Nat) (x : Operand) : Bool :=
  x.kind = 3 && x.chunk < c.ops.length && (opOf c x.chunk).succ.contains i

/-- The span that an operand of an op carries, where it is known at load (17 R392); `fuel` bounds the chain of results. -/
def loadSpan (c : Coll) : Nat → Operand → Option (Nat × Nat)
  | 0, _ => none
  | fuel + 1, x =>
    if x.kind = 1 then some (c.r, c.r + 1)
    else if x.kind = 3 then
      let o := opOf c x.chunk
      match o.kind with
      | 1 => loadSpan c fuel o.a
      | 3 => some (o.lo, o.hi)
      | 4 => some (0, c.n)
      | _ => none
    else none

/-- The span that an op expects of its operand A or, with `second`, B (17 R394). -/
def expected (c : Coll) (o : OpRec) (second : Bool) : Option (Nat × Nat) :=
  let m := o.lo + splitOf (o.hi - o.lo)
  match o.kind with
  | 3 => some (if second then (m, o.hi) else (o.lo, m))
  | 4 => if second then none else some (0, c.n)
  | _ => none

/-- Whether what is known at load of an operand's span is what its op expects. -/
def spanFits (c : Coll) (o : OpRec) (second : Bool) : Bool :=
  match loadSpan c (c.ops.length + 1) (if second then o.b else o.a), expected c o second with
  | some x, some y => x == y
  | _, _ => true

/-- Whether the operands of op `i` are such as R392 allows. -/
def operandsGood (c : Coll) (i : Nat) (o : OpRec) : Bool :=
  let out := o.o.kind = 0 || isBuffer c o.o || isChan c o.o
  let src := fun x => isBuffer c x || isChan c x || isResult c i x
  match o.kind with
  | 1 => (isBuffer c o.a || isResult c i o.a) && o.b.kind = 0 && isChan c o.o
  | 2 => isChan c o.a && o.b.kind = 0 && (o.o.kind = 0 || isBuffer c o.o)
  | 3 => src o.a && src o.b && out
  | _ => (isChan c o.a || isResult c i o.a) && isBuffer c o.b && out && spanFits c o false &&
      4 * chunkElems c.wf * (o.b.chunk + 1) ≤ 4096 * sizeOf_ c o.b.index

/-- The ops that can be reached from a set of ops along successors. -/
def reached (c : Coll) : Nat → List Nat → List Nat → List Nat
  | 0, _, seen => seen
  | fuel + 1, new, seen =>
    let next := (new.flatMap fun i => (opOf c i).succ).foldl
      (fun (l : List Nat) x => if seen.contains x || l.contains x then l else x :: l) []
    if next.isEmpty then seen else reached c fuel next (next ++ seen)

/-- Whether op `i` is acceptable but for R395's cause 73 (log entry 41 for the reserved bytes). -/
def opGood (c : Coll) (b : List Byte) (i : Nat) : Bool :=
  let o := opOf c i
  let func := match o.kind with
    | 3 => o.func ≤ 2
    | 4 => o.func ≤ 1
    | _ => o.func = 0
  1 ≤ o.kind && o.kind ≤ 4 && operandsGood c i o && func && o.succ.all (· < c.ops.length) &&
  o.deps = (c.ops.filter fun x => x.succ.contains i).length && !((reached c c.ops.length [i] []).contains i) &&
  zeroAt b 3 1 && zeroAt b 28 4

/-- Whether a NODE's span and what is known of its operands' spans are those of a node of tree(n) (17 R395). -/
def nodeGood (c : Coll) (o : OpRec) : Bool :=
  o.kind != 3 || (o.lo + 2 ≤ o.hi && o.hi ≤ c.n && isNode c.n o.lo o.hi && spanFits c o false && spanFits c o true)

/-- The granary units that a collective needs (17 R389). -/
def granaryUnits (c : Coll) : Nat :=
  ((c.chans.filter fun x => x.dir = 1).map ChanRec.depth).foldl (· + ·) 0 +
  ((upFrom 0 c.ops.length).filter fun i => c.ops.any (readsResult i)).length

/-- The granary units that a partition's loaded collectives hold (17 R384, R411). -/
def granaryUsed (pt : Partition) : Nat := (pt.colls.map fun e => e.2.units).foldl (· + ·) 0

/-- The first check of the tables that fails, as cause and index (17 R395). -/
def tableFault (s : State) (c : Coll) (chans ops : List (List Byte)) : Option (Nat × Nat) :=
  match placeOf (fun x => !(chanGood s c x.1 x.2)) 0 (chans.zip (upFrom 0 chans.length)) with
  | some i => some (72, i)
  | none =>
    match (ops.zip (upFrom 0 ops.length)).find? fun x => !(opGood c x.1 x.2 && nodeGood c (opOf c x.2)) with
    | some x => some (if opGood c x.1 x.2 then 73 else 71, x.2)
    | none =>
      if (part s c.part).cfg.granary < granaryUsed (part s c.part) + granaryUnits c then some (66, 0) else none

/-! ## Lines of memory by the hub (17 R397, R398) -/

/-- What the hub finds of the homes of consecutive 64-byte pieces: it waits, or the cause and address of a fault, or the
homes. -/
abbrev Lines := Option (Except (Nat × Nat) (List Home))

/-- The homes of `n` pieces of `size` bytes from an address for the accesses of a unit for a collective; each page that is
not there is requested, and each piece to read at a peer is asked of it (17 R382, R398). -/
def findLines (u : HubUnit) (c : Coll) (size va : Nat) (wr : Bool) : Nat → State → Lines × State
  | 0, s => (some (.ok []), s)
  | n + 1, s =>
    match hubGo u c.part c.vf c.pasid va size wr s with
    | (.wait, s1) => (none, s1)
    | (.fault k, s1) => (some (.error (k, va)), s1)
    | (.home h, s1) =>
      match findLines u c size (va + size) wr n s1 with
      | (some (.ok hs), s2) => (some (.ok (h :: hs)), s2)
      | r => r

/-- The lines at some homes. -/
def readLines (s : State) (hs : List Home) : List Flit :=
  hs.map fun h => let r := homeRead s h 64; { bytes := r.1, poison := r.2 }

/-- The state after a unit writes lines from an address at their homes (17 R382). -/
def writeLines (u : HubUnit) (c : Coll) (va : Nat) (hs : List Home) (ls : List Flit) (s : State) : State :=
  ((hs.zip ls).zip (upFrom 0 hs.length)).foldl (fun s x =>
    hubWrite u c.part c.pasid (va + 64 * x.2) x.1.1 (fun _ => x.1.2.poison) (x.1.2.bytes.map some) 0 s) s

/-! ## The COLL words (17 R396-R400) -/

/-- The collective that a flow names in a partition. -/
def collOf (s : State) (p f : Nat) : Option Coll := find (part s p).colls f

/-- The state with a collective changed. -/
def modColl (p f : Nat) (g : Coll → Coll) (s : State) : State :=
  modPart p (fun pt => { pt with colls := adjust f g pt.colls }) s

/-- What makes each COLL word but COLL.LOAD fault first: the register of its flow, and a flow that is not loaded
(17 R396). -/
def collNameFault (s : State) (b : Nat) : Option FaultRec :=
  let v := (gOf (me s) b).toNat
  if 65536 ≤ v then some (flowRec 6 v 2)
  else if (collOf s (partOf s s.cur) v).isNone then some (flowRec 6 v 77)
  else none

/-- The first fault of COLL.LOAD that its header shows (17 R395): `live` says that the flow names an entry or a loaded
collective. -/
def headerFault (s : State) (p v : Nat) (h : List Byte) : Option FaultRec :=
  let live := (collOf s p v).isSome || (part s p).flows.any fun e => e.1 % 65536 = v
  if !(flowInRange s p (v % 65536)) then some (flowRec 6 v 0)
  else if 65536 ≤ v then some (flowRec 6 v 2)
  else match collHeaderFault h with
    | some off => some (flowRec 6 v off)
    | none => if live then some (flowRec 6 v 64) else none

/-- What reading a table finds: it waits, a fault, or the records of `size` bytes, and whether one is poisoned. -/
def readTable (c : Coll) (va size n : Nat) (s : State) : Lines × State :=
  findLines .other c size va false n s

/-- COLL.LOAD of a header: the hub reads its tables, then the header and the tables are checked, and the collective is
loaded (17 R395, R397). -/
def loadColl (tk : Tok) (f : Nat) (h : List Byte) (s : State) : Out :=
  let id := (me s).id
  let c : Coll := { parseColl h with part := id.part, vf := id.vf, pasid := id.pasid, launch := id.launch, team := id.team,
                                       member := id.member }
  let (ops, chans) := (field h 16 8, field h 24 8)
  match readTable c chans 8 (field h 2 1) s with
  | (none, s1) => waitAsked s s1
  | (some (.error (k, va)), s1) => faultAt (accessRec 6 k va) (afterFault s s1)
  | (some (.ok hc), s1) =>
    match readTable c ops 32 (field h 0 2) s1 with
    | (none, s2) => waitAsked s s2
    | (some (.error (k, va)), s2) => faultAt (accessRec 6 k va) (afterFault s s2)
    | (some (.ok ho), s2) =>
      let rc := hc.map fun x => homeRead s2 x 8
      let ro := ho.map fun x => homeRead s2 x 32
      match placeOf (fun x => x.2) 0 rc, placeOf (fun x => x.2) 0 ro with
      | some i, _ => faultAt (poisonRec 6 (chans + 8 * i)) s2
      | none, some i => faultAt (poisonRec 6 (ops + 32 * i)) s2
      | none, none =>
        let c1 : Coll := { c with chans := rc.map fun x => parseChan x.1, ops := ro.map fun x => parseOp x.1 }
        match headerFault s2 id.part f h with
        | some r => faultAt r s2
        | none => match tableFault s2 c1 (rc.map Prod.fst) (ro.map Prod.fst) with
          | some (cause, i) => faultAt (flowRec 6 f cause (if cause = 66 then 0 else i)) s2
          | none => issueEng 2 tk true (fun _ s3 =>
              modPart id.part (fun pt => { pt with colls := put f { c1 with units := granaryUnits c1 } pt.colls }) s3) s2

/-- COLL.LOAD: with g[ga] zero it unloads the flow (17 R397). -/
def execCollLoad (a b _cls : Nat) (tk : Tok) (s : State) : Out :=
  if !(occupied s s.cur) then .fault .noThread
  else match tokWait (cycle s) (me s) s.strm tk with
  | some fl => waitFlag fl s
  | none =>
    let x := (gOf (me s) a).toNat
    let v := (gOf (me s) b).toNat
    let p := partOf s s.cur
    if x = 0 then
      if 65536 ≤ v then faultAt (flowRec 6 v 2) s
      else match collOf s p v with
        | none => issueEng 2 tk true (fun _ s1 => s1) s
        | some c =>
          if c.open_ then faultAt (flowRec 6 v 76) s
          else issueEng 2 tk true (fun _ s1 => modPart p (fun pt => { pt with colls := del v pt.colls }) s1) s
    else
      let tl := tile s (tileOf s.cur)
      match readFault (me s) tl 6 x 64 8 with
      | some f => faultAt f s
      | none => loadColl tk v (readBytes tl.mem x 64) s

/-- Every other module of a collective's launch. -/
def otherModules (s : State) (c : Coll) : List Nat := (modulesOf s c.launch).filter fun m => m != s.hub.module

/-- A notice sent to every other rank's module (log entry 42). -/
def notify (c : Coll) (m : Nat → Msg) (s : State) : State := (otherModules s c).foldl (fun s x => emit (m x) s) s

/-- A notice of a generation and a rank, as the sets of a collective keep it. -/
def noticeKey (gen : BitVec 32) (rank : Nat) : Nat := gen.toNat * 256 + rank

/-- The chunk lines that a collective has taken in this network cycle (17 R412). -/
def linesNow (now : Nat) (c : Coll) : Nat := if c.lines.1 = now + 1 then c.lines.2 else 0

/-- A run ends as aborted at its own rank: every op stops, and the rings and results are discarded; the lines that arrived
in this network cycle count as late (17 R400, R412). -/
def endAborted (now : Nat) (c : Coll) : Coll :=
  { c with open_ := false, status := 1, opst := [], timerNs := 0, quiet := 0, timerOff := false, lines := (0, 0),
           late := c.late + BitVec.ofNat 32 (linesNow now c)
           chst := mapVals (fun _ (x : ChanSt) => { x with slots := [], consumed := 0 }) c.chst }

/-- A run ends as an abort of this rank, which tells the others (17 R400). -/
def abortRun (p f : Nat) (c : Coll) (s : State) : State :=
  notify c (fun m => .abortNotice m f c.gen c.r) (modColl p f (endAborted s.clock.now) s)

/-- Whether a generation has passed at a collective: it is the last run's or an earlier one's (17 R400). -/
def passed (c : Coll) (gen : BitVec 32) : Bool := (c.gen - gen).toNat < 2 ^ 31

/-- A collective whose next run opens with eight buffer bases (17 R398). Notices of earlier generations are forgotten. -/
def openRun (cls : Nat) (bases : List Nat) (s : State) (c : Coll) : Coll :=
  let gen := c.gen + 1
  let keep := fun (l : List Nat) => l.filter fun k => gen.toNat ≤ k / 256
  let t := me s
  let (cmd, mpc, _) := posOf t 6
  let c1 : Coll := { c with
    gen := gen, ran := true, bases := bases, cls := cls, team := t.id.team, member := t.id.member, cmd := cmd, mpc := mpc, opst := [],
    timerNs := 0, quiet := 0, timerOff := false, done := keep c.done, absent := keep c.absent, vf := t.id.vf, pasid := t.id.pasid,
    aborted := c.aborted.filter fun g => gen.toNat ≤ g,
    chst := mapVals (fun _ (x : ChanSt) => { x with slots := [], consumed := 0, limit := if x.limGen = gen then x.limit else 0, limGen := gen }) c.chst }
  if c.aborted.contains gen.toNat then { c1 with open_ := false, status := 1 } else { c1 with open_ := true }

/-- The ring limits that the in channels of a collective send at the start of a run (17 R386). -/
def sendLimits (f : Nat) (c : Coll) (s : State) : State :=
  (c.chans.filter fun x => x.dir = 1).foldl (fun s x => emit (.ringLimit x.peer f x.pch c.gen x.depth) s) s

/-- The fault of COLL.RUN, if any, in the order of R398. -/
def runFault (s : State) (f x : Nat) (c : Coll) : Option FaultRec :=
  let tl := tile s (tileOf s.cur)
  if c.open_ then some (flowRec 6 f 75)
  else (readFault (me s) tl 6 x 64 8).orElse fun _ =>
    if (upFrom 0 8).any (fun i => let t := leNat (readBytes tl.mem (x + 8 * i) 8); if sizeOf_ c i = 0 then t != 0 else t % 64 != 0)
    then some (flowRec 6 f 78) else none

/-- COLL.RUN (17 R398). -/
def execCollRun (a b cls : Nat) (tk : Tok) (s : State) : Out :=
  let x := (gOf (me s) a).toNat
  let f := (gOf (me s) b).toNat
  let p := partOf s s.cur
  let c := (collOf s p f).getD {}
  engWord 2 tk true (fun s => (collNameFault s b).orElse fun _ => runFault s f x c) (fun _ s1 =>
    let bases := (upFrom 0 8).map fun i => leNat (readBytes (tile s (tileOf s.cur)).mem (x + 8 * i) 8)
    let c1 := openRun cls bases s c
    let s2 := modColl p f (fun _ => c1) s1
    if c1.open_ then sendLimits f c1 s2 else s2) s

/-- The status record of COLL.WAIT (17 R399). -/
def statusRecord (c : Coll) : List Byte :=
  toBytes 4 (if c.ran then c.status else 2) ++ toBytes 4 c.gen.toNat ++ toBytes 4 c.late.toNat ++ toBytes 4 0

/-- COLL.WAIT: the record's bytes must be aligned, in one allocation and free of poison (17 R396, R399). -/
def execCollWait (a b _cls : Nat) (tk : Tok) (s : State) : Out :=
  if !(occupied s s.cur) then .fault .noThread
  else match tokWait (cycle s) (me s) s.strm tk with
  | some fl => waitFlag fl s
  | none =>
    match collNameFault s b with
    | some f => faultAt f s
    | none =>
      let c := (collOf s (partOf s s.cur) (gOf (me s) b).toNat).getD {}
      let x := (gOf (me s) a).toNat
      if c.open_ then waitFlag 81 s
      else match readFault (me s) (tile s (tileOf s.cur)) 6 x 16 8 with
        | some f => faultAt f s
        | none => issueEng 2 tk true (fun _ s1 => modTile (tileOf s.cur) (storeBytes (statusRecord c) x) s1) s

/-- Whether this rank has sent done for its open run (17 R401). -/
def sentDone (c : Coll) : Bool := c.done.contains (noticeKey c.gen c.r)

/-- COLL.ABORT (17 R400). -/
def execCollAbort (b : Nat) (tk : Tok) (s : State) : Out :=
  let f := (gOf (me s) b).toNat
  let p := partOf s s.cur
  let c := (collOf s p f).getD {}
  engWord 2 tk true (fun s => collNameFault s b)
    (fun _ s1 => if c.open_ && !(sentDone c) then abortRun p f c s1 else s1) s

/-! ## Faults of a run (17 R398, R402; 19 R419, R424) -/

/-- A fault of a run is taken by its participant, or held with the run while the participant is frozen or saved; a later
fault of a run that holds one is not raised (19 R419). -/
def faultRun (p f : Nat) (r : FaultRec) (s : State) : State :=
  let c := (collOf s p f).getD {}
  let r1 : FaultRec := { r with engine := 6, defer := true, async := true, cmd := c.cmd }
  let hold := modColl p f (fun c => { c with heldFault := some r1 }) s
  if c.heldFault.isSome then s
  else match liveAs s c.team c.member with
    | some tid => if (thr s tid).dying then s else if (thr s tid).frz.isSome then hold else raise tid r1 false s
    | none => if isSaved s p c.team c.member then hold else s

/-- A run ends for a span that does not fit: an abort, and flow-table misuse with cause 74 (17 R394, R398). -/
def spanMismatch (p f : Nat) (c : Coll) (s : State) : State := faultRun p f (flowRec 6 f 74) (abortRun p f c s)

/-- A run ends for an access the hub may not make (17 R398; 19 R424). -/
def accessRun (p f cause va : Nat) (c : Coll) (s : State) : State :=
  let lo := BitVec.ofNat 64 (cause + c.mpc % 65536 * 65536 + c.cmd.toNat * 2 ^ 32)
  faultRun p f { code := 1, lo := lo, addr := BitVec.ofNat 64 va } (abortRun p f c s)

/-! ## Rings (17 R386-R388) -/

/-- The run state of a channel. -/
def chst (c : Coll) (i : Nat) : ChanSt := look {} c.chst i

/-- The collective with a channel's run state changed. -/
def modChst (i : Nat) (g : ChanSt → ChanSt) (c : Coll) : Coll := { c with chst := put i (g (chst c i)) c.chst }

/-- The number of the chunk that op `i` takes from or sends on a channel: how many ops before it name the channel
(17 R393). -/
def chunkNo (names : OpRec → Bool) (c : Coll) (i : Nat) : Nat := ((c.ops.take i).filter names).length

/-- The op that consumes chunk `q` of an in channel (17 R393). -/
def consumer (c : Coll) (ch q : Nat) : Option Nat :=
  ((upFrom 0 c.ops.length).filter fun i => readsChan ch (opOf c i))[q]?

/-- Whether a chunk is present in its slot (17 R388). -/
def slotFull (x : SlotSt) : Bool := x.head.isSome && (upFrom 0 64).all fun k => (find x.lines k).isSome

/-- The chunk in a slot. -/
def slotChunk (x : SlotSt) : ChunkVal :=
  let h := x.head.getD (0, 0)
  { lo := h.1, hi := h.2, lines := (upFrom 0 64).map fun k => look {} x.lines k }

/-- Whether an arriving head has a span that its consuming op does not expect (17 R394). -/
def headBad (c : Coll) (ch q lo hi : Nat) : Bool :=
  match consumer c ch q with
  | none => false
  | some i =>
    let o := opOf c i
    let bad := fun (second : Bool) (x : Operand) =>
      x.kind = 2 && x.index = ch && match expected c o second with
        | some sp => sp != (lo, hi)
        | none => false
    bad false o.a || bad true o.b

/-- Whether what comes for a partition from the module and partition that the beat of the event names is accepted
(17 R383). -/
def fromMember (s : State) (p : Nat) : Bool := accepts s p s.arg.beat

/-- What a beat says of its sender (17 R383). -/
def sender (b : Beat) : Beat := { smod := b.smod, spart := b.spart, lone := b.lone, group := b.group }

/-- The state after a chunk head or line arrives for a channel of a flow of a partition, by a beat. It
is discarded as late where it is not of the open run or not from the channel's peer (17 R388). One for a slot that is
not yet free waits a network cycle (R412). One for a flow that is not loaded is discarded, as are limits and notices
(log entry 73). -/
def takeChunk (p f ch : Nat) (b : Beat) (x : ChunkBeat) (s : State) : State :=
  match collOf s p f with
  | none => s
  | some c =>
    let r := chanOf c ch
    let gen := if x.head then x.gen = c.gen.toNat else x.gen % 256 = c.gen.toNat % 256
    if !(c.open_ && gen && r.dir = 1 && r.peer = x.smod && r.pch = x.pch) then
      modColl p f (fun c => { c with late := c.late + 1 }) s
    else if (chst c ch).consumed + r.depth ≤ x.seq then
      { s with inputs := s.inputs ++ [{ at_ := s.clock.now + 1, what := .chunk, arg :=
          { a := p, b := f, c := ch, chunk := x, beat := sender b } }] }
    else if x.head && headBad c ch x.seq x.lo x.hi then spanMismatch p f c s
    else
      let fill := fun (y : SlotSt) =>
        if x.head then { y with head := some (x.lo, x.hi) }
        else { y with lines := put (x.line % 64) { bytes := padTo 64 x.bytes, poison := x.poison } y.lines }
      modColl p f (fun c => modChst ch (fun y => { y with slots := put x.seq (fill (look {} y.slots x.seq)) y.slots })
        (if x.head then c else { c with lines := (s.clock.now + 1, linesNow s.clock.now c + 1) })) s

/-- Event CHUNK: a chunk head or line arrives for channel `c` of flow `b` of partition `a` (17 R383, R387, R388). -/
def execChunk (s : State) : Out :=
  let (p, x) := (s.arg.a, s.arg.chunk)
  let b : Beat := { s.arg.beat with smod := x.smod }
  .next (if accepts s p b then takeChunk p s.arg.b s.arg.c b x s else s)

/-- The in channel of a flow that a chunk's head names by its sender and the sender's channel index; past the last where
no channel has them (17 R388, R390). -/
def chanFor (c : Coll) (x : ChunkBeat) : Nat :=
  (placeOf (fun (r : ChanRec) => r.dir = 1 && r.peer = x.smod && r.pch = x.pch) 0 c.chans).getD c.chans.length

/-- The state after a ring limit arrives for the out channel of a flow of a partition: only rising limits of the open run or a
later generation count (17 R386, R388). -/
def takeLimit (p f ch gen lim : Nat) (s : State) : State :=
  let gen := BitVec.ofNat 32 gen
  match collOf s p f with
  | none => s
  | some c =>
    if passed c gen && !(c.open_ && gen = c.gen) then s
    else modColl p f (modChst ch fun y =>
      if y.limGen = gen then { y with limit := max y.limit lim } else { y with limGen := gen, limit := lim }) s

/-- Event RING_LIMIT: a limit `e` of generation `d` for out channel `c` of flow `b` of partition `a` arrives
(17 R386). -/
def execRingLimit (s : State) : Out :=
  .next (if fromMember s s.arg.a then takeLimit s.arg.a s.arg.b s.arg.c s.arg.d s.arg.e s else s)

/-- The state of an op of an open run; its dependence counter starts at its record's (17 R393). -/
def opSt (c : Coll) (i : Nat) : OpSt := look { deps := (opOf c i).deps } c.opst i

/-- The collective with an op's state changed. -/
def modOp (i : Nat) (g : OpSt → OpSt) (c : Coll) : Coll := { c with opst := put i (g (opSt c i)) c.opst }

/-- Whether an operand is present (17 R393). -/
def present (c : Coll) (i : Nat) (x : Operand) : Bool :=
  match x.kind with
  | 2 => slotFull (look {} (chst c x.index).slots (chunkNo (readsChan x.index) c i))
  | 3 => (opSt c x.chunk).complete
  | _ => true

/-- Event OP_START: op `c` of flow `b` of partition `a` starts (17 R393). -/
def execOpStart (s : State) : Out :=
  let (p, f, i) := (s.arg.a, s.arg.b, s.arg.c)
  match collOf s p f with
  | none => .fault (.notEnabled "OP_START")
  | some c =>
    let o := opOf c i
    let x := opSt c i
    if c.open_ && i < c.ops.length && !x.started && x.deps = 0 && present c i o.a && present c i o.b then
      .next (modColl p f (modOp i fun x => { x with started := true }) s)
    else .fault (.notEnabled "OP_START")

/-- The address of chunk `k` of a buffer (17 R389). -/
def chunkVa (c : Coll) (x : Operand) : Nat := c.bases.getD x.index 0 + 4096 * x.chunk

/-- The pages of a buffer operand, found as they are needed; another operand has none. -/
def findOperand (u : HubUnit) (c : Coll) (x : Operand) (wr : Bool) (s : State) : Lines × State :=
  if x.kind = 1 then findLines u c 64 (chunkVa c x) wr 64 s else (some (.ok []), s)

/-- The value of an operand, with its span (17 R392). -/
def operandVal (s : State) (c : Coll) (i : Nat) (x : Operand) (hs : List Home) : ChunkVal :=
  match x.kind with
  | 1 => { lo := c.r, hi := c.r + 1, lines := readLines s hs }
  | 2 => slotChunk (look {} (chst c x.index).slots (chunkNo (readsChan x.index) c i))
  | 3 => (opSt c x.chunk).result.getD {}
  | _ => {}

/-- An operand made ready for a node: a leaf is made leaf(x) (17 R392). -/
def leafed (op wf : Nat) (x : ChunkVal) : List Flit :=
  if x.hi = x.lo + 1 then mapFlits wf (leafOp op wf) x.lines else x.lines

/-- The results of UPD on a chunk: the master lines written and the result lines (17 R392). -/
def updateChunk (c : Coll) (o : OpRec) (a : List Flit) (w : List Flit) : List Flit × List Flit :=
  let e : FRec := { op := o.func, wf := c.wf, param := c.param }
  let k := 4 / wireBytes c.wf
  let rows := (cut k 64 w).zip a
  let each := rows.map fun r =>
    let vs := ((r.1.flatMap fun l => (cut 4 64 l.bytes).map leNat).zip (elemsOf c.wf r.2.bytes)).map fun q => updateElem_ e q.1 q.2
    let bad := r.2.poison || r.1.any Flit.poison
    let ws : List Flit := (cut 64 k (vs.flatMap fun v => toBytes 4 v.1)).map fun x => { bytes := x, poison := bad }
    let out : Flit := { bytes := bytesOf c.wf (vs.map Prod.snd), poison := bad }
    (ws, out)
  (each.flatMap Prod.fst, each.map Prod.snd)

/-- The result of an op from its operands' values and, for UPD, its master lines: the result chunk and the master lines
to write (17 R392). -/
def opResult (c : Coll) (o : OpRec) (a b : ChunkVal) (w : List Flit) : ChunkVal × List Flit :=
  match o.kind with
  | 3 => ({ lo := o.lo, hi := o.hi,
            lines := zipFlits c.wf (nodeOp o.func c.wf) (leafed o.func c.wf a) (leafed o.func c.wf b) }, [])
  | 4 =>
    let (ws, out) := updateChunk c o a.lines w
    ({ lo := 0, hi := c.n, lines := out }, ws)
  | _ => (a, [])

/-- Whether an operand's span differs from what its op expects; the span of a result that a GET yields shows only here
(17 R394). -/
def spanBad (c : Coll) (o : OpRec) (second : Bool) (v : ChunkVal) : Bool :=
  match expected c o second with
  | some sp => sp != (v.lo, v.hi)
  | none => false

/-- The in channels that an op reads, each once. -/
def chansRead (o : OpRec) : List Nat := ((readsOf o).filter fun x => x.kind = 2).foldl (fun l x => addNat x.index l) []

/-- The state after an op that completes frees the slot of an in channel and tells its sender (17 R386). -/
def freeSlot (p f i : Nat) (c : Coll) (s : State) (ch : Nat) : State :=
  let q := chunkNo (readsChan ch) c i
  let r := chanOf c ch
  let n := (chst c ch).consumed + 1
  emit (.ringLimit r.peer f r.pch c.gen (n + r.depth))
    (modColl p f (modChst ch fun y => { y with consumed := n, slots := del q y.slots }) s)

/-- The collective after op `i` completes: its result is kept while an op still has to read it, results that no op will
read any more go, its successors count it, and the timer stands still for tmo µs (17 R393, R402; log entry 117). -/
def opDone (i : Nat) (v : ChunkVal) (c : Coll) : Coll :=
  let o := opOf c i
  let c1 := modOp i (fun x => { x with complete := true, result := some v }) c
  let c2 := o.succ.eraseDups.foldl (fun c j => modOp j (fun x => { x with deps := x.deps - 1 }) c) c1
  let read := fun (j : Nat) => (upFrom 0 c.ops.length).any fun k => readsResult j (opOf c k) && !(opSt c2 k).complete
  { c2 with quiet := c2.tmo * 2000, opst := mapVals (fun j (x : OpSt) => if read j then x else { x with result := none }) c2.opst }

/-- A run completes once done has come from every rank, its own included (17 R401). -/
def closeRun (c : Coll) : Coll :=
  if c.open_ && (upFrom 0 c.n).all (fun r => c.done.contains (noticeKey c.gen r)) then
    { c with open_ := false, status := 0, opst := [], timerNs := 0, quiet := 0, timerOff := false,
             chst := mapVals (fun _ (x : ChanSt) => { x with slots := [] }) c.chst }
  else c

/-- The state after a rank whose ops have all completed tells every rank (17 R401). -/
def tellDone (p f : Nat) (s : State) : State :=
  let c := (collOf s p f).getD {}
  if c.open_ && !(sentDone c) && (upFrom 0 c.ops.length).all (fun i => (opSt c i).complete) then
    modColl p f (fun c => closeRun { c with done := addNat (noticeKey c.gen c.r) c.done })
      (notify c (fun m => .doneNotice m f c.gen c.r) s)
  else s

/-- The buffer chunk of an op's source, for the flag words of what it sends (17 R387). -/
def sourceNo (o : OpRec) : Nat := if o.kind = 1 && o.a.kind = 1 then o.a.chunk else 0xFFFF

/-- The state after an op completes with its result (17 R393). -/
def completeOp (p f i : Nat) (c : Coll) (v : ChunkVal) (s : State) : State :=
  let o := opOf c i
  let s1 := if o.o.kind = 2 then
      let r := chanOf c o.o.index
      emit (.beats 0 (chunkBeats (beatFor s p r.peer (some c.launch)) f c.gen (chunkNo (writesChan o.o.index) c i) (sourceNo o) v.lo v.hi o.o.index v.lines)) s
    else s
  let s2 := (chansRead o).foldl (freeSlot p f i c) s1
  tellDone p f (modColl p f (opDone i v) s2)

/-- The addresses of the master lines of UPD, with their number (17 R392). -/
def masterVa (c : Coll) (o : OpRec) : Nat := c.bases.getD o.b.index 0 + 4 * chunkElems c.wf * o.b.chunk

/-- The master lines of UPD: to read, and to write at the same homes (17 R382, R392); another op has none. -/
def findMasters (u : HubUnit) (c : Coll) (o : OpRec) (wr : Bool) (s : State) : Lines × State :=
  if o.kind = 4 then findLines u c 64 (masterVa c o) wr (chunkElems c.wf / 16) s else (some (.ok []), s)

/-- The memory that an op reads and writes: the lines to read of A and of B, those of O, and the masters to write and to
read; it waits for pages and for what peers bring, or meets a fault. -/
def findOp (u : HubUnit) (c : Coll) (o : OpRec) (s : State) :
    Option (Except (Nat × Nat) (List (List Home))) × State :=
  let finds : List (State → Lines × State) := [findOperand u c o.a false,
    if o.kind = 4 then fun s => (some (.ok []), s) else findOperand u c o.b false,
    findMasters u c o true, findOperand u c o.o true, findMasters u c o false]
  finds.foldl (fun acc g => match acc with
    | (some (.ok hs), s) => match g s with
      | (some (.ok h), s1) => (some (.ok (hs ++ [h])), s1)
      | (some (.error e), s1) => (some (.error e), s1)
      | (none, s1) => (none, s1)
    | r => r) (some (.ok []), s)

/-- The state after op `i` has formed its result and written its lines: it completes, at once or when the peers that it
wrote to have acknowledged (17 R382, R393). -/
def endOp (u : HubUnit) (p f i : Nat) (c : Coll) (v : ChunkVal) (s : State) : State :=
  if hubBusy s u p then modColl p f (modOp i fun x => { x with sent := true, result := some v }) s
  else completeOp p f i c v s

/-- Event OP_COMPLETION: op `c` of flow `b` of partition `a`, which has started, completes once its pages are there and
its channel's limit lets it send, and its writes have performed (17 R386, R392, R393, R398). A write that a peer refuses
is an access-permission fault of cause 5 (R382). -/
def execOpCompletion (s : State) : Out :=
  let (p, f, i) := (s.arg.a, s.arg.b, s.arg.c)
  let no : Out := .fault (.notEnabled "OP_COMPLETION")
  match collOf s p f with
  | none => no
  | some c =>
    let o := opOf c i
    let u : HubUnit := .run f c.gen i
    let full := o.o.kind = 2 &&
      ((chst c o.o.index).limGen != c.gen || (chst c o.o.index).limit ≤ chunkNo (writesChan o.o.index) c i)
    if !(c.open_ && (opSt c i).started && !(opSt c i).complete) || full then no
    else if (opSt c i).sent then
      match hubRefused s u p with
      | some x => .next (accessRun p f 5 x.va c (noteRefused u p s))
      | none => if hubBusy s u p then no else .next (completeOp p f i c ((opSt c i).result.getD {}) s)
    else match findOp u c o s with
      | (none, s1) => waiting "OP_COMPLETION" s (onlyAsked s s1)
      | (some (.error (k, va)), s1) => .next (accessRun p f k va c (afterFault s s1))
      | (some (.ok hs), s1) =>
        let (ha, hb, hm, ho, hw) := (hs.getD 0 [], hs.getD 1 [], hs.getD 2 [], hs.getD 3 [], hs.getD 4 [])
        let s1 := countReads p ((ha ++ hb ++ hw).flatMap fun h => hbmPlace h 64) s1
        let a := operandVal s1 c i o.a ha
        let b := if o.kind = 4 then {} else operandVal s1 c i o.b hb
        if spanBad c o false a || (o.kind != 4 && spanBad c o true b) then .next (spanMismatch p f c s1)
        else
          let (v, ws) := opResult c o a b (readLines s1 hw)
          .next (endOp u p f i c v (writeLines u c (chunkVa c o.o) ho v.lines (writeLines u c (masterVa c o) hm ws s1)))

/-! ## Notices and the timer (17 R400-R404) -/

/-- Event DONE: done of generation `c` arrives from rank `d` for flow `b` of partition `a` (17 R401). -/
def execDone (s : State) : Out :=
  let (p, f) := (s.arg.a, s.arg.b)
  let gen := BitVec.ofNat 32 s.arg.c
  if !(fromMember s p) then .next s else
  match collOf s p f with
  | none => .next s
  | some c =>
    if passed c gen && !(c.open_ && gen = c.gen) then .next s
    else .next (modColl p f (fun c => closeRun { c with done := addNat (noticeKey gen s.arg.d) c.done }) s)

/-- Event ABORT_NOTICE: abort of generation `c` arrives from rank `d` for flow `b` of partition `a` (17 R400). -/
def execAbortNotice (s : State) : Out :=
  let (p, f) := (s.arg.a, s.arg.b)
  let gen := BitVec.ofNat 32 s.arg.c
  if !(fromMember s p) then .next s else
  match collOf s p f with
  | none => .next s
  | some c =>
    if c.open_ && gen = c.gen && !(sentDone c) then .next (modColl p f (endAborted s.clock.now) s)
    else if passed c gen then .next s
    else .next (modColl p f (fun c => { c with aborted := addNat gen.toNat c.aborted }) s)

/-- Event ABSENT: absent of generation `c` arrives from rank `d` for flow `b` of partition `a` (17 R404). -/
def execAbsent (s : State) : Out :=
  if !(fromMember s s.arg.a) then .next s else
  match collOf s s.arg.a s.arg.b with
  | none => .next s
  | some _ => .next (modColl s.arg.a s.arg.b
      (fun c => { c with absent := addNat (noticeKey (BitVec.ofNat 32 s.arg.c) s.arg.d) c.absent }) s)

/-- Event PRESENT: present of generation `c` arrives from rank `d` for flow `b` of partition `a` (17 R404). -/
def execPresent (s : State) : Out :=
  if !(fromMember s s.arg.a) then .next s else
  match collOf s s.arg.a s.arg.b with
  | none => .next s
  | some _ => .next (modColl s.arg.a s.arg.b
      (fun c => { c with absent := delNat (noticeKey (BitVec.ofNat 32 s.arg.c) s.arg.d) c.absent }) s)

/-- Whether a collective's timer counts, but for the time after an op's completion (17 R402). -/
def timerRuns (c : Coll) : Bool :=
  c.open_ && !c.timerOff && c.heldFault.isNone && !(c.absent.any fun k => k / 256 = c.gen.toNat)

/-- Event COLLECTIVE_TIMEOUT: the timer of flow `b` of partition `a` reaches its limit (17 R402). -/
def execCollectiveTimeout (s : State) : Out :=
  let (p, f) := (s.arg.a, s.arg.b)
  match collOf s p f with
  | none => .fault (.notEnabled "COLLECTIVE_TIMEOUT")
  | some c =>
    if timerRuns c && c.tmo * 2000 ≤ c.timerNs then
      .next (faultRun p f { code := 9, lo := BitVec.ofNat 64 (f + c.gen.toNat * 65536) }
        (modColl p f (fun c => { c with timerNs := 0, timerOff := true }) s))
    else .fault (.notEnabled "COLLECTIVE_TIMEOUT")

/-- A participant that is saved makes the ranks of its open runs absent, and one restored makes them present
(17 R404). -/
def markAbsent (p tid : Nat) (away : Bool) (s : State) : State :=
  let id := (thr s tid).id
  ((part s p).colls.filter fun e => e.2.team = id.team && e.2.member = id.member && e.2.open_).foldl (fun s e =>
    let c := e.2
    let key := noticeKey c.gen c.r
    notify c (fun m => if away then .absentNotice m e.1 c.gen c.r else .presentNotice m e.1 c.gen c.r)
      (modColl p e.1 (fun c => { c with absent := if away then addNat key c.absent else delNat key c.absent }) s)) s

end Sys2Proof.Machine
end

