-- ==== Sys2Proof/Machine/Save.lean ====
section
/-!
DEFINITION. Pre-emption, context save and restore, and the save list (19 R440-R445, 23 R477).
-/
namespace Sys2Proof.Machine

/-! ## Requests (19 R440, 23 R477) -/

/-- A team is asked to be pre-empted: every live member sees the interrupt (19 R438, R440). -/
def askPreempt (t : Nat) (s : State) : State :=
  if (team s t).preempt then s
  else (liveOf s t).foldl (fun s m => interrupt 1 m s) (modTeam t (fun tm => { tm with preempt := true }) s)

/-- The flows of the open collectives in which members of a team take part. -/
def openFlows (s : State) (t : Nat) : List (Nat × Coll) :=
  (part s (team s t).part).colls.filter fun e => e.2.open_ && e.2.team = t && (liveAs s t e.2.member).isSome

/-- Event PREEMPT: the host writes `v` to PREEMPT of partition `a`. The participants of an open collective are pre-empted
together with those of every rank, whose hubs are told, unless force is 1 (23 R477). With `flag` the request comes from
the hub of another rank, for the participant of flow `b`: it is discarded where no running launch binds the partition to
the sender's (17 R383), and a participant that is saved already is left alone. -/
def execPreempt (s : State) : Out :=
  let p := s.arg.a
  if s.arg.flag then
    match collOf s p s.arg.b with
    | some c => .next (if c.open_ && fromMember s p && (liveAs s c.team c.member).isSome then askPreempt c.team s else s)
    | none => .next s
  else match namedTeam s p s.arg.v with
  | none => .next s
  | some t =>
    let others := if s.arg.v.getLsbD 38 then [] else openFlows s t
    .next (askPreempt t (others.foldl (fun s e => notify e.2 (fun m => .gangPreempt m e.1 e.2.gen) s) s))

/-! ## The save area (19 R441-R443) -/

/-- The base address of an area of the save list. -/
def areaBase (w : Word) : Nat := w.toNat / 4096 * 4096

/-- The bytes of an area of the save list. -/
def areaSize (w : Word) : Nat := w.toNat % 4096 * 2 ^ 20

/-- The bytes that the image of one member takes (19 R441). -/
def saveSize : Nat := 262144

/-- The bytes that a team needs: for each member its image and its allocations (19 R441). -/
def teamNeed (ms : List Thread) : Nat :=
  (ms.map fun t => saveSize + t.sr.spsize.toNat + t.sr.sbsize.toNat).foldl (· + ·) 0

/-- The bytes of a member's allocations. -/
def memberBytes (s : State) (tid : Nat) : List Byte :=
  (allocs (thr s tid)).flatMap fun r => readBytes (tile s (tileOf tid)).mem r.1 r.2

/-- The listed bytes and the poisoned words of a member's allocations. -/
def memberMem (s : State) (tid : Nat) : Memory × List Nat :=
  let rs := allocs (thr s tid)
  let tl := tile s (tileOf tid)
  (tl.mem.filter fun e => rs.any fun r => r.1 ≤ e.1 && e.1 < r.1 + r.2, tl.poison.filter fun w => rs.any fun r => meets w 8 r.1 r.2)

/-- The monitors of a member's tile that it owns. -/
def memberMons (s : State) (tid : Nat) : SMap Monitor := (tile s (tileOf tid)).mons.filter fun e => e.2.owner = ctxOf tid

/-- What the area holds for a saved team: `n` bytes encrypted and authenticated under a key of the partition. The layout
of an image is the device's own, so only the save's number and the memory bytes stand for it (19 R443; log entry
21). -/
def sealedBytes (key no n : Nat) (mem : List Byte) : List Byte :=
  padTo n (Config.sealArea (Config.key key) (toBytes 8 no ++ mem))

/-- What the pages of a range answer for the save engine of a die: it waits for a translation, the first page without the
permission, or the translated pages (19 R442). No page is requested. -/
def areaPages (d vf pasid : Nat) (wr : Bool) : Nat → Nat → State → Option (Except Nat (List Nat)) × State
  | 0, _, s => (some (.ok []), s)
  | n + 1, va, s =>
    match agentXlat d 16384 vf pasid va s with
    | (.miss, s1) => (none, s1)
    | (.refused, s1) => (some (.error va), s1)
    | (.page t r w, s1) =>
      if !(if wr then w else r) then (some (.error va), s1)
      else match areaPages d vf pasid wr n (va + 4096) s1 with
        | (some (.ok ts), s2) => (some (.ok (t :: ts)), s2)
        | x => x

/-- The homes of the pages of an area, or none where one lies outside what the partition may reach; the save engine
reaches no peer's window (17 R382). -/
def areaHomes (s : State) (p : Nat) (ts : List Nat) : Option (List Home) :=
  ts.mapM fun t => match homeOf s p t 4096 with
    | .ok (.peer _ _) => none
    | h => h.toOption

/-- The state after bytes are written at the pages of an area. -/
def areaWrite (p : Nat) (hs : List Home) (bs : List Byte) (s : State) : State :=
  (hs.zip (cut 4096 hs.length bs)).foldl (fun s x => homeWrite p x.1 (fun _ => false) (x.2.map some) s) s

/-- The bytes at the pages of an area, and whether some are poisoned. -/
def areaRead (s : State) (n : Nat) (hs : List Home) : List Byte × Bool :=
  let rs := hs.map fun h => homeRead s h 4096
  ((rs.flatMap Prod.fst).take n, rs.any Prod.snd)

/-! ## Context save (19 R440, R442) -/

/-- Whether a member's work has ended as its team's save needs it: its far requests performed, its copies complete, and
nothing going on in its allocations, where a monitor may scan (19 R440; 21 R458). -/
def workEnded (s : State) (tid : Nat) : Bool :=
  (thr s tid).far.isEmpty && (thr s tid).copies.isEmpty && allocQuiet s tid &&
  !(armUnderWay s tid)

/-- Whether a member is at rest for its team's save: frozen for the pre-emption with its work ended (19 R440). -/
def savable (s : State) (tid : Nat) : Bool :=
  (match (thr s tid).frz with
    | some z => z.closed && z.fault.isNone && z.taken = 1
    | none => false) && workEnded s tid

/-- Whether a member that was at rest for its team's save has taken a fault of the shadow in this very network cycle: a
refusal of the save in the same cycle is still recorded (19 R447). -/
def justFaulted (s : State) (tid : Nat) : Bool :=
  (match (thr s tid).frz with
    | some z => z.fault.isSome && z.was && z.pending = 1 && z.raisedAt = s.clock.now
    | none => false) && workEnded s tid

/-- Whether a member holds a binding, at either end, with a thread outside its team (19 R442). -/
def boundOutside (ms : List Nat) (t : Thread) : Bool :=
  (match t.mq.bound with
    | some b => !(ms.contains b.peer)
    | none => false) || match t.mq.boundBy with
    | some u => !(ms.contains u)
    | none => false

/-- A fault-log record of the save engine for a team (19 R445). -/
def saveRecord (s : State) (kind flags : Nat) (tm : Team) (pasid va : Nat) (extra : Word) : List Byte :=
  flqRec kind flags tm.part (launchVf (launch s tm.launch)) pasid va tm.node 0 extra

/-- A member goes on after its team's save is refused: one with a fault keeps it and its pre-emption is over
(19 R442). -/
def goOn (tid : Nat) (s : State) : State :=
  match (thr s tid).frz with
  | some z => if z.fault.isSome then modThr tid (fun t => { t with frz := some { z with pending := 0 } }) s else resume tid s
  | none => s

/-- A save is refused: the record is written and every member goes on (19 R442). -/
def refuseSave (t reason va : Nat) (s : State) : State :=
  let tm := team s t
  let s1 := flqPut tm.part (saveRecord s 4 reason tm (launch s tm.launch).pasid va (nsWord s)) s
  (liveOf s t).foldl (fun s m => goOn m s) (modTeam t (fun tm => { tm with preempt := false }) s1)

/-- A member's context and allocations are released without its handles being dropped: those stored there wait for the
team (19 R440). -/
def putAway (t tid : Nat) (s : State) : State :=
  let x := thr s tid
  let p := x.id.part
  let s1 := markAbsent p tid true s
  let s2 := modPart p (fun pt => { pt with handles := mapVals (fun _ (e : Handle) =>
    if storedInAny (tileOf tid) (allocs x) e then { e with away := some t } else e) pt.handles }) s1
  let s3 := modTile (tileOf tid) (fun tl => { tl with mons := tl.mons.filter fun e => e.2.owner != ctxOf tid }) (leaveEngines tid s2)
  { s3 with threads := del tid s3.threads }

/-- A team whose checks have passed is saved: its area is written, its contexts and allocations are released, and it
enters the pools again with its age (19 R440, R443; 23 R475). -/
def saveTeam (t : Nat) (hs : List Home) (s : State) : State :=
  let tm := team s t
  let ms := liveOf s t
  let pt := part s tm.part
  let va := areaBase (pt.areas.headD 0)
  let ts := ms.map (thr s)
  let n := teamNeed ts
  let members := ms.map fun m => (m, thr s m)
  let sv : SavedTeam :=
    { team := t, area := (pt.areas.headD 0).toNat, bytes := n, no := s.nextTeam, members := members,
      mems := ms.map (memberMem s), mons := ms.map (memberMons s) }
  let s1 := areaWrite tm.part hs (sealedBytes pt.saveKey sv.no n (ms.flatMap (memberBytes s))) s
  let s2 := flqPut tm.part (saveRecord s 5 0 tm (launch s tm.launch).pasid va (BitVec.ofNat 64 n)) s1
  let s3 := ms.foldl (fun s m => putAway t m s) s2
  let s4 : State := { s3 with nextTeam := s3.nextTeam + 1 }
  let s5 := modPart tm.part (fun pt => { pt with areas := pt.areas.tail, saved := pt.saved ++ [sv] }) s4
  enterPool { launch := tm.launch, node := tm.node, part := tm.part, ns := tm.sinceNs, team := some t }
    (modTeam t (fun tm => { tm with savedAt := some t }) s5)

/-- Event CONTEXT_SAVE: team `a`, which is asked to be pre-empted and whose members are at rest, is saved, or is refused
and goes on; a write that fails after the checks resets its partition (19 R440, R442). A fault of this network cycle
comes before the save, but not before its refusal (R447). -/
def execContextSave (s : State) : Out :=
  let t := s.arg.a
  let tm := team s t
  let no : Out := .fault (.notEnabled "CONTEXT_SAVE")
  match liveOf s t with
  | [] => no
  | m0 :: rest =>
    let hit := (m0 :: rest).any (justFaulted s)
    if !(tm.preempt && tm.savedAt.isNone && (m0 :: rest).all fun m => savable s m || justFaulted s m) then no
    else match (part s tm.part).areas with
      | [] => .next (refuseSave t 1 0 s)
      | w :: _ =>
        let n := teamNeed ((m0 :: rest).map (thr s))
        if areaSize w < n then .next (refuseSave t 2 (areaBase w) s)
        else
          let id := (thr s m0).id
          match areaPages (dieOf (tileOf m0)) id.vf id.pasid true (ceilDiv n 4096) (areaBase w) s with
          | (none, s1) => waiting "CONTEXT_SAVE" s (onlyAsked s s1)
          | (some (.error va), s1) => .next (refuseSave t 3 va (onlyAsked s s1))
          | (some (.ok ts), s1) =>
            if (m0 :: rest).any fun m => boundOutside (m0 :: rest) (thr s m) then .next (refuseSave t 4 (areaBase w) (onlyAsked s s1))
            else if hit then no
            else match areaHomes s tm.part ts with
              | none => .next (resetPartition tm.part s)
              | some hs => .next (saveTeam t hs (onlyAsked s s1))

/-! ## Restore (19 R444) -/

/-- A handle record that lies in local memory, on a tile. -/
def onTile (tl : Nat) (r : HRec) : HRec := if r.space = 1 then { r with tile := tl } else r

/-- The handles whose storage lay in a member's allocations stand on its new tile (19 R444). -/
def moveHandles (p t : Nat) (x : Nat × Thread) (tl : Nat) (s : State) : State :=
  let home := fun (e : Handle) =>
    { e with away := none, hrec := onTile tl e.hrec, conv := e.conv.map fun c => { c with hrec := onTile tl c.hrec } }
  modPart p (fun pt => { pt with handles := mapVals (fun _ (e : Handle) =>
    if e.away = some t && (allocs x.2).any (fun r => storageMeets e (tileOf x.1) r.1 r.2) then home e else e) pt.handles }) s

/-- A saved member's thread, memory and monitors stand on a tile again, in a context (19 R443, R444). -/
def bringBack (p t : Nat) (x : Nat × Thread) (mem : Memory × List Nat) (mons : SMap Monitor) (tl c : Nat) (s : State) : State :=
  let s1 := moveHandles p t x tl s
  let s2 := modTile tl (fun y =>
    let y1 := (allocs x.2).foldl (fun y r => fillRange r.1 r.2 [] y) y
    let mem1 := mem.1.foldl (fun m e => writeByte m e.1 e.2) y1.mem
    let poison1 := mem.2.foldl (fun l w => addNat w l) y1.poison
    let mons1 := mons.foldl (fun m e => put e.1 { e.2 with owner := c } m) y1.mons
    { y1 with mem := mem1, poison := poison1, mons := mons1 }) s1
  { s2 with threads := put (tl * 6 + c) x.2 s2.threads }

/-- The thread numbers by member of a team whose saved members have been placed; a member that had ended has none
(19 R444). -/
def numbersOf (sv : SavedTeam) (n : Nat) : List Nat :=
  (upFrom 0 n).map fun m =>
    match (sv.members.zip sv.placed).find? fun x => x.1.2.id.member = m with
    | some x => x.2.1 * 6 + x.2.2
    | none => 3456

/-- A saved team is restored where it was placed: its members go on as after FRZ.RES, and its area returns to the list
(19 R444). -/
def restoreTeam (p : Nat) (sv : SavedTeam) (s : State) : State :=
  let t := sv.team
  let tm := team s t
  let s0 := modPart p (fun pt => { pt with
    areas := pt.areas ++ [BitVec.ofNat 64 sv.area], saved := pt.saved.filter fun x => x.team != t }) s
  let s1 := ((sv.members.zip (sv.mems.zip sv.mons)).zip sv.placed).foldl (fun s x =>
    bringBack p t x.1.1 x.1.2.1 x.1.2.2 x.2.1 x.2.2 s) s0
  let s2 := modTeam t (fun tm => { tm with members := numbersOf sv tm.members.length, savedAt := none, preempt := false }) s1
  let s3 := (sv.placed.map fun x => x.1 * 6 + x.2).foldl (fun s m => resume m (markAbsent p m false s)) s2
  flqPut p (saveRecord s 6 0 tm (launch s tm.launch).pasid (areaBase (BitVec.ofNat 64 sv.area)) (nsWord s)) s3

/-- Event RESTORE: the area of saved team `b` of partition `a`, which a pool has placed, is read and authenticated by the
context-save engine of its die; a failure resets the partition (19 R444). -/
def execRestore (s : State) : Out :=
  let no : Out := .fault (.notEnabled "RESTORE")
  let p := s.arg.a
  match savedTeam s p s.arg.b with
  | none => no
  | some sv =>
    if sv.placed.isEmpty || (part s p).draining.isSome then no
    else
      let l := launch s (team s sv.team).launch
      let d := dieOf (sv.placed.headD (0, 0)).1
      match areaPages d (launchVf l) l.pasid false (ceilDiv sv.bytes 4096) (areaBase (BitVec.ofNat 64 sv.area)) s with
      | (none, s1) => waiting "RESTORE" s (onlyAsked s s1)
      | (some (.error _), _) => .next (resetPartition p s)
      | (some (.ok ps), s1) =>
        match areaHomes s p ps with
        | none => .next (resetPartition p s)
        | some hs =>
          let got := areaRead s sv.bytes hs
          let mem := (sv.members.zip sv.mems).flatMap fun x => (allocs x.1.2).flatMap fun r => readBytes x.2.1 r.1 r.2
          if got.2 || got.1 != sealedBytes (part s p).saveKey sv.no sv.bytes mem then .next (resetPartition p s)
          else .next (restoreTeam p sv (onlyAsked s s1))

/-- Event SAVEPUSH: the host writes `v` to SAVEPUSH of partition `a` (19 R441). -/
def execSavepush (s : State) : Out :=
  .next (modPart s.arg.a (fun pt =>
    if 64 ≤ pt.areas.length || s.arg.v.toNat % 4096 = 0 then pt else { pt with areas := pt.areas ++ [s.arg.v] }) s)

end Sys2Proof.Machine
end

