-- ==== Sys2Proof/Machine/Launch.lean ====
section
/-!
DEFINITION. Launch queues, launch records, the start barrier across modules, NODE.POST and NODE.DONE, completions, and
the restart after a partition reset (17 R405-R409; 23 R465-R470, R473, R479, R480).
-/
namespace Sys2Proof.Machine

/-! ## Reads and writes by the hub -/

/-- What a unit of the hub does for an entry or a record: it waits, or meets the cause of a fault, or has its answer. -/
abbrev HubRun (α : Type) := State → Option (Except Nat α) × State

/-- An answer at once. -/
def hubPure {α : Type} (x : α) : HubRun α := fun s => (some (.ok x), s)

/-- One run after another. -/
def hubThen {α β : Type} (r : HubRun α) (k : α → HubRun β) : HubRun β := fun s =>
  match r s with
  | (none, s1) => (none, s1)
  | (some (.error e), s1) => (some (.error e), s1)
  | (some (.ok x), s1) => k x s1

/-- A run for each of a list. -/
def hubEach {α β : Type} (f : α → HubRun β) : List α → HubRun (List β)
  | [] => hubPure []
  | x :: rest => hubThen (f x) fun y => hubThen (hubEach f rest) fun ys => hubPure (y :: ys)

/-- The `n` bytes at a virtual address of a process, and whether some are poisoned; `fuel` bounds the pages. -/
def hubPages (p vf pasid : Nat) : Nat → Nat → Nat → HubRun (List Byte × Bool)
  | 0, _, _ => hubPure ([], false)
  | fuel + 1, va, n =>
    if n = 0 then hubPure ([], false)
    else fun s =>
      let k := min n (4096 - va % 4096)
      match hubGo .other p vf pasid va k false s with
      | (.wait, s1) => (none, s1)
      | (.fault c, s1) => (some (.error c), s1)
      | (.home h, s1) =>
        let r := homeRead s1 h k
        hubThen (hubPages p vf pasid fuel (va + k) (n - k)) (fun x => hubPure (r.1 ++ x.1, r.2 || x.2)) (countReads p (hbmPlace h k) s1)

/-- The `n` bytes at a virtual address of a process; poisoned ones are an error (log entry 43). -/
def hubBytes (p vf pasid va n : Nat) : HubRun (List Byte) :=
  hubThen (hubPages p vf pasid (n / 4096 + 2) va n) fun x s => (some (if x.2 then .error 0 else .ok x.1), s)

/-! ## Queues (23 R465-R467) -/

/-- The key of a launch queue. -/
def queueKey (vf q : Nat) : Nat := vf * 8 + q

/-- A launch queue. -/
def queueOf (s : State) (vf q : Nat) : Queue := look {} s.queues (queueKey vf q)

/-- The state with a launch queue changed. -/
def modQueue (vf q : Nat) (f : Queue → Queue) (s : State) : State :=
  { s with queues := put (queueKey vf q) (f (queueOf s vf q)) s.queues }

/-- Whether the queues of a virtual function run: its partition runs, and the module is ready and does not hold its
queues (23 R479; 25 R504, R507). -/
def queueLive (s : State) (vf : Nat) : Bool :=
  s.hub.ready && !s.sec.hotHold && match find s.parts (vf / 4) with
    | some pt => pt.draining.isNone
    | none => false

/-- Whether the device reads entries of a queue: it runs, is enabled and is not overrun (23 R465, R469). -/
def queueOpen (s : State) (vf q : Nat) : Bool :=
  (queueOf s vf q).enable && !(queueOf s vf q).ovr && queueLive s vf

/-- The bytes of an entry of a queue: sent here by another module, read already as the entry began, or read now (17 R408;
23 R465, R466). -/
def entryBytes (vf q idx : Nat) : HubRun (List Byte) := fun s =>
  let x := queueOf s vf q
  match find x.sent idx, find x.begun idx with
  | some e, _ => (some (.ok e.1), s)
  | none, some e => (some (.ok e.1), s)
  | none, none => hubBytes (vf / 4) vf x.pasid (x.base.toNat + idx % x.size.toNat * 64) 64 s

/-- Whether an entry is well formed (23 R466, R467). -/
def entryGood (b : List Byte) : Bool :=
  let kind := field b 0 1
  1 ≤ kind && kind ≤ 3 && (if kind = 2 then field b 1 1 = 0 && field b 24 8 = 0 else field b 1 1 ≤ 1) &&
  zeroAt b 2 6 && zeroAt b 12 4 && zeroAt b 48 16 && field b 16 8 % 8 = 0

/-- Whether an entry that has not completed holds back launches and waits behind it: a launch until it has started, a wait
and a malformed entry until they have completed (23 R467). -/
def holdsBack (vf q idx : Nat) : HubRun Bool := fun s =>
  let x := queueOf s vf q
  if x.ended.contains idx || x.started.contains idx then (some (.ok false), s)
  else hubThen (entryBytes vf q idx) (fun b => hubPure (!(entryGood b && field b 0 1 = 2))) s

/-- The indices of the entries from QHEAD up to one (23 R465). -/
def indicesTo (x : Queue) (idx : Nat) : List Nat :=
  (upFrom 0 (BitVec.ofNat 32 idx - x.head).toNat).map fun k => (x.head + BitVec.ofNat 32 k).toNat

/-- Whether an entry has begun: it waits, for its value or for a page, and goes on whatever becomes of its queue (23
R469). -/
def hasBegun (x : Queue) (idx : Nat) : Bool := (find x.begun idx).isSome

/-- The status with which an entry ends once its completion word can be written, where that is settled (23 R467, R469). -/
def settled (x : Queue) (idx : Nat) : Option Nat := (find x.begun idx).bind Prod.snd

/-- The entries that an entry must look at before it starts: none once it has begun (23 R467, R469). -/
def lookedAt (x : Queue) (idx : Nat) : List Nat := if hasBegun x idx then [] else indicesTo x idx

/-- The queue once an entry with bytes `e` has begun, and with its status once that is settled (23 R469). -/
def entryBegins (idx : Nat) (e : List Byte) (st : Option Nat) (x : Queue) : Queue := { x with begun := put idx (e, st) x.begun }

/-- Whether an entry can be taken now: its queue is open or the entry has begun, it lies in [QHEAD, QTAIL), and its launch
has not started nor has it completed (23 R465, R469). -/
def takable (s : State) (vf q idx : Nat) : Bool :=
  let x := queueOf s vf q
  (queueOpen s vf q || (queueLive s vf && hasBegun x idx)) && idx < 2 ^ 32 && (BitVec.ofNat 32 idx - x.head).toNat < (x.tail - x.head).toNat &&
  !(x.started.contains idx) && !(x.ended.contains idx)

/-- QHEAD past the entries that have completed; `fuel` bounds them (23 R467). -/
def headOn : Nat → Queue → Queue
  | 0, x => x
  | fuel + 1, x =>
    if x.ended.contains x.head.toNat then headOn fuel { x with head := x.head + 1, ended := delNat x.head.toNat x.ended } else x

/-- The queue after an entry completes (23 R467). The bytes that another module sent stay with it: until a fence has
completed after it, a reset lets it run again (23 R480). -/
def entryEnds (idx : Nat) (x : Queue) : Queue :=
  headOn (x.ended.length + 1) { x with started := delNat idx x.started, ended := addNat idx x.ended, begun := del idx x.begun }

/-- The queue after the fence at an index completes: it restarts behind it, and no entry before it runs again (23 R467,
R480). -/
def fenceEnds (idx : Nat) (seq : BitVec 32) (x : Queue) : Queue :=
  let next := BitVec.ofNat 32 idx + 1
  entryEnds idx { x with
    fence := seq, fenced := true, restart := next, resets := 0
    sent := x.sent.filter fun e => (BitVec.ofNat 32 e.1 - next).toNat < 2 ^ 31 }

/-- The state after a completion word is written, or could not be: a refused write sets cplerr and writes a kind-8
record; none while it waits for its page (23 R466, R469). -/
def writeCompletion (vf q cpl : Nat) (seq : BitVec 32) (status : Nat) (s : State) : Option State × State :=
  let p := vf / 4
  let pasid := (queueOf s vf q).pasid
  if cpl = 0 then (some s, s)
  else match hubGo .other p vf pasid cpl 8 true s with
    | (.wait, s1) => (none, s1)
    | (.home h, s1) =>
      let s2 := hubWrite .other p pasid cpl h (fun _ => false) ((toBytes 8 (seq.toNat + status * 2 ^ 32)).map some) 0 s1
      (some s2, s2)
    | (.fault _, s1) =>
      let s2 := flqPut p (flqRec 8 0 p vf pasid (cpl / 4096 * 4096) seq.toNat 0 (nsWord s)) (modQueue vf q (fun x => { x with cplerr := true, cplAt := s.clock.now + 1 }) s1)
      (some s2, s2)

/-- The outcome of an event of an entry with bytes `e` that must wait for a page, `s1` being what the attempt left: the
entry has begun (16 R358; 23 R469). -/
def entryWaits (name : String) (vf q idx : Nat) (e : List Byte) (st : Option Nat) (s s1 : State) : Out :=
  let s2 := onlyAsked s s1
  if find (queueOf s vf q).begun idx = some (e, st) then waiting name s s2 else .next (modQueue vf q (entryBegins idx e st) s2)

/-- The outcome of an event that completes the entry with bytes `e`: it waits for the page of the word, or the word is
written and the queue goes on as `f` says (23 R467, R468). -/
def completing (name : String) (vf q idx : Nat) (e : List Byte) (status : Nat) (f : Queue → Queue) (s : State) : Out :=
  match writeCompletion vf q (field e 16 8) (BitVec.ofNat 32 (field e 8 4)) status s with
  | (none, s1) => entryWaits name vf q idx e (some status) s s1
  | (some s1, _) => .next (modQueue vf q f s1)

/-- Event QTAIL: the host writes `v` to QTAIL of queue `b` of virtual function `a` (23 R465, R469; 25 R497, R501). -/
def execQtail (s : State) : Out :=
  let tail := s.arg.v.setWidth 32
  fromHost s.arg.a (fun s => .next (modQueue s.arg.a s.arg.b (fun x =>
    if x.size.toNat < (tail - x.head).toNat then { x with tail := tail, ovr := true, enable := false, ovrAt := s.clock.now + 1 }
    else { x with tail := tail }) s)) s

/-- Event QCTL: the host writes `v` to QCTL of queue `b` of virtual function `a`; `c` is the PASID that the queue's accesses
carry (23 R465, R469; log entry 15). A bit that the device sets in the same network cycle ends set, and the enable that
an overrun clears stays clear (00 R10). One that fails IDE integrity is dropped (25 R501). -/
def execQctl (s : State) : Out :=
  let v := s.arg.v
  let now := s.clock.now + 1
  fromHost s.arg.a (fun s => .next (modQueue s.arg.a s.arg.b (fun x => { x with
    enable := v.getLsbD 0 && x.ovrAt != now, prio := bitsOf v.toNat 1 3, ovr := x.ovr && (x.ovrAt = now || !(v.getLsbD 8))
    cplerr := x.cplerr && (x.cplAt = now || !(v.getLsbD 9)), pasid := s.arg.c }) s)) s

/-! ## Launch records (17 R405; 23 R470) -/

/-- Whether a launch record's header keeps the limits of R470. -/
def headerGood (s : State) (p : Nat) (h : List Byte) : Bool :=
  1 ≤ field h 0 2 && field h 0 2 ≤ 1024 && field h 2 1 ≤ 7 && 1 ≤ field h 3 1 && field h 3 1 ≤ 64 &&
  field h 4 4 < 2 ^ 20 && (field h 3 1 != 1 || field h 8 8 = 0) && field h 32 2 ≤ 4096 && field h 34 2 ≤ 512 &&
  (find (part s p).images (field h 36 4)).isSome && field h 48 2 ≤ 3072 && zeroAt h 50 14

/-- The fields of a node record, but for its predecessors (23 R470). -/
def parseNode (b : List Byte) : NodeRec :=
  { size := field b 0 2, rows := field b 2 1, cols := field b 3 1, entry := field b 4 4, spad := field b 8 4,
    sbank := field b 12 4, ldw := field b 16 1, stw := field b 17 1, caps := field b 18 1 }

/-- Whether a node record keeps the limits of R470. -/
def nodeRecGood (b : List Byte) : Bool :=
  let r := parseNode b
  1 ≤ r.size && r.size ≤ 136 &&
  ((r.rows = 0 && r.cols = 0) || (1 ≤ r.rows && r.rows ≤ 12 && 1 ≤ r.cols && r.cols ≤ 12 && r.rows * r.cols = r.size)) &&
  r.spad % 4096 = 0 && r.spad ≤ 2 * 2 ^ 20 && r.sbank % 4096 = 0 && r.sbank ≤ 6 * 2 ^ 20 && 1 ≤ r.ldw && r.ldw ≤ 15 &&
  1 ≤ r.stw && r.stw ≤ 15 && r.caps < 8 && zeroAt b 19 1 && field b 20 2 ≤ 1023 && zeroAt b 22 2 &&
  (field b 20 2 != 0 || field b 24 8 = 0) && zeroAt b 32 32

/-- The nodes of a launch that stay after those whose predecessors have gone are taken away, again and again. -/
def leftOver : Nat → List (Nat × NodeRec) → List (Nat × NodeRec)
  | 0, l => l
  | fuel + 1, l => leftOver fuel (l.filter fun x => x.2.preds.any fun q => l.any fun y => y.1 = q)

/-- Whether the predecessors of nodes name nodes and form no cycle (23 R470). -/
def predsGood (l : List NodeRec) : Bool :=
  l.all (fun r => r.preds.all (· < l.length)) && (leftOver l.length ((upFrom 0 l.length).zip l)).isEmpty

/-- The header and the nodes of a launch record at an address, or none where it is malformed (23 R470). -/
def readRecord (p vf pasid a : Nat) (known : Option (List Byte)) : HubRun (Option (List Byte × List NodeRec)) :=
  let get := fun (off n : Nat) => match known with
    | some b => if off + n ≤ b.length then hubPure ((b.drop off).take n) else hubBytes p vf pasid (a + off) n
    | none => hubBytes p vf pasid (a + off) n
  hubThen (get 0 64) fun h s =>
    if !(headerGood s p h) then hubPure none s
    else hubThen (get 64 (64 * field h 0 2)) (fun nb =>
      let bs := cut 64 (field h 0 2) nb
      if !(bs.all nodeRecGood) then hubPure none
      else hubThen (hubEach (fun b => hubThen (hubBytes p vf pasid (field b 24 8) (2 * field b 20 2)) fun x =>
          hubPure { parseNode b with preds := (cut 2 (field b 20 2) x).map leNat }) bs) fun ns =>
        hubPure (if predsGood ns then some (h, ns) else none)) s

/-- A process group from its table, or none where the table is malformed (17 R405). -/
def parseGroup (s : State) (modules : Nat) (b : List Byte) : Option Group :=
  let es := cut 8 modules (b.drop 16)
  let ms := es.map fun e => (field e 0 1, field e 1 1)
  if field b 4 2 != modules || !(zeroAt b 6 10) || !(es.all fun e => zeroAt e 4 4) ||
      (ms.map Prod.fst).eraseDups.length != modules then none
  else (placeOf (fun m => m.1 = s.hub.module) 0 ms).map fun r =>
    { gen := BitVec.ofNat 32 (field b 0 4), n := modules, rank := r, members := ms,
      queues := es.map fun e => (field e 2 1, field e 3 1) }

/-! ## Installations (02 R59) -/

/-- The mark of the entries that an image installs. -/
def imageInst (num : Nat) : Nat := 2 * num + 1

/-- The mark of the entries that a launch installs. -/
def launchInst (l : Nat) : Nat := 2 * l + 2

/-- The state after the loader installs a handle from its record, or none where it is refused: a record of an image lies
in virtual memory (02 R59; 09 R219, R221). -/
def loadHandle (p inst : Nat) (b : List Byte) (s : State) : Option State :=
  let r := parseHRec b
  let h := field b 36 2
  let hs := (part s p).handles
  if 4095 < h || (find hs h).isSome || recordBad r || r.space = 1 || (r.group != 0 && !((find hs r.scale).any (scaleFits r)))
  then none
  else some (modPart p (fun pt => { pt with
    handles := put h { hrec := r, inst := inst } (if r.group = 0 then pt.handles
      else adjust r.scale (fun e => { e with scalerefs := e.scalerefs + 1 }) pt.handles)
    gens := put h (look 0 pt.gens h + 1) pt.gens }) s)

/-- The state after the loader installs a flow entry from its record, or none where it is refused (02 R59; 12 R313). -/
def loadFlow (p inst : Nat) (b : List Byte) (s : State) : Option State :=
  if (flowFault s p b).isSome then none else some (installFlow p inst (parseFRec b) s)

/-- Records installed one after another, or none where one is refused. DESIGN CHOICE (log entry 82): a record is checked
against the table as the records before it have left it, so a handle whose scale handle, and a NORMALISE whose HOLD,
stands later in the same installation is refused. -/
def loadAll (f : List Byte → State → Option State) : List (List Byte) → State → Option State
  | [], s => some s
  | b :: rest, s => (f b s).bind (loadAll f rest)

/-- An installation of handle and flow records, all or nothing, where no number or flow is live in the partition before it,
a flow as a router entry or as a loaded collective (02 R59; 17 R395). -/
def install (p inst : Nat) (hs fs : List (List Byte)) (s : State) : Option State :=
  let live := fun (f : Nat) => (part s p).flows.any (fun e => e.1 % 65536 = f) || (find (part s p).colls f).isSome
  if fs.any fun b => live (parseFRec b).id then none
  else (loadAll (loadHandle p inst) hs s).bind (loadAll (loadFlow p inst) fs)

/-- Whether nothing uses the handles of an installation. -/
def installQuiet (s : State) (p inst : Nat) : Bool :=
  (part s p).handles.all fun e => e.2.inst != inst || (e.2.refs = 0 && (e.2.conv.isNone || e.2.failed))

/-- The state after the handles and flows of an installation are removed (02 R59). DESIGN CHOICE (log entry 83): a number
or a flow that software has dropped and defined again since is its own, and stays. -/
def uninstall (p inst : Nat) (s : State) : State :=
  let mine := (part s p).handles.filter fun e => e.2.inst = inst
  let s1 := mine.foldl (fun s e => modPart p (fun pt => { pt with handles := freeHandle e.1 e.2 pt.handles }) s) s
  removeFlows p (fun x => x.2.inst = inst) s1

/-! ## The start of a launch (17 R407; 23 R467, R470) -/

/-- The nodes without predecessors become ready, where no barrier holds them (17 R407; 23 R471). -/
def releaseNodes (l : Nat) (s : State) : State := (nowReady (launch s l)).foldl (fun s n => readyNode l n s) s

/-- A start barrier that has all its arrivals is released (17 R407). -/
def tryBarrier (l : Nat) (s : State) : State :=
  match (launch s l).group with
  | some g =>
    if g.released || g.failed || !((upFrom 0 g.n).all g.arrived.contains) then s
    else
      let g1 : Group := { g with released := true, seen := (upFrom 0 g.n).map fun r => (r, nsNow s) }
      releaseNodes l (modLaunch l (fun x => { x with group := some g1 }) s)
  | none => s

/-- A launch whose start barrier fails dispatches no node and completes with status 3 (17 R407). -/
def failBarrier (l : Nat) (s : State) : State :=
  failLaunch l 3 (modLaunch l (fun x => { x with group := x.group.map fun g => { g with failed := true } }) s)

/-- A message to every other member of a group. -/
def toMembers (g : Group) (m : Nat → Msg) (s : State) : State :=
  (g.members.filter fun x => x.1 != s.hub.module).foldl (fun s x => emit (m x.1) s) s

/-- A launch's start barrier begins: arrive is sent to every other member, and what has come before counts (17 R407). -/
def beginBarrier (l : Nat) (g : Group) (s : State) : State :=
  let p := (launch s l).part
  let mine := (part s p).early.filter fun e => e.1 = g.gen.toNat
  let came := (upFrom 0 g.n).filter fun r => r = g.rank || mine.any fun e => !e.2.2 && some e.2.1 = (g.members[r]?).map Prod.fst
  let s1 := modPart p (fun pt => { pt with early := pt.early.filter fun e => e.1 != g.gen.toNat }) (toMembers g (fun m => .arrive m g.gen) s)
  let s2 := modLaunch l (fun x => { x with group := some { g with arrived := came, startNs := nsNow s, sentNs := nsNow s } }) s1
  if mine.any fun e => e.2.2 then failBarrier l s2 else tryBarrier l s2

/-- The launch that an entry and its records give (23 R466, R470). -/
def makeLaunch (s : State) (vf q idx : Nat) (e h : List Byte) (ns : List NodeRec) (g : Option Group) : Launch :=
  { part := vf / 4, vf := vf, queue := q, idx := idx, seq := BitVec.ofNat 32 (field e 8 4), cpl := field e 16 8,
    energy := field h 2 1, modules := field h 3 1, pasid := field h 4 4, pgt := field h 8 8,
    args := field h 16 8, image := field h 36 4, npost := field h 48 2, nnodes := ns.length,
    nodes := (upFrom 0 ns.length).zip (ns.map fun r => { nrec := r }), group := g, mode := (part s (vf / 4)).regs.recctl }

/-- An entry that starts nothing completes with a status (23 R466, R467). -/
def failEntry (vf q idx status : Nat) (e : List Byte) (s : State) : Out :=
  completing "LAUNCH" vf q idx e status (entryEnds idx) s

/-- The state after a launch starts: it is the device's, its entry has started, and its nodes enter the pool or wait for
the other modules (17 R407; 23 R467). -/
def startLaunch (x : Launch) (s : State) : State :=
  let l := s.nextLaunch
  let s1 : State := { s with launches := put l { x with group := none } s.launches, nextLaunch := l + 1 }
  let s2 := modQueue x.vf x.queue (fun q => { q with started := addNat x.idx q.started, begun := del x.idx q.begun }) s1
  match x.group with
  | some g => beginBarrier l g s2
  | none => releaseNodes l s2

/-- The module that received an entry alone sends it with its record to every other member (17 R408). -/
def replicate (e h : List Byte) (x : Launch) (nb : List Byte) (s : State) : State :=
  match x.group with
  | some g => (g.members.zip g.queues).foldl (fun s m =>
      if m.1.1 = s.hub.module then s else emit (.replicate m.1.1 m.2.1 m.2.2 e (h ++ nb)) s) s
  | none => s

/-- The rest of a launch's start once its record is read: the process group, then the installations (17 R405, R408;
02 R59). -/
def launchFrom (vf q idx : Nat) (e h : List Byte) (ns : List NodeRec) (s : State) : Out :=
  let p := vf / 4
  let pasid := (queueOf s vf q).pasid
  let m := field h 3 1
  let sent := (find (queueOf s vf q).sent idx).isSome
  let get := hubThen (hubBytes p vf pasid (field h 24 8) (64 * field h 32 2)) fun hb =>
    hubThen (hubBytes p vf pasid (field h 40 8) (64 * field h 34 2)) fun fb =>
    hubThen (hubBytes p vf pasid (field e 24 8 + 64) (if field e 1 1 = 1 && !sent then 64 * ns.length else 0)) fun nb =>
      hubPure (hb, fb, nb)
  let go := fun (g : Option Group) (s : State) =>
    match get s with
    | (none, s1) => entryWaits "LAUNCH" vf q idx e none s s1
    | (some (.error _), s1) => failEntry vf q idx 1 e s1
    | (some (.ok (hb, fb, nb)), s1) =>
      let hs := cut 64 (field h 32 2) hb
      let fs := cut 64 (field h 34 2) fb
      match install p (launchInst s1.nextLaunch) hs fs s1 with
      | none => failEntry vf q idx 1 e s1
      | some s2 =>
        let x := makeLaunch s2 vf q idx e h ns g
        .next (startLaunch x (if field e 1 1 = 1 && !sent then replicate e h x nb s2 else s2))
  if m = 1 then go none s
  else match hubBytes p vf pasid (field h 8 8) (16 + 8 * m) s with
    | (none, s1) => entryWaits "LAUNCH" vf q idx e none s s1
    | (some (.error _), s1) => failEntry vf q idx 4 e s1
    | (some (.ok b), s1) =>
      match parseGroup s1 m b with
      | none => failEntry vf q idx 4 e s1
      | some g => go (some g) s1

/-- Event LAUNCH: launch entry `c` of queue `b` of virtual function `a` starts; a malformed one completes (23 R467,
R470). -/
def execLaunch (s : State) : Out :=
  let (vf, q, idx) := (s.arg.a, s.arg.b, s.arg.c)
  let no : Out := .fault (.notEnabled "LAUNCH")
  if !(takable s vf q idx) then no
  else
    let x := queueOf s vf q
    match hubThen (hubEach (holdsBack vf q) (lookedAt x idx)) (fun hs =>
        hubThen (entryBytes vf q idx) fun e => hubPure (hs.any id, e)) s with
    | (none, s1) => waiting "LAUNCH" s (onlyAsked s s1)
    | (some (.error _), _) => no
    | (some (.ok (held, e)), s1) =>
      if held || (entryGood e && field e 0 1 != 1) then no
      else match settled x idx with
      | some st => failEntry vf q idx st e s1
      | none =>
        if !(entryGood e) then failEntry vf q idx 2 e s1 else
        let known := (find x.sent idx).map Prod.snd
        match readRecord (vf / 4) vf x.pasid (field e 24 8) known s1 with
        | (none, s2) => entryWaits "LAUNCH" vf q idx e none s s2
        | (some (.error _), s2) => failEntry vf q idx 2 e s2
        | (some (.ok none), s2) => failEntry vf q idx 2 e s2
        | (some (.ok (some (h, ns))), s2) => launchFrom vf q idx e h ns s2

/-- Event QUEUE_FENCE: fence entry `c` of queue `b` of virtual function `a` completes once every earlier entry has
(23 R467). -/
def execQueueFence (s : State) : Out :=
  let (vf, q, idx) := (s.arg.a, s.arg.b, s.arg.c)
  let no : Out := .fault (.notEnabled "QUEUE_FENCE")
  if !(takable s vf q idx) || idx != (queueOf s vf q).head.toNat then no
  else match entryBytes vf q idx s with
    | (none, s1) => waiting "QUEUE_FENCE" s (onlyAsked s s1)
    | (some (.error _), _) => no
    | (some (.ok e), s1) =>
      if !(entryGood e && field e 0 1 = 2) then no
      else
        completing "QUEUE_FENCE" vf q idx e 0 (fenceEnds idx (BitVec.ofNat 32 (field e 8 4))) s1

/-- Whether the value of a wait entry meets its comparison (23 R467). -/
def waitHolds (e : List Byte) (v : Nat) : Bool :=
  let m := field e 40 8
  let (x, y) := (v &&& m, field e 32 8 &&& m)
  if field e 1 1 = 1 then y ≤ x else x = y

/-- Event WAIT: wait entry `c` of queue `b` of virtual function `a` reads its value, once each schedule tick, and
completes when its comparison holds (23 R467). -/
def execWait (s : State) : Out :=
  let (vf, q, idx) := (s.arg.a, s.arg.b, s.arg.c)
  let no : Out := .fault (.notEnabled "WAIT")
  let x := queueOf s vf q
  let p := vf / 4
  if !(takable s vf q idx) || ((settled x idx).isNone && tickOf s p < x.lastTick) then no
  else match hubThen (hubEach (holdsBack vf q) (lookedAt x idx)) (fun hs =>
      hubThen (entryBytes vf q idx) fun e => hubPure (hs.any id, e)) s with
    | (none, s1) => waiting "WAIT" s (onlyAsked s s1)
    | (some (.error _), _) => no
    | (some (.ok (held, e)), s1) =>
      if held || !(entryGood e && field e 0 1 = 3) then no
      else if (settled x idx).isSome then completing "WAIT" vf q idx e 0 (fun x => entryEnds idx { x with lastTick := 0 }) s1
      else match hubBytes p vf x.pasid (field e 24 8) 8 s1 with
        | (none, s2) => entryWaits "WAIT" vf q idx e none s s2
        | (some (.error _), s2) => .next (modQueue vf q (fun x => { entryBegins idx e none x with lastTick := tickOf s p + 1 }) (onlyAsked s s2))
        | (some (.ok b), s2) =>
          if waitHolds e (leNat b) then
            completing "WAIT" vf q idx e 0 (fun x => entryEnds idx { x with lastTick := 0 }) s2
          else .next (modQueue vf q (fun x => { entryBegins idx e none x with lastTick := tickOf s p + 1 }) s2)

/-! ## The end of a launch (17 R407; 23 R466-R468, R473) -/

/-- Whether a launch has come to its end: all nodes have completed, or none runs and only posted nodes that await signals
are left (23 R467, R473). -/
def launchOver (x : Launch) : Bool :=
  x.nodes.all fun e => e.2.st = .complete || (e.2.st = .waiting && e.2.posted)

/-- The status that a launch completes with (23 R466, R473). -/
def endStatus (x : Launch) : Nat :=
  if x.status != 0 then x.status
  else if x.nodes.any fun e => e.2.st != .complete then 6
  else if x.killed then 5 else 0

/-- A member of a launch whose barrier failed writes gen + 1 to its copy of the table, or waits for its page
(17 R407). -/
def bumpTable (x : Launch) (s : State) : Option State × State :=
  match x.group with
  | some g =>
    if !g.failed then (some s, s)
    else match hubGo .other x.part x.vf (queueOf s x.vf x.queue).pasid x.pgt 4 true s with
      | (.wait, s1) => (none, s1)
      | (.fault _, s1) => (some s1, s1)
      | (.home h, s1) =>
        let pasid := (queueOf s x.vf x.queue).pasid
        let s2 := hubWrite .other x.part pasid x.pgt h (fun _ => false) ((toBytes 4 (g.gen + 1).toNat).map some) 0 s1
        (some s2, s2)
  | none => (some s, s)

/-- The groups for which a partition goes on sending keep-alives, with that of a launch that has ended here: it may still
be open at other members (17 R409; log entry 74). -/
def keepGroup (x : Launch) (l : List Group) : List Group := l ++ (x.group.filter fun g => g.released && !g.failed).toList

/-- The state after a launch is gone: its installations and its collectives are removed and its entry completes
(02 R59; 17 R384; 23 R467). -/
def closeLaunch (l : Nat) (s : State) : State :=
  let x := launch s l
  let s1 := uninstall x.part (launchInst l) s
  let s2 := modPart x.part (fun pt => { pt with
    colls := pt.colls.filter (fun e => e.2.launch != l), kept := keepGroup x pt.kept }) s1
  modQueue x.vf x.queue (entryEnds x.idx) { s2 with launches := del l s2.launches }

/-- Whether what killed members of a launch had started has come to its end: their copies and far requests, and the packets
of dkind 3 that its members sent (11 R282; 19 R434; 23 R468). -/
def launchQuiet (s : State) (l : Nat) (x : Launch) : Bool :=
  !(s.threads.any fun e => e.2.dying && e.2.id.launch = l) &&
  !(s.packets.any fun k => k.dkind = 3 && !k.byRouter && k.part = x.part && k.launch = l)

/-- Event LAUNCH_COMPLETION: launch `a`, whose nodes have all completed with every access of their members, completes its
entry (23 R467, R468). -/
def execLaunchCompletion (s : State) : Out :=
  let l := s.arg.a
  let no : Out := .fault (.notEnabled "LAUNCH_COMPLETION")
  match find s.launches l with
  | none => no
  | some x =>
    if !(launchOver x && launchQuiet s l x && installQuiet s x.part (launchInst l)) then no
    else match bumpTable x s with
      | (none, s1) => waiting "LAUNCH_COMPLETION" s (onlyAsked s s1)
      | (some s1, _) =>
        match writeCompletion x.vf x.queue x.cpl x.seq (endStatus x) s1 with
        | (none, s2) => waiting "LAUNCH_COMPLETION" s (onlyAsked s s2)
        | (some s2, _) => .next (closeLaunch l s2)

/-! ## Between modules (17 R407-R409) -/

/-- The launch of a partition whose process group has a generation. -/
def groupLaunch (s : State) (p gen : Nat) : Option Nat :=
  (s.launches.find? fun e => e.2.part = p && match e.2.group with
    | some g => g.gen.toNat = gen
    | none => false).map Prod.fst

/-- The rank of a module in a launch's group. -/
def rankOf (g : Group) (m : Nat) : Nat := (placeOf (fun x => x.1 = m) 0 g.members).getD g.n

/-- Event ARRIVE: arrive of generation `c` comes from module `b` for partition `a` (17 R407). -/
def execArrive (s : State) : Out :=
  let (p, m, gen) := (s.arg.a, s.arg.b, s.arg.c)
  match groupLaunch s p gen with
  | none => .next (modPart p (fun pt => { pt with early := pt.early ++ [(gen, m, false)] }) s)
  | some l => .next (tryBarrier l (modLaunch l (fun x => { x with
      group := x.group.map fun g => { g with arrived := addNat (rankOf g m) g.arrived } }) s))

/-- Event LAUNCH_TIMEOUT: the start barrier of launch `a` has not completed within LTIMEOUT (17 R407). -/
def execLaunchTimeout (s : State) : Out :=
  let l := s.arg.a
  match (launch s l).group with
  | some g =>
    if !g.released && !g.failed && g.startNs + (part s (launch s l).part).regs.ltimeout ≤ nsNow s then
      .next (failBarrier l (toMembers g (fun m => .failNotice m g.gen) s))
    else .fault (.notEnabled "LAUNCH_TIMEOUT")
  | none => .fault (.notEnabled "LAUNCH_TIMEOUT")

/-- Event FAIL: fail of generation `c` comes from module `b` for partition `a`; it ends the dispatch of a launch whose own
barrier has released as well (17 R407). -/
def execFail (s : State) : Out :=
  let (p, m, gen) := (s.arg.a, s.arg.b, s.arg.c)
  match groupLaunch s p gen with
  | none => .next (modPart p (fun pt => { pt with early := pt.early ++ [(gen, m, true)] }) s)
  | some l =>
    match (launch s l).group with
    | some g => .next (if g.failed then s else failBarrier l s)
    | none => .next s

/-- Event REPLICATE: an entry with bytes `bytes` and its launch record `more` comes from module `a` for queue `c` of
virtual function `b`; `flag` says that the queue's partition is bound to the sender (17 R408). A queue that cannot take
it leaves it. -/
def execReplicate (s : State) : Out :=
  let (vf, q) := (s.arg.b, s.arg.c)
  let x := queueOf s vf q
  if !s.arg.flag || !x.enable || x.ovr || x.size.toNat ≤ (x.tail - x.head).toNat then .next s
  else .next (modQueue vf q (fun x => { x with tail := x.tail + 1, sent := put x.tail.toNat (s.arg.bytes, s.arg.more) x.sent }) s)

/-- Event KEEP_ALIVE: a keep-alive of generation `c` comes from module `b` for partition `a` (17 R409). -/
def execKeepAlive (s : State) : Out :=
  match groupLaunch s s.arg.a s.arg.c with
  | none => .next s
  | some l => .next (modLaunch l (fun x => { x with
      group := x.group.map fun g => { g with seen := put (rankOf g s.arg.b) (nsNow s) g.seen } }) s)

/-- The state after the keep-alives of group `i` of those that a partition keeps have left, where a microsecond has passed
since the last (17 R409). -/
def keepSending (p i : Nat) (s : State) : Out :=
  match (part s p).kept[i]? with
  | some g =>
    if g.sentNs + 1000 ≤ nsNow s then
      .next (modPart p (fun pt => { pt with kept := modAt (fun g => { g with sentNs := nsNow s }) i pt.kept })
        (toMembers g (fun m => .keepAlive m) s))
    else .fault (.notEnabled "KEEP_ALIVE_INTERVAL")
  | none => .fault (.notEnabled "KEEP_ALIVE_INTERVAL")

/-- Event KEEP_ALIVE_INTERVAL: a microsecond has passed since launch `a` last sent its keep-alives, or with `c` 1 since
partition `a` last sent those of kept group `b` (17 R409; log entry 74). -/
def execKeepAliveInterval (s : State) : Out :=
  let l := s.arg.a
  if s.arg.c = 1 then keepSending s.arg.a s.arg.b s else
  match (launch s l).group with
  | some g =>
    if g.sentNs + 1000 ≤ nsNow s then
      .next (modLaunch l (fun x => { x with group := some { g with sentNs := nsNow s } }) (toMembers g (fun m => .keepAlive m) s))
    else .fault (.notEnabled "KEEP_ALIVE_INTERVAL")
  | none => .fault (.notEnabled "KEEP_ALIVE_INTERVAL")

/-- Event MEMBER_LOST: the member of rank `b` of launch `a` has not been heard within KALIVE, or with `flag` a notice says
that module `b` is gone for generation `c` of partition `a`; after the start barrier the partition resets (17 R409). -/
def execMemberLost (s : State) : Out :=
  let lost := if s.arg.flag then groupLaunch s s.arg.a s.arg.c else some s.arg.a
  match lost with
  | none => .next s
  | some l =>
    let x := launch s l
    match x.group with
    | none => .fault (.notEnabled "MEMBER_LOST")
    | some g =>
      if s.arg.flag then .next (if g.released then resetPartition x.part s else s)
      else if g.released && s.arg.b < g.n && s.arg.b != g.rank &&
          (look 0 g.seen s.arg.b : Nat) + (part s x.part).regs.kalive ≤ nsNow s then .next (resetPartition x.part s)
      else .fault (.notEnabled "MEMBER_LOST")

/-! ## NODE.POST and NODE.DONE (23 R473) -/

/-- Whether the release at module scope that a NODE word makes must still wait (14 R334; 23 R473). -/
def nodeWaits (s : State) : Bool := !(releaseReady (me s) .module)

/-- Whether NODE.POST of a record posts a node. -/
def postable (s : State) (b : Nat) (bs : List Byte) : Bool :=
  (gOf (me s) b).toNat < 1024 && nodeRecGood bs && field bs 20 2 = 0 &&
    (launch s (me s).id.launch).posted < (launch s (me s).id.launch).npost

/-- The effect of NODE.POST (23 R473). -/
def postNode (b : Nat) (bs : List Byte) (s : State) : Word × State :=
  let l := (me s).id.launch
  let x := launch s l
  let n := (gOf (me s) b).toNat
  if 1024 ≤ n || !(nodeRecGood bs) || field bs 20 2 != 0 then (neg 2, s)
  else if x.npost ≤ x.posted then (neg 1, s)
  else
    let i := x.nnodes + x.posted
    let nd : Node := { nrec := parseNode bs, awaiting := n, posted := true }
    let s1 := modLaunch l (fun x => { x with posted := x.posted + 1, nodes := put i nd x.nodes }) s
    (BitVec.ofNat 64 i, if n = 0 then readyNode l i s1 else s1)

/-- NODE.POST (23 R473). -/
def execNodePost (d a b : Nat) (s : State) : Out :=
  appOnly (fun s =>
    let bs := readBytes (tile s (tileOf s.cur)).mem (gOf (me s) a).toNat 64
    if (readFault (me s) (tile s (tileOf s.cur)) 0 (gOf (me s) a).toNat 64 8).isNone && postable s b bs && nodeWaits s then waitBusy s
    else recordWord d a 64 (fun bs s => postNode b bs s) s) s

/-- The effect of NODE.DONE on a node index (23 R473). -/
def signalNode (i : Nat) (s : State) : Word × State :=
  let l := (me s).id.launch
  match find (launch s l).nodes i with
  | none => (neg 3, s)
  | some x =>
    if !x.posted || x.awaiting = 0 then (neg 3, s)
    else
      let s1 := modLaunch l (fun y => { y with nodes := adjust i (fun z => { z with awaiting := z.awaiting - 1 }) y.nodes }) s
      (0, if x.awaiting = 1 then readyNode l i s1 else s1)

/-- Whether NODE.DONE of a node index signals a node. -/
def signals (s : State) (i : Nat) : Bool :=
  match find (launch s (me s).id.launch).nodes i with
  | none => false
  | some x => x.posted && 0 < x.awaiting

/-- NODE.DONE (23 R473). -/
def execNodeDone (d a : Nat) (s : State) : Out :=
  appOnly (fun s =>
    let i := (gOf (me s) a).toNat
    if classHeld (me s) 15 || (signals s i && nodeWaits s) then waitBusy s
    else doneCS 2 (fun s1 => let r := signalNode i s1; modMe (setG d r.1) r.2) s) s

/-! ## After a reset (23 R479, R480) -/

/-- The queues of a partition, by virtual function and number. -/
def queuesOf (s : State) (p : Nat) : List (Nat × Nat) :=
  ((keys s.queues).filter fun k => k / 32 = p).map fun k => (k / 8, k % 8)

/-- A queue restarts after its last completed fence, or where a second reset has come before one stops where it is (23
R480; log entry 101). Its other registers keep their values: the restart needs the ring, QTAIL and the priority, and 00 R10
leaves the registers of a queue over a partition reset open (DESIGN CHOICE, log entry 102). -/
def restartQueue (x : Queue) : Queue :=
  let y := { x with started := [], begun := [], lastTick := 0 }
  if x.resets ≤ 1 then { y with head := x.restart, ended := [] } else { y with enable := false }

/-- The completion words with status 7 that queues which stop at a reset write, or none while one waits for a page
(23 R480). -/
def abandonEntries : List (Nat × Nat) → State → Option State × State
  | [], s => (some s, s)
  | (vf, q) :: rest, s =>
    let x := queueOf s vf q
    if x.resets ≤ 1 || x.head = x.tail then abandonEntries rest s
    else match entryBytes vf q x.head.toNat s with
      | (none, s1) => (none, s1)
      | (some (.error _), s1) => abandonEntries rest s1
      | (some (.ok e), s1) =>
        match writeCompletion vf q (field e 16 8) (BitVec.ofNat 32 (field e 8 4)) 7 s1 with
        | (none, s2) => (none, s2)
        | (some s2, _) => abandonEntries rest s2

/-- The entries that a partition's images installed, put back after a reset (02 R59; 23 R479). -/
def reinstall (p : Nat) (s : State) : State :=
  (part s p).images.foldl (fun s im =>
    im.2.flows.foldl (fun s e => installFlow p (imageInst im.1) e s) (modPart p (fun pt => { pt with
      handles := im.2.handles.foldl (fun m h => put h.1 { hrec := h.2, inst := imageInst im.1 } m) pt.handles
      gens := im.2.handles.foldl (fun m h => put h.1 (look 0 m h.1 + 1) m) pt.gens }) s)) s

/-- The scale handles of installed entries count the entries that use them. -/
def countScales (p : Nat) (s : State) : State :=
  modPart p (fun pt => { pt with handles := pt.handles.foldl (fun m e =>
    if e.2.hrec.group = 0 then m else adjust e.2.hrec.scale (fun x => { x with scalerefs := x.scalerefs + 1 }) m) pt.handles }) s

/-- Event DRAIN_END: after its drain, partition `a` is running again: its images' entries are installed and its queues
restart (23 R479, R480). -/
def execDrainEnd (s : State) : Out :=
  let p := s.arg.a
  match (part s p).draining with
  | none => .fault (.notEnabled "DRAIN_END")
  | some due =>
    if s.clock.halfNs < due || s.packets.any (fun k => k.part = p) then .fault (.notEnabled "DRAIN_END")
    else match abandonEntries (queuesOf s p) s with
      | (none, s1) => waiting "DRAIN_END" s (onlyAsked s s1)
      | (some s1, _) =>
        let s2 := countScales p (reinstall p (modPart p (fun pt => { pt with draining := none }) s1))
        .next ((queuesOf s2 p).foldl (fun s k => modQueue k.1 k.2 restartQueue s) s2)

end Sys2Proof.Machine
end

