-- ==== Sys2Proof/Machine/Fabric.lean ====
section
/-!
DEFINITION. Fabric ports with the beats that arrive at them, and the time engine (17 R380-R383, R410; 25 R503).
-/
namespace Sys2Proof.Machine

/-! ## Ports (17 R380, R382; 25 R503) -/

/-- The state with the hub changed. -/
def modHub (f : Hub → Hub) (s : State) : State := { s with hub := f s.hub }

/-- The state with a port changed. -/
def modPort (n : Nat) (f : Port → Port) (s : State) : State :=
  modHub (fun h => { h with ports := put n (f (look {} h.ports n)) h.ports }) s

/-- The state after a port goes down: it has to train, attest and take keys again (25 R503). -/
def portDown (n : Nat) (s : State) : State :=
  modPort n (fun x => { x with up := false, txKey := 0, rxKey := 0, shown := false, stop := [] }) s

/-- The state with the route table that firmware writes (17 R382). -/
def setRoutes (l : List (Nat × Nat)) (s : State) : State :=
  modHub (fun h => { h with routes := l.foldl (fun m x => put x.1 x.2 m) [] }) s

/-- Event TRAINING_COMPLETE: port `a`, which has a key for each direction, carries beats; firmware writes the route table `pairs`, and what
waited for a port leaves (17 R380, R382; 25 R503). -/
def execTrainingComplete (s : State) : Out :=
  let n := s.arg.a
  if n < 32 && (portOf s n).txKey != 0 && !(portOf s n).up then
    .next (sendHeld (setRoutes s.arg.pairs (modPort n (fun x => { x with up := true, txBeats := 0, rxBeats := 0 }) s)))
  else .fault (.notEnabled "TRAINING_COMPLETE")

/-- Event PORT_LOST: port `a` carries beats no longer, and firmware writes the route table `pairs` (17 R382). -/
def execPortLost (s : State) : Out := .next (sendHeld (setRoutes s.arg.pairs (portDown s.arg.a s)))

/-- A port with a new key pair of some numbers: the counts of both directions begin again (25 R503). -/
def takeKeys (tx rx : Nat) (x : Port) : Port := { x with txKey := tx, rxKey := rx, txBeats := 0, rxBeats := 0 }

/-- Event NEW_KEY_PAIR: port `a` takes a new key pair before a direction's beat count reaches its limit (25 R503; log entry
58). -/
def execNewKeyPair (s : State) : Out :=
  let n := s.arg.a
  let x := portOf s n
  let k := s.sec.keys
  if x.up && (keyLimit ≤ x.txBeats || keyLimit ≤ x.rxBeats) then
    .next (sendHeld { modPort n (takeKeys (k + 1) (k + 2)) s with sec := { s.sec with keys := k + 2 } })
  else .fault (.notEnabled "NEW_KEY_PAIR")

/-! ## Beats (17 R381-R383) -/

/-- What a far or row request of a peer does at this module's HBM: `c` is 1 for a read of `e` bytes at physical address
`d`, 2 for a write of `bytes` there, 3 for an atomic of `e` bytes whose operation and operands are `nums`, and 4 for the read
of a copy row, which is answered with stored sectors; one outside the partition's slice is refused (16 R375; 17 R382, R383;
log entry 44). -/
def peerRequest (b : Beat) (s : State) : State :=
  let n := if s.arg.c = 2 then s.arg.bytes.length else s.arg.e
  let refuse := emit (.peerReply b.smod [] [] false true) s
  match homeOf s b.dpart s.arg.d n with
  | .ok (.hbm o) =>
    let r := homeRead s (.hbm o) n
    let (kinds, stored) := if s.arg.c = 4 then storedReply s o n else ([], r.1)
    let w := fun (bs : List Byte) (s : State) => homeWrite b.dpart (.hbm o) (fun _ => b.poison && s.arg.c = 2) (bs.map some) s
    match s.arg.c with
    | 2 => emit (.peerReply b.smod [] [] false false) (w s.arg.bytes s)
    | 3 =>
      let op : FOp := [FOp.add, .swap, .cas, .band, .bor, .bxor, .min, .max].getD (s.arg.nums.headD 0) .add
      let v := famoNew op n (leNat r.1) (s.arg.nums.getD 1 0) (s.arg.nums.getD 2 0)
      let bad := atomBad s (.hbm o) n
      emit (.peerReply b.smod [] r.1 bad false) (if bad then s else w (toBytes n v) s)
    | _ => emit (.peerReply b.smod kinds stored r.2 false) (countReads b.dpart [(o, n)] s)
  | _ => refuse

/-- What becomes of a beat at its destination that no launch binds: a packet is counted, a request is refused, and
anything else is discarded (17 R383). -/
def unboundBeat (b : Beat) (s : State) : State :=
  if b.vc = 0 && b.kind = 0 then
    modPart b.dpart (fun pt => { pt with stats := { pt.stats with hubBound := satAdd 65535 pt.stats.hubBound 1 } }) s
  else if b.vc = 1 && b.kind = 0 then emit (.peerReply b.smod [] [] false true) s
  else s

/-- A peer's delivery, whole at its destination, is performed at this module's HBM: the data in rising address, each
poisoned flit poisoning the words it writes, and then the flag word; one that reaches outside the partition's slice is
refused. The sender is told (12 R289; 17 R382). -/
def peerDelivery (b : Beat) (p : Packet) (s : State) : State :=
  let flag := if p.flag = 0 then some none else match homeOf s b.dpart p.flag 8 with
    | .ok (.hbm o) => some (some o)
    | _ => none
  match homeOf s b.dpart p.addr (64 * p.len), flag with
  | .ok (.hbm o), some fl =>
    let bad := fun w => (p.data.getD ((w - o) / 64) {}).poison
    let s1 := homeWrite b.dpart (.hbm o) bad ((p.data.flatMap Flit.bytes).map some) s
    emit (.peerReply b.smod [] [] false false) (match fl with
      | some o => homeWrite b.dpart (.hbm o) (fun _ => false) ((flagBytes p).map some) s1
      | none => s1)
  | _, _ => emit (.peerReply b.smod [] [] false true) s

/-- The head of a flow packet has arrived at a port: one to virtual memory is taken in where it is accepted (17 R381,
R383). -/
def packetHead (n : Nat) (b : Beat) (s : State) : State :=
  let p := headPacket b.payload
  if !(accepts s b.dpart b) then unboundBeat b (modPort n (fun x => { x with pkt := none }) s)
  else modPort n (fun x => { x with pkt := if p.dkind = 3 && 1 ≤ p.len then some p else none }) s

/-- A data flit of the flow packet that a port takes in has arrived: the last one completes it (17 R381). -/
def packetData (n : Nat) (b : Beat) (s : State) : State :=
  match (portOf s n).pkt with
  | none => s
  | some p =>
    let q := { p with data := p.data ++ [{ bytes := b.payload, poison := b.poison }] }
    if q.data.length < q.len then modPort n (fun x => { x with pkt := some q }) s
    else peerDelivery b q (modPort n (fun x => { x with pkt := none }) s)

/-- What a chunk head or line that arrives at a port says: a line belongs to the last head of its own module there, and one
of a module that has sent none is read with the port's last head, from whose channel it does not come (17 R387, R388). -/
def chunkOf (n : Nat) (b : Beat) (s : State) : Option ChunkBeat :=
  let heads := (portOf s n).heads
  if b.kind = 2 then some (readHead b)
  else ((heads.find? fun h => h.smod = b.smod).orElse fun _ => heads.head?).map fun h => readLine h b

/-- A chunk head or line has arrived at a port (17 R387, R388). -/
def chunkArrives (n : Nat) (b : Beat) (s : State) : State :=
  match chunkOf n b s with
  | none => s
  | some x =>
    let s1 := if b.kind = 2 then modPort n (fun y => { y with heads := x :: y.heads.filter fun h => h.smod != b.smod }) s else s
    match collOf s b.dpart x.flow with
    | some c => if accepts s b.dpart b then takeChunk b.dpart x.flow (chanFor c x) b x s1 else s1
    | none => s1

/-- A ring limit has arrived at a port: its flow, channel, generation and limit are the numbers of the event (17 R386). -/
def limitArrives (b : Beat) (s : State) : State :=
  let x := s.arg.nums
  if accepts s b.dpart b then takeLimit b.dpart (x.getD 0 0) (x.getD 1 0) (x.getD 2 0) (x.getD 3 0) s else s

/-- What an accepted beat for this module does. What a notice or a reply does is the event of that name. -/
def takeBeat (n : Nat) (b : Beat) (s : State) : State :=
  if b.kind = 5 then s
  else if b.vc = 0 && b.kind = 0 then packetHead n b s
  else if b.vc = 0 && b.kind = 1 then packetData n b s
  else if b.kind = 2 || b.kind = 3 then chunkArrives n b s
  else if b.kind = 4 then limitArrives b s
  else if !(accepts s b.dpart b) then unboundBeat b s
  else if b.vc = 1 && s.arg.c != 0 then peerRequest b s
  else s

/-- Whether the route table leads a beat for a module to a port that is up (17 R382). -/
def leadsOn (s : State) (m : Nat) : Bool := (find s.hub.routes m).any fun q => (portOf s q).up

/-- Event BEAT: a beat arrives at port `a`. One that fails authentication is discarded and its port goes down; one for
another module leaves on its route, or waits there for a key or a go; one for this module is accepted where a launch binds
its partition, or as a system beat (17 R382, R383; 25 R503). With `flag` it is no beat: the neighbour raises stop on the
virtual channels `nums` of its direction, and go on the others, on which what waited leaves (R381). -/
def execBeat (s : State) : Out :=
  let n := s.arg.a
  let b := s.arg.beat
  if !(portOf s n).up then .fault (.notEnabled "BEAT")
  else if s.arg.flag then .next (sendHeld (modPort n (fun x => { x with stop := s.arg.nums }) s))
  else if keyLimit ≤ (portOf s n).rxBeats || !(beatGood b) then .fault (.notEnabled "BEAT")
  else
    let s1 := modPort n (fun x => { x with rxBeats := x.rxBeats + 1 }) s
    .next (
      if !b.authentic then portDown n s1
      else if b.dmod != s.hub.module then
        (if leadsOn s1 b.dmod then emit (.beats 0 [b]) s1 else s1)
      else takeBeat n b s1)

/-! ## Time (17 R410) -/

/-- The state with the time engine changed. -/
def modTime (f : TimeEng → TimeEng) (s : State) : State := modHub (fun h => { h with time := f h.time }) s

/-- A message of the time engine at port `a`, which carries it only once it is up (17 R380). -/
def timeMessage (name : String) (f : State → State) (s : State) : Out :=
  if (portOf s s.arg.a).up then .next (f s) else .fault (.notEnabled name)

/-- Event SYNC: a Sync message with the time `v` arrives at port `a`, over `b` fabric hops from the grandmaster. At the port
toward the grandmaster it shows by how much the counter is ahead, the peer delay of the port taken off, and the counter
is slewed by as much; another port's is not used (17 R410, R411; log entry 14). -/
def execSync (s : State) : Out :=
  timeMessage "SYNC" (fun s =>
    if s.hub.time.master != some s.arg.a then s else
    let ahead : Int := nsNow s - (s.arg.v.toNat + look 0 s.hub.time.delay s.arg.a : Nat)
    let n := ahead.natAbs
    modTime (fun t => { t with lock := n ≤ 5, hops := s.arg.b % 256, offset := min 65535 n, corr := -2 * ahead }) s) s

/-- The ports that carry beats. -/
def upPorts (s : State) : List Nat := (s.hub.ports.filter fun e => e.2.up).map Prod.fst

/-- Event PTP_INTERVAL: 2 to the power -10 of a second has passed since the last messages: every port sends its Pdelay_Req
(2), and every port but the one toward the grandmaster its Sync (0) (17 R410). -/
def execPtpInterval (s : State) : Out :=
  if s.hub.time.lastPtp + 1953125 ≤ s.clock.halfNs then
    let sync := fun (n : Nat) (s : State) => if s.hub.time.master = some n then s else emit (.ptp 0 n (nsNow s)) s
    .next (modTime (fun t => { t with lastPtp := s.clock.halfNs, askedNs := nsNow s })
      ((upPorts s).foldl (fun s n => emit (.ptp 2 n (nsNow s)) (sync n s)) s))
  else .fault (.notEnabled "PTP_INTERVAL")

/-- Event PDELAY_REQ: a peer delay request at port `a` is answered with a Pdelay_Resp (3) and its time (17 R410). -/
def execPdelayReq (s : State) : Out := timeMessage "PDELAY_REQ" (fun s => emit (.ptp 3 s.arg.a (nsNow s)) s) s

/-- Event PDELAY_RESP: the answer to the last Pdelay_Req of port `a` arrives, whose neighbour held it for `b` ns: the peer
delay is half of the rest of the time since (17 R410). -/
def execPdelayResp (s : State) : Out :=
  timeMessage "PDELAY_RESP" (modTime fun t => { t with delay := put s.arg.a ((nsNow s - t.askedNs - s.arg.b) / 2) t.delay }) s

end Sys2Proof.Machine
end

