-- ==== Sys2Proof/Machine/Partitions.lean ====
section
/-!
DEFINITION. Partitions and images as the management core and the loader make and end them, the sensors, and the health
of the module (02 R55-R59; 23 R464, R472; 25 R502, R505-R507, R509).
-/
namespace Sys2Proof.Machine

/-! ## Partitions (23 R464, 25 R502, R509) -/

/-- Whether a configuration keeps the limits of R464 by itself. -/
def cfgGood (c : PartCfg) : Bool :=
  c.quads.all (· < 144) && 1 ≤ c.hbmSize && c.hbmBase + c.hbmSize ≤ 767 && c.flowLo ≤ c.flowHi && c.flowHi < 0xFF00 &&
  c.flowNe ≤ 512 && c.flowAb ≤ 128 && c.granary ≤ 65536 && 1 ≤ c.pool && c.pool ≤ 256 && 250 ≤ c.tickns && c.tickns ≤ 10000 &&
  1 ≤ c.stall && c.stall ≤ 4000000 && 10 ≤ c.age && c.age ≤ 4000000

/-- Whether a configuration shares nothing with the partitions that exist: quads, HBM, and what all slices may sum to
(12 R285; 17 R384; 23 R464; 25 R509). -/
def cfgApart (s : State) (c : PartCfg) : Bool :=
  let others := s.parts.map fun e => e.2.cfg
  let sum := fun (f : PartCfg → Nat) => (others.map f).foldl (· + ·) (f c)
  others.all (fun o => !(o.quads.any c.quads.contains) && !(meets o.hbmBase o.hbmSize c.hbmBase c.hbmSize)) &&
  sum (·.flowNe) ≤ 512 && sum (·.flowAb) ≤ 128 && sum (·.granary) ≤ 65536

/-- HBM with a slice written to zero under its new key (25 R502). -/
def zeroSlice (c : PartCfg) (h : Hbm) : Hbm :=
  let (lo, hi) := (c.hbmBase * 2 ^ 30, (c.hbmBase + c.hbmSize) * 2 ^ 30)
  { h with
    mem := h.mem.filter fun e => !(lo ≤ e.1 && e.1 < hi)
    poison := h.poison.filter fun w => !(lo ≤ w && w < hi)
    mode := h.mode.filter fun e => !(lo ≤ e.1 * 256 && e.1 * 256 < hi)
    dead := h.dead.filter fun e => !(c.hbmBase ≤ e.1 && e.1 < c.hbmBase + c.hbmSize)
    raw := h.raw.filter fun b => !(lo ≤ b * 256 && b * 256 < hi) }

/-- HBM after the key of a slice is destroyed: what the slice stores stays as the key `k` has encrypted it (25 R502). -/
def sealSlice (k : Nat) (c : PartCfg) (h : Hbm) : Hbm :=
  { h with dead := (upFrom c.hbmBase c.hbmSize).foldl (fun m g => put g k m) h.dead }

/-- The state after a partition is created with two new keys, one for its slice and one for its save areas, and its slice is
zeroed (23 R464; 25 R502). -/
def createPartition (p : Nat) (c : PartCfg) (s : State) : State :=
  { s with
    parts := put p { cfg := c, key := s.sec.keys + 1, saveKey := s.sec.keys + 2 } s.parts
    queues := s.queues.filter fun e => e.1 / 32 != p
    hbm := zeroSlice c s.hbm
    sec := { s.sec with keys := s.sec.keys + 2 } }

/-- Event PARTITION_CREATE: the physical function creates partition `a` with the configuration `cfg` (23 R464). -/
def execPartitionCreate (s : State) : Out :=
  let p := s.arg.a
  let c := s.arg.cfg
  if s.sec.life = .ready && p < 24 && (find s.parts p).isNone && cfgGood c && cfgApart s c then .next (createPartition p c s)
  else .fault (.notEnabled "PARTITION_CREATE")

/-- Event PARTITION_DESTROY: the physical function destroys partition `a`, with all that runs in it and its keys
(23 R464; 25 R502). -/
def execPartitionDestroy (s : State) : Out :=
  let p := s.arg.a
  if (find s.parts p).isNone then .fault (.notEnabled "PARTITION_DESTROY")
  else
    let s1 := resetPartition p s
    .next { s1 with
      parts := del p s1.parts
      hbm := sealSlice (part s p).key (part s p).cfg s1.hbm
      packets := s1.packets.filter fun k => k.part != p
      queues := s1.queues.filter fun e => e.1 / 32 != p
      tiles := mapVals (fun _ (t : Tile) => { t with parts := del p t.parts }) s1.tiles
      sec := { s1.sec with tdisp := s1.sec.tdisp.filter fun e => e.1 / 4 != p, ide := s1.sec.ide.filter fun e => e.1 / 4 != p } }

/-! ## Sensors (23 R472, 25 R507) -/

/-- Event SENSOR_READING: the sensor of quad `a` reads `b` milliwatt and `offset` °C. The queues are held no longer once
every sensor is below 95 °C (23 R472; 25 R507). -/
def execSensorReading (s : State) : Out :=
  let q := s.arg.a
  let x : Sensor := look {} s.sensors q
  let hot := if 115 ≤ s.arg.offset then some (x.hotNs.getD (nsNow s)) else none
  let y : Sensor :=
    { milliwatt := s.arg.b, placed := 0, celsius := s.arg.offset, readAt := s.clock.now + 1, oldRoom := roomOf x, hotNs := hot }
  let s1 : State := { s with sensors := put q y s.sensors }
  .next { s1 with sec := { s1.sec with hotHold := s1.sec.hotHold && s1.sensors.any fun e => 95 ≤ e.2.celsius } }

/-- Event TEMPERATURE_LIMIT: a sensor has read 115 °C for 1 ms: every partition resets and the queues are held
(25 R507). -/
def execTemperatureLimit (s : State) : Out :=
  let hot := s.sensors.any fun e => match e.2.hotNs with
    | some n => n + 1000000 ≤ nsNow s
    | none => false
  if hot && !s.sec.hotHold then
    let s1 := (keys s.parts).foldl (fun s p => resetPartition p s) s
    .next { s1 with sec := { s1.sec with hotHold := true } }
  else .fault (.notEnabled "TEMPERATURE_LIMIT")

/-! ## Health (25 R505, R506) -/

/-- The enabled tiles. -/
def enabledTiles (s : State) : List Nat := (upFrom 0 576).filter (enabled s)

/-- The number of usable tiles (25 R505). -/
def usable_ (s : State) : Nat := (enabledTiles s).length - s.sec.lost.length

/-- The number of tiles whose array is disabled or has lost its fuse (25 R505). -/
def weakTiles (s : State) : Nat := (s.tiles.filter fun e => e.2.arr.off || !e.2.arr.fuse).length

/-- Whether a stack has used three quarters of its repair rows (25 R506). -/
def rowsUsed (x : Nat × Nat) : Bool := decide (0 < x.2) && decide (3 * x.2 ≤ 4 * x.1)

/-- The first condition of R506 that holds, by its reason. -/
def replReason (s : State) : Option Nat :=
  if usable_ s < 544 then some 1
  else if 32 ≤ weakTiles s then some 2
  else if s.sec.rows.any rowsUsed then some 3
  else if s.sec.recur then some 4
  else if s.sec.badRouters.isEmpty then none
  else some 5

/-- The state with a replacement requested where R506 asks for one; the first reason stays. -/
def checkHealth (s : State) : State :=
  if s.sec.repl || !s.hub.ready then s
  else match replReason s with
    | some r => { s with sec := { s.sec with repl := true, reason := r } }
    | none => s

/-- HSTAT (25 R505). -/
def hstat (s : State) : Word :=
  packed [(63, s.hub.ready.toNat), (62, s.sec.repl.toNat), (58, s.sec.reason), (48, usable_ s), (38, s.sec.lost.length),
    (28, weakTiles s), (12, s.sec.hrows)]

/-- The state at the end of a network cycle, whose HSTAT the reports of the next one bring (25 R500). -/
def noteHealth (s : State) : State := if s.hub.ready then { s with sec := { s.sec with health := hstat s } } else s

/-- A tile after an error of a word of its memories: one that is corrected is repaired in place and counted by memory, an
uncorrectable one poisons the word (08 R202, R217). -/
def memError (hard : Bool) (w : Nat) (t : Tile) : Tile :=
  if hard then poisonWord w t
  else if w < 0x1000000 then { t with spcorr := satAdd 65535 t.spcorr 1 }
  else { t with sbcorr := satAdd 65535 t.sbcorr 1 }

/-- The state after a tile is lost to placement: a region that holds it is given up, and a saved team that was to be restored
on it enters the pools again (23 R472, R475; 25 R505). -/
def unplace (t : Nat) (s : State) : State :=
  let s1 := modDie (dieOf t) (fun g => { g with regions := g.regions.filter fun r => !(r.tiles.contains t) }) s
  let there := fun (sv : SavedTeam) => sv.placed.any fun x => x.1 = t
  s1.parts.foldl (fun s e => (e.2.saved.filter there).foldl (fun s sv =>
    let tm := team s sv.team
    enterPool { launch := tm.launch, node := tm.node, part := e.1, ns := tm.sinceNs, team := some sv.team }
      (modPart e.1 (fun pt => { pt with saved := pt.saved.map fun x => if x.team = sv.team then { x with placed := [] } else x }) s)) s) s1

/-- Event TILE_CHECK: a firmware check finds tile `a` failing: its threads are killed and it is lost; with `flag` its router
has failed as well, which may also befall a tile already lost (25 R505, R506). With `c` 1 or 2 the tile goes on: an error of the word at `b` of its memories has been
found, corrected (1) or uncorrectable (2) (08 R202; log entry 77); with `c` 3 the next self-test of the tile finds the
sub-arrays `nums` failing (10 R251; log entry 28). With `c` 4 a read finds the HBM block at offset `b` stored in mode `d`
with payload `bytes`: where that decodes to nothing, or with `e` 1 for an error of its code, the block is poisoned, and
`flag` says that its row has been spared before; with `c` 5 a row of stack `b` is spared (16 R374; 25 R505, R506). -/
def execTileCheck (s : State) : Out :=
  let t := s.arg.a
  if s.arg.c = 4 then
    if s.arg.e = 1 || (decodeBlock s.arg.d s.arg.bytes).isNone then
      .next (checkHealth { s with hbm := poisonBlock s.arg.b s.hbm, sec := { s.sec with recur := s.sec.recur || s.arg.flag } })
    else .next s
  else if s.arg.c = 5 then
    .next (checkHealth { s with sec := { s.sec with
      hrows := satAdd 65535 s.sec.hrows 1, rows := modAt (fun x => (x.1 + 1, x.2)) s.arg.b s.sec.rows } })
  else if s.arg.c = 3 then .next (modArr t (fun a => { a with bad := s.arg.nums }) s)
  else if s.arg.c = 1 || s.arg.c = 2 then .next (modTile t (memError (s.arg.c = 2) (s.arg.b / 8 * 8)) s)
  else if !(enabled s t) then .fault (.notEnabled "TILE_CHECK")
  else if s.sec.lost.contains t then
    if s.arg.flag then .next (checkHealth { s with sec := { s.sec with badRouters := addNat t s.sec.badRouters } })
    else .fault (.notEnabled "TILE_CHECK")
  else
    let s1 := [0, 1, 2, 3].foldl (fun s c => killThread (t * 6 + c) s) s
    let s2 := [4, 5].foldl (fun s c => if occupied s (t * 6 + c) then endTiller (t * 6 + c) s else s) s1
    let bad := if s.arg.flag then addNat t s2.sec.badRouters else s2.sec.badRouters
    .next (checkHealth { unplace t s2 with sec := { s2.sec with lost := addNat t s2.sec.lost, badRouters := bad } })

/-! ## Images (02 R55-R59) -/

/-- Whether an image's header is acceptable. DESIGN CHOICE (log entry 94): beside the grounds of R57, a count, an offset or
a length outside its range rejects the image (02 R55, R57). -/
def imageHeadGood (b : List Byte) : Bool :=
  (b.take 4).map BitVec.toNat = [0x46, 0x4C, 0x51, 0x37] && field b 4 2 = 1 && 1 ≤ field b 6 2 && field b 6 2 ≤ 4096 &&
  field b 8 4 % 32 = 0 && zeroAt b 12 4 && field b 16 8 = b.length && zeroAt b 28 36 && field b 8 4 + 32 * field b 6 2 ≤ b.length

/-- The entries of an image's section table (02 R56). -/
def sectionTable (b : List Byte) : List (List Byte) := cut 32 (field b 6 2) (b.drop (field b 8 4))

/-- Whether a section-table entry is acceptable. DESIGN CHOICE (log entry 94): beside the grounds of R57, a sub, a member or
bounds outside their range reject the image (02 R56, R57). -/
def sectionGood (b e : List Byte) : Bool :=
  let kind := field e 0 2
  let sub := field e 2 2
  1 ≤ kind && kind ≤ 7 && (if kind = 1 then sub ≤ 6 else if kind = 2 then sub ≤ 2 else sub = 0) &&
  (field e 4 2 ≤ 135 || field e 4 2 = 0xFFFF) && zeroAt e 6 2 && zeroAt e 28 4 && field e 8 8 + field e 16 8 ≤ b.length

/-- A 64-bit value at an offset of a section raised by an address. DESIGN CHOICE (log entry 95): a record whose offset lies
outside its section changes nothing (02 R57). -/
def relocate (off add : Nat) (bs : List Byte) : List Byte :=
  if bs.length < off + 8 then bs
  else bs.take off ++ toBytes 8 ((field bs off 8 + add) % 2 ^ 64) ++ bs.drop (off + 8)

/-- The relocation records of an image. DESIGN CHOICE (log entry 96): the bytes after the last whole record of a section
are no record (02 R57). -/
def relocations (b : List Byte) : List (List Byte) :=
  ((sectionTable b).filter fun e => field e 0 2 = 6).flatMap fun e =>
    cut 16 (field e 16 8 / 16) ((b.drop (field e 8 8)).take (field e 16 8))

/-- The contents of an image's sections with their relocations, where `addrs` are the sections' load addresses. DESIGN
CHOICE (log entry 95): a record whose section is not there changes nothing, and a symbol section that is not there adds
zero (02 R57). -/
def sectionContents (b : List Byte) (addrs : List Nat) : List (List Byte) :=
  let es := sectionTable b
  let raw := es.map fun e => (b.drop (field e 8 8)).take (field e 16 8)
  (relocations b).foldl (fun l r => modAt (relocate (field r 4 4) (addrs.getD (field r 8 4) 0)) (field r 0 4) l) raw

/-- The launch records of a section with `image` set to the number of the loaded image (23 R470). -/
def setImage (num : Nat) : Nat → List Byte → List Byte
  | 0, bs => bs
  | fuel + 1, bs =>
    let n := 64 + 64 * field bs 0 2
    if bs.length < n || field bs 0 2 = 0 then bs
    else bs.take 36 ++ toBytes 4 num ++ (bs.take n).drop 40 ++ setImage num fuel (bs.drop n)

/-- The sections of a kind, each with its entry, its contents and its load address. -/
def sectionsOf (b : List Byte) (addrs : List Nat) (kind : Nat) : List (List Byte × List Byte × Nat) :=
  let es := sectionTable b
  ((es.zip ((sectionContents b addrs).zip (upFrom 0 es.length))).filter fun x => field x.1 0 2 = kind).map fun x =>
    (x.1, x.2.1, addrs.getD x.2.2 0)

/-- The image that a file gives, but for its installations (02 R45, R56-R58). -/
def imageFrom (pasid num : Nat) (b : List Byte) (addrs : List Nat) : Image :=
  let code := fun (st : Nat) => ((sectionsOf b addrs 1).filter fun x => field x.1 2 2 = st).flatMap fun x =>
    (cut 2 (x.2.1.length / 2) x.2.1).map fun h => BitVec.ofNat 16 (leNat h)
  let data := (sectionsOf b addrs 2).filter fun x => field x.1 2 2 != 2
  { pasid := pasid
    code := (upFrom 0 7).map fun st => (st, code st)
    data := data.map fun x =>
      { place := field x.1 2 2, member := if field x.1 4 2 = 0xFFFF then none else some (field x.1 4 2), bytes := x.2.1 }
    hbm := ((sectionsOf b addrs 2).filter fun x => field x.1 2 2 = 2).map fun x => (x.2.2, x.2.1.length)
    launches := (sectionsOf b addrs 5).map fun x => setImage num 1024 x.2.1
    deflaunch := field b 24 4
    codePages := (sectionsOf b addrs 1).flatMap fun x =>
      if x.2.1.isEmpty then [] else upFrom (x.2.2 / 4096) ((x.2.2 + x.2.1.length - 1) / 4096 - x.2.2 / 4096 + 1) }

/-- The state after bytes are written at a virtual address of which the host gives the pages' physical addresses; the
bytes of a page it does not give, or that the partition may not reach, are not written. -/
def loadBytes (p : Nat) (pages : List (Nat × Nat)) : Nat → Nat → List Byte → State → State
  | 0, _, _, s => s
  | fuel + 1, va, bs, s =>
    if bs.isEmpty then s
    else
      let k := min bs.length (4096 - va % 4096)
      let s1 := match pages.find? fun x => x.1 = va / 4096 with
        | some x => match homeOf s p (x.2 + va % 4096) k with
          | .ok h => homeWrite p h (fun _ => false) ((bs.take k).map some) s
          | .error _ => s
        | none => s
      loadBytes p pages fuel (va + k) (bs.drop k) s1

/-- Whether a whole image file is acceptable, the reserved bytes of its relocation records among it (02 R57). -/
def imageGood (b : List Byte) : Bool :=
  imageHeadGood b && (sectionTable b).all (sectionGood b) && (relocations b).all fun r => zeroAt r 12 4

/-- The bytes of a section's alignment: that of a code section is in halfwords (02 R47, R56). -/
def alignOf (e : List Byte) : Nat := if field e 0 2 = 1 then 2 * field e 24 4 else field e 24 4

/-- Whether the loader's addresses place every section of an image at a multiple of its alignment (02 R47). -/
def wellPlaced (b : List Byte) (addrs : List Nat) : Bool :=
  ((sectionTable b).zip (upFrom 0 (sectionTable b).length)).all fun x => alignOf x.1 = 0 || addrs.getD x.2 0 % alignOf x.1 = 0

/-- Event IMAGE_LOAD: the loader loads the image file `bytes` into partition `a` under number `b` for the process `c`; `nums`
are the load addresses of its sections, at multiples of their alignments, and `pairs` the physical addresses of the pages
they lie on. The hbm sections and the launch records are written and the image-level handles and flows installed, or
nothing is; the loader reports the launch started by default (02 R47, R55-R59; 23 R470; log entry 45). DESIGN CHOICE (log
entry 96): the bytes after the last whole record of a handle or flow section are no record. DESIGN CHOICE (log entry 103):
the records of every handle and flow section are the image's own, and a launch's own records (23 R470) stand in none of its
sections; the manual does not say in which sections those stand. -/
def execImageLoad (s : State) : Out :=
  let (p, num, pasid) := (s.arg.a, s.arg.b, s.arg.c)
  let b := s.arg.bytes
  let addrs := s.arg.nums
  if (find s.parts p).isNone || (part s p).draining.isSome || (imageGood b && !(wellPlaced b addrs)) then
    .fault (.notEnabled "IMAGE_LOAD")
  else
    let hs := (sectionsOf b addrs 3).flatMap fun x => cut 64 (x.2.1.length / 64) x.2.1
    let fs := (sectionsOf b addrs 4).flatMap fun x => cut 64 (x.2.1.length / 64) x.2.1
    match (if imageGood b && (find (part s p).images num).isNone then install p (imageInst num) hs fs s else none) with
    | none => .next (emit (.loadResult p num false 0) s)
    | some s1 =>
      let im0 := imageFrom pasid num b addrs
      let im : Image := { im0 with handles := hs.map (fun r => (field r 36 2, parseHRec r)), flows := fs.map parseFRec }
      let data := (((sectionsOf b addrs 2).filter fun x => field x.1 2 2 = 2).map fun x => (x.2.2, x.2.1)) ++
        ((sectionsOf b addrs 5).map Prod.snd |>.map Prod.snd).zip im.launches
      let s2 := data.foldl (fun s x => loadBytes p s.arg.pairs (x.2.length / 4096 + 2) x.1 x.2 s) s1
      .next (emit (.loadResult p num true im0.deflaunch) (modPart p (fun pt => { pt with images := put num im pt.images }) s2))

/-- Event IMAGE_UNLOAD: the loader unloads image `b` of partition `a`, which no launch runs and whose handles nothing uses
(02 R59; 12 R285). -/
def execImageUnload (s : State) : Out :=
  let (p, num) := (s.arg.a, s.arg.b)
  match find (part s p).images num with
  | none => .fault (.notEnabled "IMAGE_UNLOAD")
  | some _ =>
    if s.launches.any (fun e => e.2.part = p && e.2.image = num) || !(installQuiet s p (imageInst num)) then
      .fault (.notEnabled "IMAGE_UNLOAD")
    else .next (uninstall p (imageInst num) (modPart p (fun pt => { pt with images := del num pt.images }) s))

end Sys2Proof.Machine
end

