-- ==== Sys2Proof/Machine/Debug.lean ====
section
/-!
DEFINITION. The debugger's registers: attaching, stopping and resuming teams, and reading and writing a stopped thread
(24 R490, R492).
-/
namespace Sys2Proof.Machine

/-- The state with a partition's registers changed. -/
def modRegs (p : Nat) (f : PartRegs → PartRegs) (s : State) : State := modPart p (fun pt => { pt with regs := f pt.regs }) s

/-- Event DBGATT: the host writes `v` to DBGATT of partition `a`: dbg is set or cleared in every thread, those of saved teams
among them (05 R125; 24 R490). -/
def execDbgatt (s : State) : Out :=
  let p := s.arg.a
  let on := s.arg.v.getLsbD 0
  let attach := fun (t : Thread) => if t.id.part = p then { t with sr := { t.sr with dbg := on } } else t
  let s1 := modPart p (fun pt => { pt with
    regs := { pt.regs with dbgatt := on }
    saved := pt.saved.map fun v => { v with members := v.members.map fun m => (m.1, attach m.2) } }) s
  .next { s1 with threads := mapVals (fun _ t => attach t) s1.threads }

/-- Event DBGSTOP: the host writes `v` to DBGSTOP of partition `a`: every live member of the named team sees a stop request,
while dbg is set (24 R490, R492). -/
def execDbgstop (s : State) : Out :=
  match namedTeam s s.arg.a s.arg.v with
  | none => .next s
  | some t => .next ((stoppable s t).foldl (fun s m => interrupt 2 m s) s)

/-- Whether a thread stands stopped for the debugger (24 R490). -/
def dbgStopped (t : Thread) : Bool :=
  match t.frz with
  | some z => z.closed && z.fault.isNone && z.taken = 2
  | none => false

/-- The tillers that hold threads of a team. -/
def tillersOf (s : State) (t : Nat) : List Nat :=
  (s.threads.filter fun e => match e.2.tillerOf with
    | some f => (thr s f).id.team = t
    | none => false).map Prod.fst

/-- Event DBGRES: the host writes `v` to DBGRES of partition `a`: every stopped member of the named team resumes, and every
stopped tiller of a member (24 R492). -/
def execDbgres (s : State) : Out :=
  match namedTeam s s.arg.a s.arg.v with
  | none => .next s
  | some t =>
    .next (((liveOf s t ++ tillersOf s t).filter fun m => dbgStopped (thr s m)).foldl (fun s m => resume m s) s)

/-- The thread that DBGSEL names, if it is a stopped thread of the partition (24 R492). -/
def dbgThread (s : State) (p : Nat) : Option Nat :=
  let x := (part s p).regs.dbgsel.toNat
  let tid := bitsOf x 32 10 * 6 + bitsOf x 42 3
  if bitsOf x 42 3 < 6 && occupied s tid && (thr s tid).id.part = p && dbgStopped (thr s tid) then some tid else none

/-- The selector in DBGSEL (24 R492). -/
def dbgSelector (s : State) (p : Nat) : Word := BitVec.ofNat 64 (bitsOf (part s p).regs.dbgsel.toNat 0 32)

/-- Event DBGDATA_READ: the host reads DBGDATA of partition `a` (24 R492); in recovery no register is exposed (25 R497). -/
def execDbgdataRead (s : State) : Out :=
  if s.sec.life = .recovery then .next s else
  let p := s.arg.a
  let (st, v) := match dbgThread s p with
    | none => (minusOne, minusOne)
    | some f => match (selector (dbgSelector s p)).bind (frozenItem s f) with
      | none => (neg 2, neg 2)
      | some v => (0, v)
  .next (emit (.hostData v) (modRegs p (fun g => { g with dbgstat := st, dbgdata := v }) s))

/-- Event DBGDATA_WRITE: the host writes `v` to DBGDATA of partition `a` (24 R492). -/
def execDbgdataWrite (s : State) : Out :=
  let p := s.arg.a
  let r := match dbgThread s p with
    | none => (minusOne, s)
    | some f => frozenWrite f (dbgSelector s p) s.arg.v s
  .next (modRegs p (fun g => { g with dbgstat := r.1, dbgdata := s.arg.v }) r.2)

end Sys2Proof.Machine
end

