-- ==== Sys2Proof/Machine/Sha3.lean ====
section
/-!
DEFINITION. SHA3-256, the hash of the boot chain and of attestation (25 R497, R498, R500). The manual names the function and
gives no steps; these are those of its standard, FIPS 202 (log entry 120).
-/
namespace Sys2Proof.Machine

/-- Lane (x, y) of a Keccak state, which stands at x + 5 y. -/
def sha3Lane (a : List Word) (x y : Nat) : Word := a.getD (x % 5 + 5 * (y % 5)) 0

/-- The lanes that a function of their coordinates gives. -/
def sha3Lanes (f : Nat → Nat → Word) : List Word := (upFrom 0 25).map fun i => f (i % 5) (i / 5)

/-- The rotation of lane (x, y), which stands at x + 5 y. -/
def sha3Turns : List Nat :=
  [0, 1, 62, 28, 27, 36, 44, 6, 55, 20, 3, 10, 43, 25, 39, 41, 45, 15, 21, 8, 18, 2, 61, 56, 14]

/-- The constants of the 24 rounds. -/
def sha3Rounds : List Word :=
  [0x0000000000000001, 0x0000000000008082, 0x800000000000808A, 0x8000000080008000, 0x000000000000808B, 0x0000000080000001,
    0x8000000080008081, 0x8000000000008009, 0x000000000000008A, 0x0000000000000088, 0x0000000080008009, 0x000000008000000A] ++
  [0x000000008000808B, 0x800000000000008B, 0x8000000000008089, 0x8000000000008003, 0x8000000000008002, 0x8000000000000080,
    0x000000000000800A, 0x800000008000000A, 0x8000000080008081, 0x8000000000008080, 0x0000000080000001, 0x8000000080008008]

/-- One round of the permutation. -/
def sha3Round (a : List Word) (rc : Word) : List Word :=
  let col := (upFrom 0 5).map fun x => sha3Lane a x 0 ^^^ sha3Lane a x 1 ^^^ sha3Lane a x 2 ^^^ sha3Lane a x 3 ^^^ sha3Lane a x 4
  let t := sha3Lanes fun x y => sha3Lane a x y ^^^ col.getD ((x + 4) % 5) 0 ^^^ (col.getD ((x + 1) % 5) 0).rotateLeft 1
  let b := sha3Lanes fun x y => (sha3Lane t (x + 3 * y) x).rotateLeft (sha3Turns.getD ((x + 3 * y) % 5 + 5 * x) 0)
  let c := sha3Lanes fun x y => sha3Lane b x y ^^^ (~~~(sha3Lane b (x + 1) y) &&& sha3Lane b (x + 2) y)
  (c.headD 0 ^^^ rc) :: c.drop 1

/-- The permutation. -/
def sha3Permute (a : List Word) : List Word := sha3Rounds.foldl sha3Round a

/-- A message with its padding: a multiple of 136 bytes. -/
def sha3Padded (m : List Byte) : List Byte :=
  let n := 135 - m.length % 136
  if n = 0 then m ++ [0x86] else m ++ [0x06] ++ List.replicate (n - 1) 0 ++ [0x80]

/-- The state after a block of 136 bytes. -/
def sha3Absorb (a : List Word) (b : List Byte) : List Word :=
  let ws := (cut 8 17 b).map fun x => BitVec.ofNat 64 (leNat x)
  sha3Permute ((a.zip (ws ++ List.replicate 8 0)).map fun x => x.1 ^^^ x.2)

/-- The SHA3-256 digest of a byte string: 32 bytes. -/
def sha3 (m : List Byte) : List Byte :=
  let p := sha3Padded m
  ((cut 136 (p.length / 136) p).foldl sha3Absorb (List.replicate 25 0)).take 4 |>.flatMap fun w => toBytes 8 w.toNat

end Sys2Proof.Machine
end

