-- ==== Sys2Proof/Machine/Security.lean ====
section
/-!
DEFINITION. Module reset with the boot chain and bring-up, the answers to SPDM requests, and the TDISP states of the
virtual functions (25 R497-R504).
-/
namespace Sys2Proof.Machine

/-! ## Boot and bring-up (25 R497, R498, R504) -/

/-- Whether a boot stage passes its loader's checks (25 R497). -/
def stageGood (x : BootStage) : Bool :=
  Config.verify x.vendorKey x.image x.signature && sha3 x.vendorKey = Config.fusedDigest &&
    Config.fusedVersion ≤ x.version

/-- The slots after a stage's digest is measured into one of them (25 R498). -/
def measure (i : Nat) (x : BootStage) (slots : List (List Byte)) : List (List Byte) :=
  modAt (fun v => sha3 (v ++ sha3 x.image)) i slots

/-- The slots at module reset (25 R498). -/
def zeroSlots : List (List Byte) := List.replicate 5 (List.replicate 32 0)

/-- The slots after a run of stages, the first of which is measured into slot `i`, and whether all have passed: one that
fails ends the run, and what was measured before it stands (25 R497, R498; log entry 99). -/
def bootStages : Nat → List BootStage → List (List Byte) → List (List Byte) × Bool
  | _, [], slots => (slots, true)
  | i, x :: rest, slots => if stageGood x then bootStages (i + 1) rest (measure i x slots) else (slots, false)

/-- The module as a reset leaves it, before bring-up: what stands outside it stays, and so does what is physical in it, the
routers that have failed among it (25 R497, R505; log entry 46). -/
def afterReset (s : State) : State :=
  { inputs := s.inputs, out := s.out, freeCount := s.freeCount, host := s.host, hostPoison := s.hostPoison, hostUr := s.hostUr,
    sec := { slots := zeroSlots, keys := s.sec.keys, badRouters := s.sec.badRouters }
    tiles := mapVals (fun _ (t : Tile) => { arr := { bad := t.arr.bad } }) s.tiles }

/-- Recovery: no partition runs and no launch is taken until a module reset (25 R497). -/
def recovery (s : State) : State := { s with sec := { s.sec with life := .recovery } }

/-- A configuration that a plan holds, from its quads and its other items in the order of their table (23 R464). -/
def cfgFrom (quads xs : List Nat) : PartCfg :=
  let x := fun (i : Nat) => xs.getD i 0
  { quads := quads, hbmBase := x 0, hbmSize := x 1, flowLo := x 2, flowHi := x 3, flowNe := x 4, flowAb := x 5, granary := x 6,
    pool := x 7, tickns := x 8, stall := x 9, age := x 10, hentry := x 11 }

/-- The other items of a configuration, in the order of their table (23 R464). -/
def cfgItems (c : PartCfg) : List Nat :=
  [c.hbmBase, c.hbmSize, c.flowLo, c.flowHi, c.flowNe, c.flowAb, c.granary, c.pool, c.tickns, c.stall, c.age, c.hentry]

/-- The partitions that the image of a plan holds (25 R504). -/
def planIn (image : List Byte) : List (Nat × PartCfg) := (Config.planOf image).map fun x => (x.1, cfgFrom x.2.1 x.2.2)

/-- The state after the partitions of a plan are created, or none where one is not acceptable (25 R504). -/
def createPlan : List (Nat × PartCfg) → State → Option State
  | [], s => some s
  | (p, c) :: rest, s =>
    if p < 24 && (find s.parts p).isNone && cfgGood c && cfgApart s c then createPlan rest (createPartition p c s) else none

/-- Step 4 of bring-up: the self-test of every enabled tile, which `Sec.tests` counts for all of them (10 R251; 25 R504). -/
def testTiles (s : State) : State :=
  let s1 : State := { s with sec := { s.sec with tests := s.sec.tests + 1 } }
  (enabledTiles s).foldl (fun s t =>
    if (tile s t).arr.bad.isEmpty then s
    else modTile t (fun x => { x with arr := { (selfTest [] x.arr).1 with tests := x.arr.tests } }) s) s1

/-- Steps 6 to 8 of bring-up: the tables that firmware writes, the time engine, and the module ready (17 R382, R410; 25
R504). -/
def openModule (b : BootInput) (s : State) : State :=
  let table := fun (l : List (Nat × Nat)) => l.foldl (fun m x => put x.1 x.2 m) []
  let s1 : State := { s with
    hub := { s.hub with routes := table b.routes, windows := table b.windows, time := { master := b.master }, ready := true }
    sec := { s.sec with life := .ready, health := hstat s } }
  checkHealth s1

/-- Step 5 of bring-up and what follows: the partition plan is loaded, checked and measured into slot 4, and the partitions
that it holds are created; recovery where this fails (25 R497, R498, R504). -/
def loadPlan (b : BootInput) (s : State) : State :=
  match b.stages[4]? with
  | some x =>
    if !(stageGood x) then recovery s
    else
      let s1 : State := { s with sec := { s.sec with slots := measure 4 x s.sec.slots, plan := x.image } }
      match createPlan (planIn x.image) s1 with
      | none => recovery s1
      | some s2 => openModule b s2
  | none => recovery s

/-- Bring-up after the boot chain, step by step, or recovery where a step fails (25 R504). A module with a router that has
failed does not come up again (DEDUCED, log entry 77: R505 lets it go on only until its next module reset). -/
def bringUp (b : BootInput) (s : State) : State :=
  let s1 : State := { s with hub := { window := b.window, module := b.module } }
  if !b.stacksTrained then recovery s1
  else
    let s2 : State := { s1 with offTiles := b.offTiles, offQuads := b.offQuads, sec := { s1.sec with rows := b.repair } }
    if (enabledTiles s2).length < 544 || !s2.sec.badRouters.isEmpty then recovery s2 else loadPlan b (testTiles s2)

/-- Event MODULE_RESET: the boot chain runs on the firmware stages of `boot` with measurement, and bring-up follows, which
loads its last stage, the plan; a failure enters recovery (25 R497, R498, R504). -/
def execModuleReset (s : State) : Out :=
  let b := s.arg.boot
  let r := bootStages 0 (b.stages.take 4) zeroSlots
  let s1 := afterReset s
  let s2 : State := { s1 with sec := { s1.sec with slots := r.1 } }
  .next (if r.2 && 4 ≤ b.stages.length then bringUp b s2 else recovery s2)

/-! ## Attestation (25 R499, R500) -/

/-- The seed of the identity key, from the fused secret and slots 0 and 1 (25 R499). -/
def identity (s : State) : List Byte :=
  Config.identitySeed Config.fusedSecret (s.sec.slots.headD [] ++ s.sec.slots.getD 1 [])

/-- An SPDM request is answered with some bytes, where the module is up (25 R500). -/
def answer (name : String) (kind : Nat) (bytes : List Byte) (f : State → State) (s : State) : Out :=
  if s.sec.life = .ready then .next (emit (.spdm s.arg.a kind bytes) (f s)) else .fault (.notEnabled name)

/-- Event GET_VERSION from requester `a`: SPDM 1.3 (25 R500). -/
def execGetVersion (s : State) : Out :=
  answer "GET_VERSION" 0x04 [0x13] (fun s => { s with sec := { s.sec with version := true, caps := false, algs := false } }) s

/-- Event GET_CAPABILITIES from requester `a` (25 R500). -/
def execGetCapabilities (s : State) : Out :=
  answer "GET_CAPABILITIES" 0x61 (Config.spdmBody 0x61 s.arg.bytes) (fun s => { s with sec := { s.sec with caps := true } }) s

/-- Event NEGOTIATE_ALGORITHMS from requester `a`: signatures are ML-DSA-44 and hashes SHA3-256 (25 R500). -/
def execNegotiateAlgorithms (s : State) : Out :=
  answer "NEGOTIATE_ALGORITHMS" 0x63 (Config.spdmBody 0x63 s.arg.bytes) (fun s => { s with sec := { s.sec with algs := true } }) s

/-- The identity certificate (25 R499). -/
def certificate (s : State) : List Byte := Config.certificate (Config.publicKey (identity s))

/-- Event GET_DIGESTS from requester `a` (25 R500). -/
def execGetDigests (s : State) : Out := answer "GET_DIGESTS" 0x01 (sha3 (certificate s)) (fun s => s) s

/-- Event GET_CERTIFICATE from requester `a` (25 R500). -/
def execGetCertificate (s : State) : Out := answer "GET_CERTIFICATE" 0x02 (certificate s) (fun s => s) s

/-- The state after this module has attested itself to a requester: with the event's flag to the module at the other end of
fabric port `b` (25 R503). -/
def attested (s : State) : State := if s.arg.flag then modPort s.arg.b (fun x => { x with shown := true }) s else s

/-- Event CHALLENGE from requester `a` with the nonce `bytes`: it is signed with the identity key (25 R500). With `flag` the
requester is the module at the other end of fabric port `b`. -/
def execChallenge (s : State) : Out := answer "CHALLENGE" 0x03 (Config.sign (identity s) s.arg.bytes) attested s

/-- What a requester's configuration digest covers: its partition's configuration, or the whole plan for the physical
function, which is requester 24, and for a neighbour module (25 R500; log entry 21). -/
def digested (s : State) (who : Nat) : List Byte :=
  match find s.parts who with
  | some pt => if s.arg.flag then s.sec.plan else Config.cfgBytes pt.cfg.quads (cfgItems pt.cfg)
  | none => s.sec.plan

/-- The first 328 bytes of an attestation report: a health change of this network cycle is not in it (25 R500). -/
def reportBody (s : State) (who : Nat) (nonce : List Byte) : List Byte :=
  toBytes 4 1 ++ toBytes 4 0 ++ padTo 32 nonce ++ (s.sec.slots.flatMap (padTo 32)) ++
    padTo 32 (sha3 (digested s who)) ++ toBytes 8 s.sec.health.toNat ++ toBytes 8 (nsNow s) ++ toBytes 80 0

/-- Event GET_MEASUREMENTS from requester `a`, a partition or 24 for the physical function, with the nonce `bytes`: the
signed report (25 R500). With `flag` the requester is the module at the other end of fabric port `b`. -/
def execGetMeasurements (s : State) : Out :=
  let b := reportBody s s.arg.a s.arg.bytes
  if s.arg.a != 24 && (find s.parts s.arg.a).isNone && !s.arg.flag then .fault (.notEnabled "GET_MEASUREMENTS")
  else answer "GET_MEASUREMENTS" 0x60 (b ++ Config.sign (identity s) b) attested s

/-- Event KEY_EXCHANGE from requester `a` with the request `bytes`. With `flag` the requester is the module at the other end of
fabric port `b`, and the port takes a key for each direction, once this module has attested itself there and, as `c` 1 says,
has found the other module's own report good (25 R500, R503). -/
def execKeyExchange (s : State) : Out :=
  let body := Config.spdmBody 0x64 s.arg.bytes
  let k := s.sec.keys
  answer "KEY_EXCHANGE" 0x64 (body ++ Config.sign (identity s) body) (fun s =>
    let s1 : State := { s with sec := { s.sec with keys := k + 2 } }
    if s.arg.flag && s.arg.c = 1 && (portOf s s.arg.b).shown then modPort s.arg.b (takeKeys (k + 1) (k + 2)) s1 else s1) s

/-! ## Interfaces (25 R501) -/

/-- Event LOCK_INTERFACE of virtual function `a`: from CONFIG_UNLOCKED (25 R501). -/
def execLockInterface (s : State) : Out :=
  fromHost s.arg.a (fun s => .next (if tdispOf s s.arg.a = .unlocked then setTdisp s.arg.a .locked s else s)) s

/-- The state with the IDE stream of a virtual function keyed (25 R501). -/
def keyStream (vf : Nat) (s : State) : State :=
  { s with sec := { s.sec with keys := s.sec.keys + 1, ide := put vf (s.sec.keys + 1) s.sec.ide } }

/-- Event START_INTERFACE of virtual function `a`: from CONFIG_LOCKED. DESIGN CHOICE (log entry 122): the key of the
interface's IDE stream is drawn as it starts (25 R501). -/
def execStartInterface (s : State) : Out :=
  fromHost s.arg.a (fun s => .next (if tdispOf s s.arg.a = .locked then keyStream s.arg.a (setTdisp s.arg.a .run s) else s)) s

/-- Event STOP_INTERFACE of virtual function `a`: from any state, and its partition resets (25 R501). -/
def execStopInterface (s : State) : Out :=
  fromHost s.arg.a (fun s => .next (resetPartition (s.arg.a / 4) (setTdisp s.arg.a .unlocked s))) s

/-- A host write that changes a partition's configuration: interfaces that are locked or running move to ERROR, and the
partition resets (25 R501). -/
def configChanged (p : Nat) (s : State) : State :=
  let hit := (upFrom (4 * p) 4).filter fun vf => tdispOf s vf = .locked || tdispOf s vf = .run
  if hit.isEmpty then s else resetPartition p (hit.foldl (fun s vf => setTdisp vf .error s) s)

end Sys2Proof.Machine
end

