-- ==== Sys2Proof/Machine/HostRegs.lean ====
section
/-!
DEFINITION. Host writes to registers that hold a value: the partition page, the queues, and the heads of the two rings
(16 R361, R379; 17 R385; 19 R441; 23 R465; 24 R492, R493).
-/
namespace Sys2Proof.Machine

/-- Whether a value is 0 or a power of two within limits. -/
def ringSize (lo hi : Nat) (v : Word) : Bool := v = 0 || (lo ≤ v.toNat && v.toNat ≤ hi && 2 ^ Nat.log2 v.toNat = v.toNat)

/-- A value with its low twelve bits zero. -/
def pageBase (v : Word) : Word := v &&& ~~~(0xFFF : Word)

/-- The offsets of the partition page whose writes are events of their own (16 R379; 19 R441; 23 R477; 24 R492). -/
def ownEvent (off : Nat) : Bool := [0x010, 0x020, 0x028, 0x038, 0x060, 0x070, 0x078, 0x080, 0x088, 0x098, 0x0C0].contains off

/-- The registers of a partition's page after a write of a value at an offset; one not listed, and a read-only one, does not
change (16 R379; 17 R385; 19 R441; 24 R492; log entry 47 for values out of range). A write of RECCTL begins a replay with no
record taken (24 R494). -/
def writeReg (off : Nat) (v : Word) (g : PartRegs) : PartRegs :=
  match off with
  | 0x000 => { g with flqbase := pageBase v }
  | 0x008 => if ringSize 64 65536 v then { g with flqsize := v } else g
  | 0x030 => { g with prtimer := max 250 (min 64000 v.toNat) }
  | 0x048 => { g with ltimeout := max 1000 v.toNat }
  | 0x050 => { g with kalive := max 2000 v.toNat }
  | 0x068 => { g with escpol := v.getLsbD 0 }
  | 0x090 => { g with dbgsel := BitVec.ofNat 64 (v.toNat % 2 ^ 45) }
  | 0x0A8 => { g with recctl := (if v.toNat % 4 = 3 then 0 else v.toNat % 4), rectaken := [] }
  | 0x0B0 => { g with recbase := pageBase v }
  | 0x0B8 => if ringSize 1024 (2 ^ 24) v then { g with recsize := v } else g
  | 0x0C8 => if g.recctl = 2 then { g with rectail := v } else g
  | _ => g

/-- Whether a write changes what a locked interface must not see changed (25 R501; log entry 48). -/
def locksOut (off : Nat) : Bool := off = 0x000 || off = 0x008 || off = 0x030

/-- What a host read of the page of partition `p` returns at an offset: zero where none is listed and where the register
reads zero (16 R379; 17 R385; 19 R441; 23 R477, R509; 24 R492). -/
def readReg (s : State) (p off : Nat) : Word :=
  let pt := part s p
  let g := pt.regs
  match off with
  | 0x000 => g.flqbase
  | 0x008 => g.flqsize
  | 0x010 => g.flqhead
  | 0x018 => g.flqtail
  | 0x020 => BitVec.ofNat 64 pt.frames.length
  | 0x030 => BitVec.ofNat 64 g.prtimer
  | 0x040 => BitVec.ofNat 64 pt.cfg.granary
  | 0x048 => BitVec.ofNat 64 g.ltimeout
  | 0x050 => BitVec.ofNat 64 g.kalive
  | 0x058 => BitVec.ofNat 64 saveSize
  | 0x060 => BitVec.ofNat 64 pt.areas.length
  | 0x068 => BitVec.ofNat 64 g.escpol.toNat
  | 0x078 => BitVec.ofNat 64 g.dbgatt.toNat
  | 0x090 => g.dbgsel
  | 0x0A0 => g.dbgstat
  | 0x0A8 => BitVec.ofNat 64 g.recctl
  | 0x0B0 => g.recbase
  | 0x0B8 => g.recsize
  | 0x0C0 => g.rechead
  | 0x0C8 => g.rectail
  | 0x0D0 => packed [(16, pt.cfg.hbmSize), (0, pt.cfg.hbmBase)]
  | _ => 0

/-- What a host read of the controls of a queue returns at an offset (23 R465). -/
def readQueue (x : Queue) (off : Nat) : Word :=
  match off with
  | 0x00 => x.base
  | 0x08 => x.size
  | 0x10 => x.tail.setWidth 64
  | 0x18 => x.head.setWidth 64
  | 0x20 => packed [(9, x.cplerr.toNat), (8, x.ovr.toNat), (1, x.prio), (0, x.enable.toNat)]
  | 0x28 => x.fence.setWidth 64
  | _ => 0

/-- What a host read of a register page returns; DBGDATA has an event of its own, and HSTAT stands in page 120 (16 R379; 23
R465; 24 R492; 25 R505). -/
def readPage (s : State) (pg off : Nat) : Word :=
  if pg < 24 then readReg s pg off
  else if 120 ≤ pg then (if pg = 120 && off = 0x0F0000 then hstat s else 0)
  else if off / 256 < 8 then readQueue (queueOf s (pg - 24) (off / 256)) (off % 256) else 0

/-- The state after the units of a partition that wait for room in its fault-log ring have gone on (16 R361). -/
def flqResume (p : Nat) (s : State) : State := settleBatches (flqFlush p (part s p).logWait.length s)

/-- A host access of the page of partition `pg`, in the physical function's BAR0 (16 R379). -/
def partAccess (pg off : Nat) (v : Word) (s : State) : Out :=
  if ownEvent off then .fault (.notEnabled "REGISTER_WRITE")
  else
    let g := (part s pg).regs
    let g1 := writeReg off v g
    let s1 := modRegs pg (fun _ => g1) s
    let s2 := if off = 0x008 then flqResume pg s1 else s1
    .next (if g1 != g && locksOut off then configChanged pg s2 else s2)

/-- A host write to the controls of a queue of virtual function `vf` at offset `off` of its BAR0 (23 R465). -/
def queueAccess (vf off : Nat) (v : Word) (s : State) : Out :=
  let (q, o) := (off / 256, off % 256)
  if 8 ≤ q then .next s
  else if o = 0x10 || o = 0x20 then .fault (.notEnabled "REGISTER_WRITE")
  else if (queueOf s vf q).enable then .next s
  else if o = 0x00 then
    let s1 := modQueue vf q (fun x => { x with base := pageBase v }) s
    .next (if (queueOf s vf q).base != pageBase v then configChanged (vf / 4) s1 else s1)
  else if o = 0x08 && ringSize 16 4096 v then .next (modQueue vf q (fun x => { x with size := v }) s)
  else .next s

/-- Event REGISTER_WRITE: the host writes `v` at offset `b` of page `a`: 0 to 23 is a partition's page, and 24 + vf the BAR0 of a
virtual function, 120 the BAR0 of the physical function (16 R379; 23 R465; 25 R501, R505). With `flag` the host reads there
instead, and the value is sent to it. A transaction of a virtual function that fails IDE integrity is dropped, and in recovery
no register is exposed (25 R497, R501). -/
def execRegisterWrite (s : State) : Out :=
  let (pg, off, v) := (s.arg.a, s.arg.b, s.arg.v)
  if s.sec.life = .recovery then .next s
  else if pg < 24 then
    if !s.arg.flag then partAccess pg off v s
    else if off = 0x098 then .fault (.notEnabled "REGISTER_WRITE")
    else .next (emit (.hostData (readPage s pg off)) s)
  else if pg < 120 then fromHost (pg - 24) (fun s =>
    if s.arg.flag then .next (emit (onStream s (pg - 24) (.hostData (readPage s pg off))) s) else queueAccess (pg - 24) off v s) s
  else .next (if s.arg.flag then emit (.hostData (readPage s pg off)) s else s)

/-- Event FLQHEAD: the driver writes `v` to FLQHEAD of partition `a`: the units that wait for room in the ring write their
records (16 R361). -/
def execFlqhead (s : State) : Out :=
  let p := s.arg.a
  let s1 := modRegs p (fun g => { g with flqhead := s.arg.v }) s
  .next (flqResume p s1)

/-- Event RECHEAD: the host writes `v` to RECHEAD of partition `a`, which in replay mode is read-only; from the record there on,
none has been taken (24 R492-R494). -/
def execRechead (s : State) : Out :=
  let p := s.arg.a
  .next (if (part s p).regs.recctl = 2 then s else modRegs p (fun g => { g with rechead := s.arg.v, rectaken := [] }) s)

end Sys2Proof.Machine
end

