-- ==== Sys2Proof/Machine/Dispatch.lean ====
section
/-!
DEFINITION. One arm per instruction: each calls its meaning.
-/
namespace Sys2Proof.Machine

/-- The effect of one instruction or event. -/
def exec (i : Instr) (s : State) : Host.Outcome State Fault Refusal :=
  match i with
  | .br p t => Sys2Proof.Machine.execBr p t s
  | .call p t => Sys2Proof.Machine.execCall p t s
  | .addiCompact g imm => Sys2Proof.Machine.execAddiCompact g imm s
  | .nop => Sys2Proof.Machine.execNop s
  | .yield => Sys2Proof.Machine.execYield s
  | .retire => Sys2Proof.Machine.execRetire s
  | .ebrk => Sys2Proof.Machine.execEbrk s
  | .trig n => Sys2Proof.Machine.execTrig n s
  | .join mask => Sys2Proof.Machine.execJoin mask s
  | .bar n => Sys2Proof.Machine.execBar n s
  | .bara n => Sys2Proof.Machine.execBara n s
  | .barw n => Sys2Proof.Machine.execBarw n s
  | .give x => Sys2Proof.Machine.execGive x s
  | .take x => Sys2Proof.Machine.execTake x s
  | .add d a b => Sys2Proof.Machine.execAdd d a b s
  | .sub d a b => Sys2Proof.Machine.execSub d a b s
  | .mul d a b => Sys2Proof.Machine.execMul d a b s
  | .mulh d a b => Sys2Proof.Machine.execMulh d a b s
  | .mulhu d a b => Sys2Proof.Machine.execMulhu d a b s
  | .div d a b => Sys2Proof.Machine.execDiv d a b s
  | .divu d a b => Sys2Proof.Machine.execDivu d a b s
  | .rem d a b => Sys2Proof.Machine.execRem d a b s
  | .remu d a b => Sys2Proof.Machine.execRemu d a b s
  | .and d a b => Sys2Proof.Machine.execAnd d a b s
  | .or d a b => Sys2Proof.Machine.execOr d a b s
  | .xor d a b => Sys2Proof.Machine.execXor d a b s
  | .andn d a b => Sys2Proof.Machine.execAndn d a b s
  | .shl d a b => Sys2Proof.Machine.execShl d a b s
  | .shr d a b => Sys2Proof.Machine.execShr d a b s
  | .sar d a b => Sys2Proof.Machine.execSar d a b s
  | .min d a b => Sys2Proof.Machine.execMin d a b s
  | .max d a b => Sys2Proof.Machine.execMax d a b s
  | .minu d a b => Sys2Proof.Machine.execMinu d a b s
  | .maxu d a b => Sys2Proof.Machine.execMaxu d a b s
  | .rol d a b => Sys2Proof.Machine.execRol d a b s
  | .ror d a b => Sys2Proof.Machine.execRor d a b s
  | .clz d a => Sys2Proof.Machine.execClz d a s
  | .popc d a => Sys2Proof.Machine.execPopc d a s
  | .sextw d a => Sys2Proof.Machine.execSextw d a s
  | .zextw d a => Sys2Proof.Machine.execZextw d a s
  | .cmpEq p a b => Sys2Proof.Machine.execCmpEq p a b s
  | .cmpNe p a b => Sys2Proof.Machine.execCmpNe p a b s
  | .cmpLt p a b => Sys2Proof.Machine.execCmpLt p a b s
  | .cmpLe p a b => Sys2Proof.Machine.execCmpLe p a b s
  | .cmpLtu p a b => Sys2Proof.Machine.execCmpLtu p a b s
  | .cmpLeu p a b => Sys2Proof.Machine.execCmpLeu p a b s
  | .pand d a b => Sys2Proof.Machine.execPand d a b s
  | .por d a b => Sys2Proof.Machine.execPor d a b s
  | .pxor d a b => Sys2Proof.Machine.execPxor d a b s
  | .pandn d a b => Sys2Proof.Machine.execPandn d a b s
  | .pnot d a => Sys2Proof.Machine.execPnot d a s
  | .tagLook d a => Sys2Proof.Machine.execTagLook d a s
  | .tagSet d a b => Sys2Proof.Machine.execTagSet d a b s
  | .tagClr d a => Sys2Proof.Machine.execTagClr d a s
  | .tagClrAll d => Sys2Proof.Machine.execTagClrAll d s
  | .hndDef d a b => Sys2Proof.Machine.execHndDef d a b s
  | .hndRelay d a b => Sys2Proof.Machine.execHndRelay d a b s
  | .hndQry d a item => Sys2Proof.Machine.execHndQry d a item s
  | .hndDrop d a => Sys2Proof.Machine.execHndDrop d a s
  | .pageReq d a b => Sys2Proof.Machine.execPageReq d a b s
  | .migrate d a b => Sys2Proof.Machine.execMigrate d a b s
  | .monArm d a b => Sys2Proof.Machine.execMonArm d a b s
  | .monRef d a b => Sys2Proof.Machine.execMonRef d a b s
  | .monRd d b => Sys2Proof.Machine.execMonRd d b s
  | .monOff d b => Sys2Proof.Machine.execMonOff d b s
  | .nodePost d a b => Sys2Proof.Machine.execNodePost d a b s
  | .nodeDone d a => Sys2Proof.Machine.execNodeDone d a s
  | .frzRd d h b => Sys2Proof.Machine.execFrzRd d h b s
  | .frzWr d h b => Sys2Proof.Machine.execFrzWr d h b s
  | .frzRes d h => Sys2Proof.Machine.execFrzRes d h s
  | .frzKill d h => Sys2Proof.Machine.execFrzKill d h s
  | .frzArr d h b => Sys2Proof.Machine.execFrzArr d h b s
  | .frzEsc d h => Sys2Proof.Machine.execFrzEsc d h s
  | .sel d p a b => Sys2Proof.Machine.execSel d p a b s
  | .addi d a imm => Sys2Proof.Machine.execAddi d a imm s
  | .andi d a imm => Sys2Proof.Machine.execAndi d a imm s
  | .ori d a imm => Sys2Proof.Machine.execOri d a imm s
  | .xori d a imm => Sys2Proof.Machine.execXori d a imm s
  | .shli d a n => Sys2Proof.Machine.execShli d a n s
  | .shri d a n => Sys2Proof.Machine.execShri d a n s
  | .sari d a n => Sys2Proof.Machine.execSari d a n s
  | .muli d a imm => Sys2Proof.Machine.execMuli d a imm s
  | .lui d imm => Sys2Proof.Machine.execLui d imm s
  | .cmpiEq p a imm => Sys2Proof.Machine.execCmpiEq p a imm s
  | .cmpiNe p a imm => Sys2Proof.Machine.execCmpiNe p a imm s
  | .cmpiLt p a imm => Sys2Proof.Machine.execCmpiLt p a imm s
  | .cmpiLe p a imm => Sys2Proof.Machine.execCmpiLe p a imm s
  | .cmpiLtu p a imm => Sys2Proof.Machine.execCmpiLtu p a imm s
  | .cmpiLeu p a imm => Sys2Proof.Machine.execCmpiLeu p a imm s
  | .addpc d imm => Sys2Proof.Machine.execAddpc d imm s
  | .pbr t disp => Sys2Proof.Machine.execPbr t disp s
  | .pbrr t a imm => Sys2Proof.Machine.execPbrr t a imm s
  | .ldB d a cls off => Sys2Proof.Machine.execLdB d a cls off s
  | .ldH d a cls off => Sys2Proof.Machine.execLdH d a cls off s
  | .ldW d a cls off => Sys2Proof.Machine.execLdW d a cls off s
  | .ldD d a cls off => Sys2Proof.Machine.execLdD d a cls off s
  | .lduB d a cls off => Sys2Proof.Machine.execLduB d a cls off s
  | .lduH d a cls off => Sys2Proof.Machine.execLduH d a cls off s
  | .lduW d a cls off => Sys2Proof.Machine.execLduW d a cls off s
  | .stB d a cls off => Sys2Proof.Machine.execStB d a cls off s
  | .stH d a cls off => Sys2Proof.Machine.execStH d a cls off s
  | .stW d a cls off => Sys2Proof.Machine.execStW d a cls off s
  | .stD d a cls off => Sys2Proof.Machine.execStD d a cls off s
  | .fldW d a cls ord nr => Sys2Proof.Machine.execFldW d a cls ord nr s
  | .fldD d a cls ord nr => Sys2Proof.Machine.execFldD d a cls ord nr s
  | .fstW d a cls ord => Sys2Proof.Machine.execFstW d a cls ord s
  | .fstD d a cls ord => Sys2Proof.Machine.execFstD d a cls ord s
  | .famoW d a cls ord op => Sys2Proof.Machine.execFamoW d a cls ord op s
  | .famoD d a cls ord op => Sys2Proof.Machine.execFamoD d a cls ord op s
  | .fenceC mask => Sys2Proof.Machine.execFenceC mask s
  | .fenceS sc => Sys2Proof.Machine.execFenceS sc s
  | .enq st off one => Sys2Proof.Machine.execEnq st off one s
  | .fork a mask => Sys2Proof.Machine.execFork a mask s
  | .srr d n => Sys2Proof.Machine.execSrr d n s
  | .srw n a => Sys2Proof.Machine.execSrw n a s
  | .trap code => Sys2Proof.Machine.execTrap code s
  | .vnop => Sys2Proof.Machine.execVnop s
  | .vadd ty wb d a b => Sys2Proof.Machine.execVadd ty wb d a b s
  | .vsub ty wb d a b => Sys2Proof.Machine.execVsub ty wb d a b s
  | .vmul ty wb d a b => Sys2Proof.Machine.execVmul ty wb d a b s
  | .vmin ty wb d a b => Sys2Proof.Machine.execVmin ty wb d a b s
  | .vmax ty wb d a b => Sys2Proof.Machine.execVmax ty wb d a b s
  | .vabs ty wb d a => Sys2Proof.Machine.execVabs ty wb d a s
  | .vneg ty wb d a => Sys2Proof.Machine.execVneg ty wb d a s
  | .vcpsgn ty wb d a b => Sys2Proof.Machine.execVcpsgn ty wb d a b s
  | .vrint ty wb d a => Sys2Proof.Machine.execVrint ty wb d a s
  | .vdiv ty wb d a b => Sys2Proof.Machine.execVdiv ty wb d a b s
  | .vsqrt ty wb d a => Sys2Proof.Machine.execVsqrt ty wb d a s
  | .vrcp ty wb d a => Sys2Proof.Machine.execVrcp ty wb d a s
  | .vrsq ty wb d a => Sys2Proof.Machine.execVrsq ty wb d a s
  | .vexp2 ty wb d a => Sys2Proof.Machine.execVexp2 ty wb d a s
  | .vlog2 ty wb d a => Sys2Proof.Machine.execVlog2 ty wb d a s
  | .vtanh ty wb d a => Sys2Proof.Machine.execVtanh ty wb d a s
  | .vaddI32 wb d a b => Sys2Proof.Machine.execVaddI32 wb d a b s
  | .vsubI32 wb d a b => Sys2Proof.Machine.execVsubI32 wb d a b s
  | .vmulI32 wb d a b => Sys2Proof.Machine.execVmulI32 wb d a b s
  | .vminI32 wb d a b => Sys2Proof.Machine.execVminI32 wb d a b s
  | .vmaxI32 wb d a b => Sys2Proof.Machine.execVmaxI32 wb d a b s
  | .vabsI32 wb d a => Sys2Proof.Machine.execVabsI32 wb d a s
  | .vnegI32 wb d a => Sys2Proof.Machine.execVnegI32 wb d a s
  | .vmulh wb d a b => Sys2Proof.Machine.execVmulh wb d a b s
  | .vand wb d a b => Sys2Proof.Machine.execVand wb d a b s
  | .vor wb d a b => Sys2Proof.Machine.execVor wb d a b s
  | .vxor wb d a b => Sys2Proof.Machine.execVxor wb d a b s
  | .vandn wb d a b => Sys2Proof.Machine.execVandn wb d a b s
  | .vshl wb d a b => Sys2Proof.Machine.execVshl wb d a b s
  | .vshr wb d a b => Sys2Proof.Machine.execVshr wb d a b s
  | .vsar wb d a b => Sys2Proof.Machine.execVsar wb d a b s
  | .vminu wb d a b => Sys2Proof.Machine.execVminu wb d a b s
  | .vmaxu wb d a b => Sys2Proof.Machine.execVmaxu wb d a b s
  | .vadds wb d a b => Sys2Proof.Machine.execVadds wb d a b s
  | .vsubs wb d a b => Sys2Proof.Machine.execVsubs wb d a b s
  | .vclz wb d a => Sys2Proof.Machine.execVclz wb d a s
  | .vpopc wb d a => Sys2Proof.Machine.execVpopc wb d a s
  | .vmulhu wb d a b => Sys2Proof.Machine.execVmulhu wb d a b s
  | .vrsum ty wb d a b => Sys2Proof.Machine.execVrsum ty wb d a b s
  | .vrmax ty wb d a b => Sys2Proof.Machine.execVrmax ty wb d a b s
  | .vrmin ty wb d a b => Sys2Proof.Machine.execVrmin ty wb d a b s
  | .vscan ty wb d a b => Sys2Proof.Machine.execVscan ty wb d a b s
  | .vscmx ty wb d a b => Sys2Proof.Machine.execVscmx ty wb d a b s
  | .vperm ty wb d a b => Sys2Proof.Machine.execVperm ty wb d a b s
  | .vbcast ty wb d a n => Sys2Proof.Machine.execVbcast ty wb d a n s
  | .vrot ty wb d a n => Sys2Proof.Machine.execVrot ty wb d a n s
  | .vzip ty wb d a b => Sys2Proof.Machine.execVzip ty wb d a b s
  | .vunzip ty wb d a b => Sys2Proof.Machine.execVunzip ty wb d a b s
  | .vmov wb d a => Sys2Proof.Machine.execVmov wb d a s
  | .vfmaF32 wb d a b c => Sys2Proof.Machine.execVfmaF32 wb d a b c s
  | .vfmaBf16 wb d a b c => Sys2Proof.Machine.execVfmaBf16 wb d a b c s
  | .vfmaF16 wb d a b c => Sys2Proof.Machine.execVfmaF16 wb d a b c s
  | .vfmsF32 wb d a b c => Sys2Proof.Machine.execVfmsF32 wb d a b c s
  | .vfmsBf16 wb d a b c => Sys2Proof.Machine.execVfmsBf16 wb d a b c s
  | .vfmsF16 wb d a b c => Sys2Proof.Machine.execVfmsF16 wb d a b c s
  | .vfnmaF32 wb d a b c => Sys2Proof.Machine.execVfnmaF32 wb d a b c s
  | .vfnmaBf16 wb d a b c => Sys2Proof.Machine.execVfnmaBf16 wb d a b c s
  | .vfnmaF16 wb d a b c => Sys2Proof.Machine.execVfnmaF16 wb d a b c s
  | .vfnmsF32 wb d a b c => Sys2Proof.Machine.execVfnmsF32 wb d a b c s
  | .vfnmsBf16 wb d a b c => Sys2Proof.Machine.execVfnmsBf16 wb d a b c s
  | .vfnmsF16 wb d a b c => Sys2Proof.Machine.execVfnmsF16 wb d a b c s
  | .vsacc wb d a b c => Sys2Proof.Machine.execVsacc wb d a b c s
  | .vsel wb d p a b => Sys2Proof.Machine.execVsel wb d p a b s
  | .vcmpEq ty p a b => Sys2Proof.Machine.execVcmpEq ty p a b s
  | .vcmpNe ty p a b => Sys2Proof.Machine.execVcmpNe ty p a b s
  | .vcmpLt ty p a b => Sys2Proof.Machine.execVcmpLt ty p a b s
  | .vcmpLe ty p a b => Sys2Proof.Machine.execVcmpLe ty p a b s
  | .vcmpGt ty p a b => Sys2Proof.Machine.execVcmpGt ty p a b s
  | .vcmpGe ty p a b => Sys2Proof.Machine.execVcmpGe ty p a b s
  | .vcmpUn ty p a b => Sys2Proof.Machine.execVcmpUn ty p a b s
  | .vcmpOr ty p a b => Sys2Proof.Machine.execVcmpOr ty p a b s
  | .vcmpLtu p a b => Sys2Proof.Machine.execVcmpLtu p a b s
  | .vcmpLeu p a b => Sys2Proof.Machine.execVcmpLeu p a b s
  | .vcmpGtu p a b => Sys2Proof.Machine.execVcmpGtu p a b s
  | .vcmpGeu p a b => Sys2Proof.Machine.execVcmpGeu p a b s
  | .vcvtBf16F32 rnd wb d a => Sys2Proof.Machine.execVcvtBf16F32 rnd wb d a s
  | .vcvtF16F32 rnd wb d a => Sys2Proof.Machine.execVcvtF16F32 rnd wb d a s
  | .vcvtF32Bf16 rnd wb d a => Sys2Proof.Machine.execVcvtF32Bf16 rnd wb d a s
  | .vcvtF32F16 rnd wb d a => Sys2Proof.Machine.execVcvtF32F16 rnd wb d a s
  | .vcvtI32F32 rnd wb d a => Sys2Proof.Machine.execVcvtI32F32 rnd wb d a s
  | .vcvtF32I32 rnd wb d a => Sys2Proof.Machine.execVcvtF32I32 rnd wb d a s
  | .vcvtBf16F16 rnd wb d a => Sys2Proof.Machine.execVcvtBf16F16 rnd wb d a s
  | .vcvtF16Bf16 rnd wb d a => Sys2Proof.Machine.execVcvtF16Bf16 rnd wb d a s
  | .vlim wb d kind imm => Sys2Proof.Machine.execVlim wb d kind imm s
  | .vunpk4 wb d a b => Sys2Proof.Machine.execVunpk4 wb d a b s
  | .vunpk8 wb d a b => Sys2Proof.Machine.execVunpk8 wb d a b s
  | .vzps wb d a b => Sys2Proof.Machine.execVzps wb d a b s
  | .vgbc ty wb d a b => Sys2Proof.Machine.execVgbc ty wb d a b s
  | .vld wb d g step cls tk => Sys2Proof.Machine.execVld wb d g step cls tk s
  | .vldh wb d g step cls tk => Sys2Proof.Machine.execVldh wb d g step cls tk s
  | .vst p v g step cls tk => Sys2Proof.Machine.execVst p v g step cls tk s
  | .vsth p v g step cls tk => Sys2Proof.Machine.execVsth p v g step cls tk s
  | .vgath d g vi cls tk => Sys2Proof.Machine.execVgath d g vi cls tk s
  | .vscat d g vi cls tk => Sys2Proof.Machine.execVscat d g vi cls tk s
  | .vrecv wb d q tk => Sys2Proof.Machine.execVrecv wb d q tk s
  | .vpass wb d a tk => Sys2Proof.Machine.execVpass wb d a tk s
  | .mnop => Sys2Proof.Machine.execMnop s
  | .mlnt g cls tk => Sys2Proof.Machine.execMlnt g cls tk s
  | .mcfg fmt grp q tk => Sys2Proof.Machine.execMcfg fmt grp q tk s
  | .mzp g tk => Sys2Proof.Machine.execMzp g tk s
  | .mgo a cls tk => Sys2Proof.Machine.execMgo a cls tk s
  | .mwait tk => Sys2Proof.Machine.execMwait tk s
  | .mclr a tk => Sys2Proof.Machine.execMclr a tk s
  | .memit g a out cls tk => Sys2Proof.Machine.execMemit g a out cls tk s
  | .mtest tk => Sys2Proof.Machine.execMtest tk s
  | .mrd wb d a row half tk => Sys2Proof.Machine.execMrd wb d a row half tk s
  | .lnop => Sys2Proof.Machine.execLnop s
  | .snop => Sys2Proof.Machine.execSnop s
  | .ldc g k nr cls tk => Sys2Proof.Machine.execLdc g k nr cls tk s
  | .ldt g k nr cls tk => Sys2Proof.Machine.execLdt g k nr cls tk s
  | .lfill g k cls tk => Sys2Proof.Machine.execLfill g k cls tk s
  | .stc g k cls tk => Sys2Proof.Machine.execStc g k cls tk s
  | .stt g k cls tk => Sys2Proof.Machine.execStt g k cls tk s
  | .sfill g k cls tk => Sys2Proof.Machine.execSfill g k cls tk s
  | .kwait mask tk => Sys2Proof.Machine.execKwait mask tk s
  | .anop => Sys2Proof.Machine.execAnop s
  | .aopen g op ty cls tk => Sys2Proof.Machine.execAopen g op ty cls tk s
  | .apush vi vv tk => Sys2Proof.Machine.execApush vi vv tk s
  | .aflush tk => Sys2Proof.Machine.execAflush tk s
  | .aclose tk => Sys2Proof.Machine.execAclose tk s
  | .fnop => Sys2Proof.Machine.execFnop s
  | .fsend a b cls tk => Sys2Proof.Machine.execFsend a b cls tk s
  | .frecv a b cls tk => Sys2Proof.Machine.execFrecv a b cls tk s
  | .fbind a b tk => Sys2Proof.Machine.execFbind a b tk s
  | .funbind tk => Sys2Proof.Machine.execFunbind tk s
  | .flowDef a cls tk => Sys2Proof.Machine.execFlowDef a cls tk s
  | .flowDel a tk => Sys2Proof.Machine.execFlowDel a tk s
  | .flowStat a b cls tk => Sys2Proof.Machine.execFlowStat a b cls tk s
  | .collLoad a b cls tk => Sys2Proof.Machine.execCollLoad a b cls tk s
  | .collRun a b cls tk => Sys2Proof.Machine.execCollRun a b cls tk s
  | .collWait a b cls tk => Sys2Proof.Machine.execCollWait a b cls tk s
  | .collAbort b tk => Sys2Proof.Machine.execCollAbort b tk s
  | .blockCall => Sys2Proof.Machine.execBlockCall s
  | .resultLanding => Sys2Proof.Machine.execResultLanding s
  | .tokenRelease => Sys2Proof.Machine.execTokenRelease s
  | .stallWatchdog => Sys2Proof.Machine.execStallWatchdog s
  | .phaseCompletion => Sys2Proof.Machine.execPhaseCompletion s
  | .farRequest => Sys2Proof.Machine.execFarRequest s
  | .farReply => Sys2Proof.Machine.execFarReply s
  | .freeze => Sys2Proof.Machine.execFreeze s
  | .nestStep => Sys2Proof.Machine.execNestStep s
  | .selfTest => Sys2Proof.Machine.execSelfTest s
  | .relayoutBlock => Sys2Proof.Machine.execRelayoutBlock s
  | .transferSlot => Sys2Proof.Machine.execTransferSlot s
  | .copyCompletion => Sys2Proof.Machine.execCopyCompletion s
  | .packetLookup => Sys2Proof.Machine.execPacketLookup s
  | .delivery => Sys2Proof.Machine.execDelivery s
  | .translationCompletion => Sys2Proof.Machine.execTranslationCompletion s
  | .atsInvalidation => Sys2Proof.Machine.execAtsInvalidation s
  | .invalidationCompletion => Sys2Proof.Machine.execInvalidationCompletion s
  | .batchTimer => Sys2Proof.Machine.execBatchTimer s
  | .prgResponse => Sys2Proof.Machine.execPrgResponse s
  | .migrationCommand => Sys2Proof.Machine.execMigrationCommand s
  | .migack => Sys2Proof.Machine.execMigack s
  | .framepush => Sys2Proof.Machine.execFramepush s
  | .ppatwr => Sys2Proof.Machine.execPpatwr s
  | .registerWrite => Sys2Proof.Machine.execRegisterWrite s
  | .beat => Sys2Proof.Machine.execBeat s
  | .chunk => Sys2Proof.Machine.execChunk s
  | .ringLimit => Sys2Proof.Machine.execRingLimit s
  | .opStart => Sys2Proof.Machine.execOpStart s
  | .opCompletion => Sys2Proof.Machine.execOpCompletion s
  | .done => Sys2Proof.Machine.execDone s
  | .abortNotice => Sys2Proof.Machine.execAbortNotice s
  | .absent => Sys2Proof.Machine.execAbsent s
  | .present => Sys2Proof.Machine.execPresent s
  | .collectiveTimeout => Sys2Proof.Machine.execCollectiveTimeout s
  | .arrive => Sys2Proof.Machine.execArrive s
  | .launchTimeout => Sys2Proof.Machine.execLaunchTimeout s
  | .fail => Sys2Proof.Machine.execFail s
  | .replicate => Sys2Proof.Machine.execReplicate s
  | .keepAlive => Sys2Proof.Machine.execKeepAlive s
  | .memberLost => Sys2Proof.Machine.execMemberLost s
  | .sync => Sys2Proof.Machine.execSync s
  | .pdelayReq => Sys2Proof.Machine.execPdelayReq s
  | .newKeyPair => Sys2Proof.Machine.execNewKeyPair s
  | .preempt => Sys2Proof.Machine.execPreempt s
  | .contextSave => Sys2Proof.Machine.execContextSave s
  | .restore => Sys2Proof.Machine.execRestore s
  | .savepush => Sys2Proof.Machine.execSavepush s
  | .drainEnd => Sys2Proof.Machine.execDrainEnd s
  | .qtail => Sys2Proof.Machine.execQtail s
  | .qctl => Sys2Proof.Machine.execQctl s
  | .launch => Sys2Proof.Machine.execLaunch s
  | .queueFence => Sys2Proof.Machine.execQueueFence s
  | .wait => Sys2Proof.Machine.execWait s
  | .launchCompletion => Sys2Proof.Machine.execLaunchCompletion s
  | .placement => Sys2Proof.Machine.execPlacement s
  | .sensorReading => Sys2Proof.Machine.execSensorReading s
  | .debugStop => Sys2Proof.Machine.execDebugStop s
  | .twordRead => Sys2Proof.Machine.execTwordRead s
  | .dbgatt => Sys2Proof.Machine.execDbgatt s
  | .dbgstop => Sys2Proof.Machine.execDbgstop s
  | .dbgres => Sys2Proof.Machine.execDbgres s
  | .dbgdataRead => Sys2Proof.Machine.execDbgdataRead s
  | .dbgdataWrite => Sys2Proof.Machine.execDbgdataWrite s
  | .moduleReset => Sys2Proof.Machine.execModuleReset s
  | .getVersion => Sys2Proof.Machine.execGetVersion s
  | .getCapabilities => Sys2Proof.Machine.execGetCapabilities s
  | .negotiateAlgorithms => Sys2Proof.Machine.execNegotiateAlgorithms s
  | .getDigests => Sys2Proof.Machine.execGetDigests s
  | .getCertificate => Sys2Proof.Machine.execGetCertificate s
  | .challenge => Sys2Proof.Machine.execChallenge s
  | .getMeasurements => Sys2Proof.Machine.execGetMeasurements s
  | .keyExchange => Sys2Proof.Machine.execKeyExchange s
  | .lockInterface => Sys2Proof.Machine.execLockInterface s
  | .startInterface => Sys2Proof.Machine.execStartInterface s
  | .stopInterface => Sys2Proof.Machine.execStopInterface s
  | .partitionCreate => Sys2Proof.Machine.execPartitionCreate s
  | .partitionDestroy => Sys2Proof.Machine.execPartitionDestroy s
  | .tileCheck => Sys2Proof.Machine.execTileCheck s
  | .temperatureLimit => Sys2Proof.Machine.execTemperatureLimit s
  | .imageLoad => Sys2Proof.Machine.execImageLoad s
  | .imageUnload => Sys2Proof.Machine.execImageUnload s
  | .rowResponse => Sys2Proof.Machine.execRowResponse s
  | .hostWindowAccess => Sys2Proof.Machine.execHostWindowAccess s
  | .flqhead => Sys2Proof.Machine.execFlqhead s
  | .rechead => Sys2Proof.Machine.execRechead s
  | .pageRequestEnable => Sys2Proof.Machine.execPageRequestEnable s
  | .portLost => Sys2Proof.Machine.execPortLost s
  | .trainingComplete => Sys2Proof.Machine.execTrainingComplete s
  | .keepAliveInterval => Sys2Proof.Machine.execKeepAliveInterval s
  | .ptpInterval => Sys2Proof.Machine.execPtpInterval s
  | .pdelayResp => Sys2Proof.Machine.execPdelayResp s

end Sys2Proof.Machine
end

