-- ==== Sys2Proof/Machine/Names.lean ====
section
/-!
DEFINITION. The registers a C word names, and the interlock of the C stream against local loads and far replies that
have yet to land (05 R119, R141).
-/
namespace Sys2Proof.Machine

/-- The registers that a FAMO reads and writes beside its address: a pair for cas (12 R321). -/
def famoRegs (op : FOp) (d : Nat) : List Nat := if op = .cas then [d / 2 * 2, d / 2 * 2 + 1] else [d]

/-- The register whose value a push of a block would read as its count (03 R66, 04 R100). -/
def countRegs (s : State) (st off : Nat) : List Nat :=
  match headerAt s s.cur st off with
  | none => []
  | some h => if hdrRep h = 0 then [hdrRg h] else []

/-- The registers that FORK reads: its offsets, and the counts of their blocks (04 R101). -/
def forkRegs (s : State) (a mask : Nat) : List Nat :=
  let bs := (upFrom 0 6).filter (bitOf mask)
  (bs.zip (upFrom 0 6)).flatMap fun p => (a + p.2) :: countRegs s (p.1 + 1) (gOf (me s) (a + p.2)).toNat

/-- The g and the p registers that a C word reads or writes (05 R119, R127-R148). -/
def named (s : State) : Instr → List Nat × List Nat
  | .enq st off one => (if one then [] else countRegs s st off, [])
  | .fork a mask => (forkRegs s a mask, [])
  | .br p _ => ([], [p])
  | .call p _ => ([62], [p])
  | .addiCompact g _ => ([g], [])
  | .add d a b => ([d, a, b], [])
  | .sub d a b => ([d, a, b], [])
  | .mul d a b => ([d, a, b], [])
  | .mulh d a b => ([d, a, b], [])
  | .mulhu d a b => ([d, a, b], [])
  | .div d a b => ([d, a, b], [])
  | .divu d a b => ([d, a, b], [])
  | .rem d a b => ([d, a, b], [])
  | .remu d a b => ([d, a, b], [])
  | .and d a b => ([d, a, b], [])
  | .or d a b => ([d, a, b], [])
  | .xor d a b => ([d, a, b], [])
  | .andn d a b => ([d, a, b], [])
  | .shl d a b => ([d, a, b], [])
  | .shr d a b => ([d, a, b], [])
  | .sar d a b => ([d, a, b], [])
  | .min d a b => ([d, a, b], [])
  | .max d a b => ([d, a, b], [])
  | .minu d a b => ([d, a, b], [])
  | .maxu d a b => ([d, a, b], [])
  | .rol d a b => ([d, a, b], [])
  | .ror d a b => ([d, a, b], [])
  | .clz d a => ([d, a], [])
  | .popc d a => ([d, a], [])
  | .sextw d a => ([d, a], [])
  | .zextw d a => ([d, a], [])
  | .cmpEq p a b => ([a, b], [p])
  | .cmpNe p a b => ([a, b], [p])
  | .cmpLt p a b => ([a, b], [p])
  | .cmpLe p a b => ([a, b], [p])
  | .cmpLtu p a b => ([a, b], [p])
  | .cmpLeu p a b => ([a, b], [p])
  | .pand d a b => ([], [d, a, b])
  | .por d a b => ([], [d, a, b])
  | .pxor d a b => ([], [d, a, b])
  | .pandn d a b => ([], [d, a, b])
  | .pnot d a => ([], [d, a])
  | .tagLook d a => ([d, a], [])
  | .tagSet d a b => ([d, a, b], [])
  | .tagClr d a => ([d, a], [])
  | .tagClrAll d => ([d], [])
  | .hndDef d a b => ([d, a, b], [])
  | .hndRelay d a b => ([d, a, b], [])
  | .hndQry d a _ => ([d, a], [])
  | .hndDrop d a => ([d, a], [])
  | .pageReq d a b => ([d, a, b], [])
  | .migrate d a b => ([d, a, b], [])
  | .monArm d a b => ([d, a, b], [])
  | .monRef d a b => ([d, a, b], [])
  | .monRd d b => ([d, b], [])
  | .monOff d b => ([d, b], [])
  | .nodePost d a b => ([d, a, b], [])
  | .nodeDone d a => ([d, a], [])
  | .frzRd d _ b => ([d, b], [])
  | .frzWr d _ b => ([d, b], [])
  | .frzRes d _ => ([d], [])
  | .frzKill d _ => ([d], [])
  | .frzArr d _ b => ([d, b], [])
  | .frzEsc d _ => ([d], [])
  | .sel d p a b => ([d, a, b], [p])
  | .addi d a _ => ([d, a], [])
  | .andi d a _ => ([d, a], [])
  | .ori d a _ => ([d, a], [])
  | .xori d a _ => ([d, a], [])
  | .shli d a _ => ([d, a], [])
  | .shri d a _ => ([d, a], [])
  | .sari d a _ => ([d, a], [])
  | .muli d a _ => ([d, a], [])
  | .lui d _ => ([d], [])
  | .cmpiEq p a _ => ([a], [p])
  | .cmpiNe p a _ => ([a], [p])
  | .cmpiLt p a _ => ([a], [p])
  | .cmpiLe p a _ => ([a], [p])
  | .cmpiLtu p a _ => ([a], [p])
  | .cmpiLeu p a _ => ([a], [p])
  | .addpc d _ => ([d], [])
  | .pbrr _ a _ => ([a], [])
  | .ldB d a _ _ => ([d, a], [])
  | .ldH d a _ _ => ([d, a], [])
  | .ldW d a _ _ => ([d, a], [])
  | .ldD d a _ _ => ([d, a], [])
  | .lduB d a _ _ => ([d, a], [])
  | .lduH d a _ _ => ([d, a], [])
  | .lduW d a _ _ => ([d, a], [])
  | .stB d a _ _ => ([d, a], [])
  | .stH d a _ _ => ([d, a], [])
  | .stW d a _ _ => ([d, a], [])
  | .stD d a _ _ => ([d, a], [])
  | .fldW d a _ _ nr => ([d, a], [nr])
  | .fldD d a _ _ nr => ([d, a], [nr])
  | .fstW d a _ _ => ([d, a], [])
  | .fstD d a _ _ => ([d, a], [])
  | .famoW d a _ _ op => (a :: famoRegs op d, [])
  | .famoD d a _ _ op => (a :: famoRegs op d, [])
  | .srr d _ => ([d], [])
  | .srw _ a => ([a], [])
  | _ => ([], [])

/-- Whether a C word is illegal in the kind of context it stands in, whatever its operands: a word that a tiller lacks
the state for (04 R93), or a FRZ word in an application context (03 R90). -/
def wrongPlace (tiller : Bool) : Instr → Bool
  | .enq _ _ _ => tiller
  | .fork _ _ => tiller
  | .join _ => tiller
  | .give _ => tiller
  | .take _ => tiller
  | .tagLook _ _ => tiller
  | .tagSet _ _ _ => tiller
  | .tagClr _ _ => tiller
  | .tagClrAll _ => tiller
  | .monArm _ _ _ => tiller
  | .monRef _ _ _ => tiller
  | .monRd _ _ => tiller
  | .monOff _ _ => tiller
  | .bar _ => tiller
  | .bara _ => tiller
  | .barw _ => tiller
  | .nodePost _ _ _ => tiller
  | .nodeDone _ _ => tiller
  | .frzRd _ _ _ => !tiller
  | .frzWr _ _ _ => !tiller
  | .frzRes _ _ => !tiller
  | .frzKill _ _ => !tiller
  | .frzArr _ _ _ => !tiller
  | .frzEsc _ _ => !tiller
  | _ => false

/-- Whether the reply of a far request of a thread has yet to write a register (12 R319, R321). -/
def pendingG (t : Thread) (n : Nat) : Bool := n != 0 && t.far.any fun r => r.kind != 1 && r.reg = n

/-- Whether the residency predicate of a far load of a thread has yet to be written (12 R319). -/
def pendingP (t : Thread) (n : Nat) : Bool := n != 0 && t.far.any fun r => r.kind = 0 && r.nr = n

/-- Whether a local load or a tag word of a thread has yet to bring its value to a register (05 R141; 08 R205). -/
def loading (now : Nat) (t : Thread) (n : Nat) : Bool := n != 0 && now < look 0 t.gReady n

/-- Whether the interlock holds a C word: it reads or writes a register that an earlier far word or local load has yet
to write (05 R119, R141; log entry 31). -/
def interlocked (i : Instr) (s : State) : Bool :=
  (named s i).1.any (fun n => pendingG (me s) n || loading s.clock.now (me s) n) || (named s i).2.any (pendingP (me s))

end Sys2Proof.Machine
end

