-- ==== Sys2Proof/Machine/Sched.lean ====
section
/-!
DEFINITION. The order of a network cycle: what lands, which words issue, what the other units do, and how time advances
(00 R6; 04 R108-R112; 08 R200; 24 R482-R485; log entry 10). One step is one of these moves.
-/
namespace Sys2Proof.Machine

/-! ## Fetching a word (03 R60-R68, R89) -/

/-- The halfwords at which an engine stream of a thread stands: to the end of its block, or for a single word to the
end of the section (03 R67, R68, R89). -/
def engHalves (s : State) (tid st : Nat) (c : Call) : List Half :=
  let l := codeFrom s tid st (c.entry.off + c.mpc)
  if c.entry.one then l else l.take (c.len - c.mpc)

/-- The halfwords at which a stream of a thread stands: the C stream at its macro PC (03 R63). -/
def halvesAt (s : State) (tid st : Nat) : List Half :=
  if st = 0 then codeFrom s tid 0 (thr s tid).c.pc.toNat
  else match (engOf (thr s tid) st).call with
    | some c => engHalves s tid st c
    | none => []

/-- The state with the word of a stream of a thread at issue. -/
def focus (tid st : Nat) (s : State) : State := { s with cur := tid, strm := st }

/-- The word at which a stream of a thread stands runs; one that does not decode is illegal (03 R88, R89). -/
def runWord (tid st : Nat) (s : State) : Out :=
  match decodeAt (Stream.ofCode st) (halvesAt s tid st) with
  | .error r => illegalAt r (focus tid st s)
  | .ok (i, _) => exec i (focus tid st s)

/-! ## Who may issue -/

/-- The events' state: its arguments in place. -/
def withArg (a b c : Nat) (s : State) : State := { s with arg := { a := a, b := b, c := c } }

/-- Whether the word of a stream that ran from `s` to `s1` raised a fault and stands where it stood: its stream issues
nothing more (19 R416, R418). -/
def faulted (s s1 : State) (tid st : Nat) : Bool :=
  (((thr s1 tid).frz.map fun z => z.stops.contains st).getD false) && posWord (thr s tid) st == posWord (thr s1 tid) st

/-- The word of a stream reaches issue: a breakpoint stops it before, unless it faults, and otherwise it runs
(24 R490, R491, R496). -/
def reachIssue (tid st : Nat) (s : State) : Out :=
  if !(breaks s tid st) then runWord tid st s
  else match runWord tid st s with
    | .next s1 => if faulted s s1 tid st then .next s1 else exec .debugStop (withArg tid (st + 1) 0 s)
    | _ => exec .debugStop (withArg tid (st + 1) 0 s)

/-! ## Engine queues (04 R108-R110; 24 R483) -/

/-- The flag on which a head entry waits that an engine has not taken: the FIFO from which its first word pops
(04 R109, 24 R484). -/
def entryFlag (s : State) (tid st : Nat) (q : QEntry) : Option Nat :=
  if (callFault s tid st q).isSome || q.cnt = 0 || firstPops s tid st q then none
  else match decodeAt (Stream.ofCode st) (firstHalves s tid st q) with
    | .error _ => none
    | .ok (i, _) => (tokOf i).map fun tk => tk.chan * 7 + st

/-- The class of an engine head that its engine does not serve (24 R483). -/
def restClass (s : State) (tid st : Nat) : Head :=
  let e := engOf (thr s tid) st
  match e.call, e.queue with
  | some _, _ => .busy
  | none, [] => .empty
  | none, q :: _ => match entryFlag s tid st q with
    | some n => .flag n
    | none => .busy

/-- A tile's engine is free of a thread whose cut has come: a frozen block is at a block boundary (19 R420). -/
def leaveStopped (tl st : Nat) (s : State) : State :=
  match (look ({} : EngArb) (tile s tl).eng st).owner with
  | some c => if canIssue s (tl * 6 + c) st then s else freeEngine (tl * 6 + c) st s
  | none => s

/-- The heads of a stream of a tile's threads that its engine does not serve are classified (24 R483). -/
def classifyHeads (tl st : Nat) (s : State) : State :=
  let own := (look ({} : EngArb) (tile s tl).eng st).owner
  (upFrom 0 4).foldl (fun s c =>
    if own = some c then s else setHead (tl * 6 + c) st (restClass s (tl * 6 + c) st) s) s

/-- The state after the saved results of a stream that have no cycles left land, before the first word of the call that
goes on reads them (19 R420). `fuel` bounds them. -/
def landSaved (tid st : Nat) : Nat → State → State
  | 0, s => s
  | fuel + 1, s =>
    match placeOf (fun (r : InFlight) => r.stream = st && landsNow (thr s tid) (cycle s) r) 0 (thr s tid).fly with
    | some i => match exec .resultLanding (withArg tid i 0 s) with
      | .next s1 => landSaved tid st fuel s1
      | _ => s
    | none => s

/-- A tile's engine takes the next ready block call. One whose count is 0, and one that faults at its header, take no
cycle of the engine, which goes on to the next thread at once (03 R66; 04 R108, R109, R111). `fuel` bounds such calls. -/
def takeCalls (tl st : Nat) : Nat → State → Out
  | 0, s => .next s
  | fuel + 1, s =>
    if (look ({} : EngArb) (tile s tl).eng st).owner.isSome then .next s
    else match nextServed s tl st with
      | none => .next s
      | some c => match exec .blockCall (withArg (tl * 6 + c) st 0 s) with
        | .next s1 => takeCalls tl st fuel (landSaved (tl * 6 + c) st (thr s1 (tl * 6 + c)).fly.length s1)
        | x => x

/-- The turn of a tile's engine at a block boundary: it takes the next ready block call (04 R108, R109; 19 R420). The
four queues hold at most 128 entries, each of which can be taken once in a turn, beside four faults. -/
def blockSlot (tl st : Nat) (s : State) : Out := takeCalls tl st 132 (classifyHeads tl st (leaveStopped tl st s))

/-- The turn of a tile's engine: the word of the call that it serves reaches issue. -/
def wordSlot (tl st : Nat) (s : State) : Out :=
  match (look ({} : EngArb) (tile s tl).eng st).owner with
  | some c => if canIssue s (tl * 6 + c) st then reachIssue (tl * 6 + c) st s else .next s
  | none => .next s

/-- Whether a stream of a thread stands in a block call that its engine serves. -/
def inCall (s : State) (tid st : Nat) : Bool :=
  let e := engOf (thr s tid) st
  e.call.isSome && !e.back

/-- The turn of an L or S queue of a thread at a block boundary (04 R110). -/
def blockSlotQ (tid st : Nat) (s : State) : Out :=
  if inCall s tid st then .next s
  else
    let s1 := setHead tid st (restClass s tid st) s
    if canIssue s1 tid st && callReady s1 tid st then exec .blockCall (withArg tid st 0 s1) else .next s1

/-- The turn of an L or S queue of a thread: the word of its call reaches issue. -/
def wordSlotQ (tid st : Nat) (s : State) : Out :=
  if canIssue s tid st && inCall s tid st then reachIssue tid st s else .next s

/-! ## The copy streamer (04 R110) -/

/-- The head copy of a queue: the oldest that has not issued all its slots and has not stopped at its own fault (04 R110;
11 R282). -/
def headCopy (s : State) (key : Nat) : Option (Nat × Nat) :=
  let tid := key / 12 * 6 + key % 12 / 2
  (placeOf (fun (c : Copy) => c.stream = 3 + key % 2 && !c.issued && !c.stopped) 0 (thr s tid).copies).map fun i => (tid, i)

/-- The state after the head copy of a queue moves a slot, if it can. -/
def moveSlot (s : State) (key : Nat) : Option State :=
  match headCopy s key with
  | none => none
  | some (tid, i) =>
    match exec .transferSlot (withArg tid i 0 s) with
    | .next s1 => some s1
    | _ => none

/-- The queues of a quad with copies in flight, in the order of their keys. -/
def quadQueues (s : State) (q : Nat) : List Nat :=
  (s.threads.filter fun e => quadOf (tileOf e.1) = q && !e.2.copies.isEmpty).flatMap fun e =>
    [tileOf e.1 * 12 + ctxOf e.1 * 2, tileOf e.1 * 12 + ctxOf e.1 * 2 + 1]

/-- The weight of a queue: ldw of its team for loads, stw for stores (02 R52, 04 R110). -/
def queueWeight (s : State) (key : Nat) : Nat :=
  let id := (thr s (key / 12 * 6 + key % 12 / 2)).id
  if key % 2 = 0 then id.ldw else id.stw

/-- The turn of a quad's copy streamer: one transfer slot, of the queue in turn while it has slots left, or of the next
queue with a ready head copy (04 R110). After reset the rotation starts after the queue of key 0 (DESIGN CHOICE, log
entry 13). -/
def streamerSlot (q : Nat) (s : State) : Out :=
  let x := look ({} : Streamer) s.quads q
  let stay := if x.left = 0 then none else (moveSlot s x.last).map fun s1 => (s1, x.last, x.left - 1)
  let ks := quadQueues s q
  let order := (ks.filter fun k => x.last < k) ++ (ks.filter fun k => k ≤ x.last)
  let move := stay.orElse fun _ => order.findSome? fun k => (moveSlot s k).map fun s1 => (s1, k, queueWeight s k - 1)
  match move with
  | some (s1, k, n) => .next { s1 with quads := put q { left := n, last := k } s1.quads }
  | none => .next (if x.left = 0 then s else { s with quads := put q { left := 0, last := x.last } s.quads })

/-! ## The control core (04 R109; 05 R119, R144; 17 R383) -/

/-- Whether a YIELD keeps a context out of arbitration (05 R144). -/
def yielding (s : State) (tid : Nat) : Bool :=
  match (thr s tid).yieldTo with
  | none => false
  | some (lim, others) => s.clock.now < lim && !(others.all fun o =>
      let u := tileOf tid * 6 + o.1
      !(occupied s u) || (thr s u).cn != o.2)

/-- Whether a context's next C word is held back before it reaches issue: by a YIELD, by a far access that a peer may
refuse, by a MON.ARM that scans, or by the interlock, which holds no word that is illegal where it stands (03 R88; 05 R119, R144; 17 R383; 21 R458). -/
def heldC (s : State) (tid : Nat) : Bool :=
  yielding s tid || peerWait (thr s tid) || armUnderWay s tid || match decodeAt .C (halvesAt s tid 0) with
    | .ok (i, _) => !(wrongPlace (isTiller tid) i) && interlocked i (focus tid 0 s)
    | .error _ => false

/-- Whether a context's C head could issue in this network cycle, were it served (04 R109, 05 R144). -/
def ableC (s : State) (tid : Nat) : Bool :=
  canIssue s tid 0 && !(heldC s tid) && match runWord tid 0 s with
    | .next s1 => !(occupied s1 tid) || look (.empty : Head) (thr s1 tid).heads 0 == .issuing
    | _ => false

/-- The state in which a C word reaches issue: where it is a YIELD, the other contexts of its tile that are ready are
named (05 R144). -/
def readyFor (tid : Nat) (s : State) : State :=
  match decodeAt .C (halvesAt s tid 0) with
  | .ok (.yield, _) =>
    { s with ready := ((upFrom 0 6).map fun c => tileOf tid * 6 + c).filter fun u => u != tid && ableC s u }
  | _ => s

/-- The class of a C head that the control core could not serve in this network cycle: that of its own wait, and busy
where it could have issued (24 R483). -/
def passedOver (tid : Nat) (s : State) : State :=
  match runWord tid 0 s with
  | .next s1 =>
    let h := look (.empty : Head) (thr s1 tid).heads 0
    setHead tid 0 (match h with
      | .flag n => .flag n
      | .stuck n => .stuck n
      | _ => .busy) s
  | _ => s

/-- The turn of a context at the control core: its word reaches issue where the core has issued none in this network
cycle (04 R109). -/
def ctlSlot (tl ctx : Nat) (s : State) : Out :=
  let tid := tl * 6 + ctx
  if !(canIssue s tid 0) then .next s
  else if heldC s tid then .next (setHead tid 0 .busy s)
  else if (tile s tl).coreAt = some s.clock.now then .next (passedOver tid s)
  else reachIssue tid 0 (readyFor tid s)

/-! ## The order of issue (08 R200, 04 R109) -/

/-- The numbers of a list as a sorted set. -/
def distinct (l : List Nat) : List Nat := l.foldl (fun acc x => addNat x acc) []

/-- The turns of the engines V, M and A of a tile: each at its block boundary, and then their words in their order
(08 R200). -/
def engineSlots (tl : Nat) : List Slot := [.block tl 1, .block tl 2, .block tl 5, .order tl]

/-- The word at which a tile's engine stands with its thread, if it serves one and the word decodes. -/
def servedWord (s : State) (tl st : Nat) : Option (Thread × Instr) :=
  match (look ({} : EngArb) (tile s tl).eng st).owner with
  | none => none
  | some c => match decodeAt (Stream.ofCode st) (halvesAt s (tl * 6 + c) st) with
    | .ok (i, _) => some (thr s (tl * 6 + c), i)
    | .error _ => none

/-- The element that a thread's window updates next, with its length: the first of the updates to perform, or else of its
list (08 R213). -/
def nextElem (w : Window) : Option (Nat × Nat) :=
  ((if w.doing.isEmpty then groupList 32 w.list else w.doing).head?).map fun e => (e.1, elemSize w)

/-- The updates that a window has still to perform (08 R213). -/
def updatesLeft (w : Window) : Nat := (if w.doing.isEmpty then groupList 32 w.list else w.doing).length

/-- The elements that the updates of a tile reach in this cycle (08 R213, R214). -/
def updatedNow (s : State) (tl : Nat) : List (Nat × Nat) :=
  let s1 := match wordSlot tl 5 (loneUpdates tl s) with
    | .next s1 => s1
    | _ => s
  (upFrom 0 4).filterMap fun c =>
    let w := (thr s (tl * 6 + c)).win
    if updatesLeft (thr s1 (tl * 6 + c)).win < updatesLeft w then nextElem w else none

/-- The element that a VSCAT at which a thread's V stream stands writes in this cycle (07 R192). -/
def scatterAt (t : Thread) (g vi : Nat) : Nat :=
  match (engOf t 1).call with
  | some c => if c.held then longAddr c else ((gOf t g).toNat + 4 * (lane (vOf t vi) 0).toNat) % 2 ^ 64
  | none => 0

/-- Whether an engine word of a thread writes local memory after the updates of the same network cycle: a MEMIT does, and a
VSCAT whose element one of them reaches (08 R214; 07 R190). -/
def writesLate (s : State) (tl : Nat) (t : Thread) : Instr → Bool
  | .vscat _ g vi _ _ => (updatedNow s tl).any fun e => meets e.1 e.2 (scatterAt t g vi) 4
  | .memit _ _ _ _ _ => true
  | _ => false

/-- The words of a tile's engines in their order: V, the end of a self-test, which a word of M sees (10 R247, R259), the
operand reads of the nest, M, then the updates of the
scatter-accumulate engine, and after them the words that write behind an update (08 R200, R214). -/
def wordOrder (s : State) (tl : Nat) : List Slot :=
  let late := fun st => ((servedWord s tl st).map fun w => writesLate s tl w.1 w.2).getD false
  let (early, behind) := ([1, 2] : List Nat).partition fun st => !(late st)
  ((early.filter (· = 1)).map fun st => Slot.word tl st) ++ [.nest tl] ++ ((early.filter (· = 2)).map fun st => Slot.word tl st) ++
    [.updates tl, .word tl 5] ++ behind.map fun st => Slot.word tl st

/-- The turns of the L and S queues of an application thread. -/
def queueSlots (tid : Nat) : List Slot := [3, 4].flatMap fun st => [.blockQ tid st, .wordQ tid st]

/-- The turns of the six contexts at a tile's control core, in round robin after the last one served (04 R109). -/
def coreSlots (s : State) (tl : Nat) : List Slot :=
  (upFrom 1 6).map fun k => .ctl tl (((tile s tl).coreLast + k) % 6)

/-- The turns of a network cycle, in the order of their slots of local memory. The words of V, M, A and F issue in the
first network cycle of a cycle; those of the L and S queues and of the C stream in every one (00 R6; 04 R105, R109,
R110; 08 R200; log entry 10). -/
def slotsOf (s : State) : List Slot :=
  let tids := keys s.threads
  let apps := tids.filter fun tid => !(isTiller tid)
  let tls := distinct (tids.map tileOf)
  let quads := distinct (tls.map quadOf)
  let even := s.clock.now % 2 = 0
  let goals := distinct (s.packets.filterMap fun p => match p.loc with
    | .tile tl => some tl
    | _ => none)
  (if even then tls.flatMap engineSlots else []) ++ apps.flatMap queueSlots ++
  quads.flatMap (fun q => [Slot.streamer q, .rows q]) ++
  (if even then tls.flatMap (fun tl => [Slot.block tl 6, .word tl 6]) else []) ++ goals.map Slot.deliver ++ tls.flatMap (coreSlots s)

/-- The state in a phase of its network cycle. -/
def setPhase (ph : Phase) (s : State) : State := { s with clock := { s.clock with phase := ph } }

/-- The state with more turns before those still to come. -/
def moreSlots (l : List Slot) (s : State) : State :=
  match s.clock.phase with
  | .issue rest => setPhase (.issue (l ++ rest)) s
  | _ => s

/-- An event that may happen in its turn, if it does. -/
def mayRun (i : Instr) (a b c : Nat) (s : State) : Option State :=
  match exec i (withArg a b c s) with
  | .next s1 => some s1
  | _ => none

/-- The rows whose writes a quad's copies dispatch in this network cycle, one by one (11 R274); `fuel` bounds them. -/
def writeRows (q : Nat) : Nat → State → State
  | 0, s => s
  | fuel + 1, s =>
    let next := (s.threads.filter fun e => quadOf (tileOf e.1) = q).findSome? fun e =>
      (upFrom 0 e.2.copies.length).findSome? fun i =>
        match (e.2.copies.getD i {}).resp with
        | w :: _ => if w.peers.isEmpty then mayRun .rowResponse e.1 i 0 s else none
        | [] => none
    match next with
    | some s1 => writeRows q fuel s1
    | none => s

/-- How many rows a quad's copies have still to write. -/
def rowsLeft (s : State) (q : Nat) : Nat :=
  ((s.threads.filter fun e => quadOf (tileOf e.1) = q).flatMap fun e => e.2.copies.flatMap Copy.resp).length

/-- The deliveries that a tile receives in this network cycle, one by one (12 R289); `fuel` bounds them. -/
def deliverAll (tl : Nat) : Nat → State → State
  | 0, s => s
  | fuel + 1, s =>
    match (upFrom 0 s.packets.length).findSome? fun i =>
        if (s.packets.getD i {}).loc = .tile tl then mayRun .delivery i 0 0 s else none with
    | some s1 => deliverAll tl fuel s1
    | none => s

/-- One turn. -/
def runSlot (x : Slot) (s : State) : Out :=
  match x with
  | .order tl => .next (moreSlots (wordOrder s tl) s)
  | .nest tl =>
    let s1 := (mayRun .selfTest tl 0 0 s).getD s
    .next ((mayRun .nestStep tl 0 0 s1).getD s1)
  | .updates tl => .next (loneUpdates tl s)
  | .rows q => .next (writeRows q (rowsLeft s q) s)
  | .deliver tl => .next (deliverAll tl s.packets.length s)
  | .block tl st => blockSlot tl st s
  | .word tl st => wordSlot tl st s
  | .blockQ tid st => blockSlotQ tid st s
  | .wordQ tid st => wordSlotQ tid st s
  | .ctl tl ctx => ctlSlot tl ctx s
  | .streamer q => streamerSlot q s

/-! ## What else goes on (log entry 10) -/

/-- An event with the numbers that it names. -/
abbrev Cand := Instr × Nat × Nat × Nat

/-- An event with its numbers. -/
def cand (i : Instr) (a b c : Nat) : Cand := (i, a, b, c)

/-- The events of a thread: tokens, far requests and replies, its freeze, ends of copies, a debug stop of its team and its
watchdog. -/
def threadCands (e : Nat × Thread) : List Cand :=
  let far := upFrom 0 e.2.far.length
  let cps := upFrom 0 e.2.copies.length
  List.flatten [
    (upFrom 0 7).map fun st => cand .tokenRelease e.1 st 0,
    far.map fun i => cand .farRequest e.1 i 0,
    (far.filter fun i => (e.2.far[i]?.map FarReq.done).getD false).map fun i => cand .farReply e.1 i 0,
    [cand .freeze e.1 0 0],
    cps.map fun i => cand .copyCompletion e.1 i 0,
    [cand .debugStop e.1 0 0, cand .stallWatchdog e.1 0 0]]

/-- The events of a collective: its ops' starts and completions and its timer. -/
def collCands (p : Nat) (c : Nat × Coll) : List Cand :=
  ((upFrom 0 c.2.ops.length).flatMap fun i => [cand .opStart p c.1 i, cand .opCompletion p c.1 i]) ++ [cand .collectiveTimeout p c.1 0]

/-- The events of a partition: relayouts, migrations, collectives, the keep-alives of launches that have ended here and the
end of a drain. -/
def partCands (e : Nat × Partition) : List Cand :=
  List.flatten [
    (e.2.handles.filter fun h => h.2.conv.isSome).map fun h => cand .relayoutBlock e.1 h.1 0,
    [cand .migrationCommand e.1 0 0],
    e.2.colls.flatMap (collCands e.1),
    (upFrom 0 e.2.kept.length).map fun i => cand .keepAliveInterval e.1 i 1,
    [cand .drainEnd e.1 0 0]]

/-- The events of a launch: its barrier's timeout, keep-alives, lost members and its end. -/
def launchCands (e : Nat × Launch) : List Cand :=
  match e.2.group with
  | some g => cand .launchTimeout e.1 0 0 :: cand .keepAliveInterval e.1 0 0 ::
      ((upFrom 0 g.n).map fun r => cand .memberLost e.1 r 0) ++ [cand .launchCompletion e.1 0 0]
  | none => [cand .launchCompletion e.1 0 0]

/-- The events of a launch queue: the entries from QHEAD to QTAIL, while its partition runs. -/
def queueCands (s : State) (e : Nat × Queue) : List Cand :=
  let (vf, q) := (e.1 / 8, e.1 % 8)
  if queueLive s vf && (queueOpen s vf q || !e.2.begun.isEmpty) then
    (indicesTo e.2 e.2.tail.toNat).flatMap fun i => [cand .launch vf q i, cand .queueFence vf q i, cand .wait vf q i]
  else []

/-- The events that may happen in a network cycle, in the order in which the model looks for one that does. -/
def cands (s : State) : List Cand :=
  List.flatten [
    s.threads.flatMap threadCands,
    s.teams.flatMap fun e => (upFrom 0 8).map fun b => cand .phaseCompletion e.1 b 0,
    (upFrom 0 s.packets.length).flatMap fun i => match (s.packets.getD i {}).loc with
      | .tile _ => []
      | _ => [cand .packetLookup i 0 0, cand .delivery i 0 0],
    s.parts.flatMap partCands,
    (upFrom 0 5).flatMap fun d => [cand .batchTimer d 0 0, cand .invalidationCompletion d 0 0],
    s.launches.flatMap launchCands,
    s.teams.map fun e => cand .contextSave e.1 0 0,
    s.parts.flatMap fun e => (e.2.saved.filter fun v => !v.placed.isEmpty).map fun v => cand .restore e.1 v.team 0,
    (upFrom 0 4).map fun d => cand .placement d 0 0,
    s.queues.flatMap (queueCands s),
    [cand .temperatureLimit 0 0 0, cand .ptpInterval 0 0 0],
    (keys s.hub.ports).map fun n => cand .newKeyPair n 0 0]

/-- The state after the first event of a list that happens. -/
def firstNext (s : State) : List Cand → Option State
  | [] => none
  | (i, a, b, c) :: rest =>
    match exec i (withArg a b c s) with
    | .next s1 => some s1
    | _ => firstNext s rest

/-! ## The end of a network cycle -/

/-- Whether a profiling counter with configuration `w` counts a head (24 R483-R485). -/
def counts (w ctx st : Nat) (h : Head) : Bool :=
  bitOf w 63 && (bitOf w 59 || bitsOf w 60 3 = ctx) && (bitOf w 55 || bitsOf w 56 3 = st) &&
  match h with
  | .issuing => bitOf w 51
  | .flag n => bitOf w 52 && (bitOf w 50 || bitsOf w 42 8 = n)
  | .busy => bitOf w 53
  | .stuck _ => bitOf w 53
  | .empty => bitOf w 54

/-- How many heads of a tile's live, unfrozen application threads a counter adds in this network cycle (24 R485). -/
def headsCounted (s : State) (tl w : Nat) : Nat :=
  ((upFrom 0 4).map fun ctx =>
    match find s.threads (tl * 6 + ctx) with
    | some t => if t.frz.isSome || t.dying then 0
      else ((upFrom 0 7).filter fun st => counts w ctx st (look .empty t.heads st)).length
    | none => 0).foldl (· + ·) 0

/-- The profiling counters at the end of a network cycle: an increment of the device prevails over a write of software
in the same network cycle (00 R10, 24 R485). -/
def countHeads (s : State) (tl : Nat) (p : Prof) : Prof :=
  p.cfg.foldl (fun p e =>
    let n := headsCounted s tl e.2.toNat
    let old := match find p.wrote e.1 with
      | some (at_, v) => if at_ = s.clock.now then v else look 0 p.cnt e.1
      | none => look 0 p.cnt e.1
    if n = 0 then p else { p with cnt := put0 0 e.1 (old + BitVec.ofNat 64 n) p.cnt }) p

/-- A tile at the end of a network cycle: profiling counters, the trace buffer, and the totals that a snapshot of the next
cycle takes (21 R455; 24 R485, R488). -/
def tickTile (s : State) (tl : Nat) (t : Tile) : Tile :=
  { t with
    prof := countHeads s tl t.prof
    trace := tickTrace t.trace
    mons := mapVals (fun _ (m : Monitor) => { m with acc0 := m.acc, nf0 := m.nf }) t.mons }

/-- A thread at the end of a network cycle of `half` half nanoseconds: its stall count, a YIELD that is over, and the sends
whose last flit has been read (04 R112; 05 R144; 12 R310). -/
def tickThread (half : Nat) (s : State) (tid : Nat) (t : Thread) : Thread :=
  let stalled := t.frz.isNone && !t.dying && !(isTiller tid) && t.heads.any (fun e => countsStall e.2) &&
    !(t.heads.any fun e => e.2 == .issuing)
  { retireDue 6 s.clock.now t with
    stallNs := if stalled then t.stallNs + half else t.stallNs
    yieldTo := if yielding s tid then t.yieldTo else none }

/-- The timer of a run at the end of a network cycle of `half` half nanoseconds: it stands still for tmo µs after the
completion of an op (17 R402; log entry 117). -/
def tickColl (half : Nat) (c : Coll) : Coll :=
  if c.quiet != 0 then { c with quiet := c.quiet - half }
  else if timerRuns c then { c with timerNs := c.timerNs + half }
  else c

/-- The timers of a partition's runs at the end of a network cycle of `half` half nanoseconds (17 R402). -/
def tickPart (half : Nat) (p : Partition) : Partition :=
  { p with colls := mapVals (fun _ c => tickColl half c) p.colls }

/-- Half nanoseconds by which the counter is slewed in this network cycle: at most 100 parts in a million (17 R410). -/
def slew (now : Nat) (corr : Int) : Int := if now % 10000 = 0 then corr.sign else 0

/-- The half nanoseconds that the counter advances in a network cycle: every duration in nanoseconds is counted by it
(00 R6; 17 R410). -/
def halfStep (c : Clock) (corr : Int) : Nat := (1 + slew c.now corr : Int).toNat

/-- Time at the end of a network cycle (00 R6; 17 R410; 24 R482). -/
def tickClock (c : Clock) (corr : Int) : Clock :=
  { now := c.now + 1, halfNs := c.halfNs + halfStep c corr, phase := .land }

/-- The end of a network cycle. -/
def tick (s : State) : State :=
  let half := halfStep s.clock s.hub.time.corr
  let s0 : State := scanAll (shiftAll { s with tiles := mapVals (tickTile s) s.tiles })
  let s1 : State := { s0 with
    threads := mapVals (tickThread half s0) s0.threads
    parts := mapVals (fun _ p => tickPart half p) s.parts
    clock := tickClock s.clock s.hub.time.corr
    hub := { s.hub with time := { s.hub.time with corr := s.hub.time.corr - slew s.clock.now s.hub.time.corr } } }
  let s2 := (s1.threads.filter fun e => e.2.mq.bound.isSome && !e.2.mq.result.isEmpty).foldl (fun s e => drainResult e.1 16 s) s1
  noteHealth (checkHealth (((s2.threads.filter fun e => e.2.dying).map Prod.fst).foldl (fun s tid => bury tid s) s2))

/-! ## One step -/

/-- A result that lands now, if any: an M result before a V result of one cycle (07 R173; log entry 10). -/
def landing (s : State) : Option (Nat × Nat) :=
  [2, 1].findSome? fun st => s.threads.findSome? fun e =>
    (placeOf (fun (r : InFlight) => r.stream = st && landsNow e.2 (cycle s) r) 0 e.2.fly).map fun i => (e.1, i)

/-- How many events the model looks for at most in one network cycle; the others follow in the next (log entry 10). -/
def workLimit : Nat := 65536

/-- The beginning of a network cycle: what comes from outside, then what lands, one at a time; then words issue. A word
of a stream is no input. -/
def landStep (s : State) : Out :=
  match placeOf (fun (x : Input) => x.at_ ≤ s.clock.now) 0 s.inputs with
  | some i =>
    let x := s.inputs.getD i {}
    if encodeLen x.what = 0 then exec x.what { s with inputs := dropAt i s.inputs, arg := x.arg }
    else .fault (.notEnabled "INPUT")
  | none =>
    match landing s with
    | some (tid, i) => exec .resultLanding (withArg tid i 0 s)
    | none => .next (setPhase (.issue (slotsOf s)) s)

/-- One move of the module. -/
def oneMove (s : State) : Out :=
  match s.clock.phase with
  | .land => landStep s
  | .issue [] => .next (setPhase (.work workLimit) s)
  | .issue (x :: rest) => runSlot x (setPhase (.issue rest) s)
  | .work 0 => .next (setPhase .tick s)
  | .work (n + 1) =>
    match firstNext s (cands s) with
    | some s1 => .next (setPhase (.work n) s1)
    | none => .next (setPhase .tick s)
  | .tick => .next (tick s)

/-! ## A word placed for the next step -/

/-- The halfwords of a word whose bits are numbered as the opcode table numbers them: two, the first the low one
(03 R60). -/
def tableHalves (nbits w : Nat) : List Half := [BitVec.ofNat 16 (w % 2 ^ nbits), BitVec.ofNat 16 (w % 2 ^ nbits / 65536)]

/-- The stream by whose decoder a word is read, C where none accepts it (log entry 2). -/
def tableStream (nbits w : Nat) : Nat :=
  match firstStream (tableBits nbits w) allStreams with
  | some (st, _) => st.code
  | none => 0

/-- The turn at which the word of a stream of the thread of tile 0 and context 0 reaches issue. -/
def placeSlot (st : Nat) : Slot :=
  if st = 0 then .ctl 0 0 else if st = 3 || st = 4 then .wordQ 0 st else .word 0 st

/-- The thread that a placed word runs in: whatever it holds, with the stream at the word and nothing before it. -/
def placeThread (st : Nat) (t : Thread) : Thread :=
  { t with
    id := { t.id with part := 0, image := 1 }, c := { t.c with pc := if st = 0 then 0 else t.c.pc }
    eng := if st = 0 then t.eng else put st { engOf t st with call := some { entry := { one := true } }, back := false } t.eng
    frz := none, dying := false, yieldTo := none, noMatch := [st], far := [], startAt := 0 }

/-- The state with a word in place: image 1 of partition 0 holds it at the start of its stream's section, the thread of
tile 0 and context 0 stands at it, its engine serves that thread, and its turn is next (log entry 3). -/
def placeWord (s : State) (nbits w : Nat) : State :=
  let st := tableStream nbits w
  let pt := part s 0
  { s with
    parts := put 0 { pt with images := put 1 { look ({} : Image) pt.images 1 with code := [(st, tableHalves nbits w)] } pt.images } s.parts
    threads := put 0 (placeThread st (thr s 0)) s.threads
    tiles := put 0 { tile s 0 with
      coreAt := none, mons := (tile s 0).mons.filter fun e => !(scanning e.2), eng := put st { look ({} : EngArb) (tile s 0).eng st with owner := some 0, ran := some (memberOf s 0) } (tile s 0).eng } s.tiles
    clock := { s.clock with phase := .issue [placeSlot st] } }

end Sys2Proof.Machine
end

