-- ==== Sys2Proof/Machine/Step.lean ====
section
/-!
DEFINITION. The step: one move of the module in the order of a network cycle (00 R6; log entry 10), and a word placed
where the next step fetches it.
-/
namespace Sys2Proof.Machine

/-- One step. -/
def step (s : State) : Host.Outcome State Fault Refusal := oneMove s

/-- The state with the instruction whose bits are `w`, numbered as the opcode table numbers them, placed where the next
step fetches its word (log entry 3). -/
def State.withFetchWord (s : State) (nbits w : Nat) : State := placeWord s nbits w

end Sys2Proof.Machine
end

