-- ==== Sys2Proof/Safety.lean ====
section
/-!
DEFINITION. The terms in which claims speak of the machine: an outcome that goes on, memories in their canonical form,
time, and the frames (what a word or an event leaves as it was).
-/
namespace Sys2Proof.Safety

open Sys2Proof.Machine

/-- An outcome is a next state. -/
def Goes (o : Host.Outcome State Fault Refusal) : Prop := ∃ t, o = .next t

/-- A run of any number of steps from a state goes on. -/
def Safe (s : State) : Prop := ∀ k, Goes (Host.Core.run ⟨State, Fault, Refusal, step, State.reset⟩ k s)

/-- The memories of the module and of the host are in their canonical form. -/
def MemoryCanonical (s : State) : Prop :=
  Memory.wf s.host = true ∧ Memory.wf s.hbm.mem = true ∧ ∀ n, Memory.wf (tile s n).mem = true

/-! ## Frames of one thread -/

/-- The g registers but those named. -/
def GKeep (ds : List Nat) (x y : Thread) : Prop := ∀ n, n ∉ ds → gOf y n = gOf x n

/-- The p registers but those named. -/
def PKeep (ds : List Nat) (x y : Thread) : Prop := ∀ n, n ∉ ds → pOf y n = pOf x n

/-- The t registers but those named. -/
def TKeep (ds : List Nat) (x y : Thread) : Prop := ∀ n, n ∉ ds → tOf y n = tOf x n

/-- The vector registers and latches. -/
def VKeep (x y : Thread) : Prop := (∀ n, vOf y n = vOf x n) ∧ ∀ n, bOf y n = bOf x n

/-- The accumulators. -/
def AccKeep (x y : Thread) : Prop := ∀ set i j, accOf y set i j = accOf x set i j

/-- The copy tokens but those named. -/
def KKeep (ds : List Nat) (x y : Thread) : Prop := ∀ n, n ∉ ds → kOf y n = kOf x n

/-- The special registers of a thread, its place and its recording state. -/
def SpecialKeep (x y : Thread) : Prop :=
  y.id = x.id ∧ y.sr = x.sr ∧ y.tillerOf = x.tillerOf ∧ y.capValid = x.capValid

/-- The engine queues and calls, and the token FIFOs. -/
def StreamsKeep (x y : Thread) : Prop := y.eng = x.eng ∧ y.fifo = x.fifo ∧ y.rsv = x.rsv ∧ y.cwords = x.cwords

/-- The work of the engines: results in flight, tags, scatter window, shadow, nest, copies, receive and M queues. -/
def WorkKeep (x y : Thread) : Prop :=
  y.fly = x.fly ∧ y.tags = x.tags ∧ y.win = x.win ∧ y.shadow = x.shadow ∧ y.nest = x.nest ∧ y.copies = x.copies ∧
  y.rx = x.rx ∧ y.mq = x.mq

/-- The exception registers of a thread: its freeze and record, and the faults held. -/
def FreezeKeep (x y : Thread) : Prop := y.frz = x.frz ∧ y.held = x.held ∧ y.dying = x.dying

/-- Far requests and outstanding arrivals at barriers. -/
def FarKeep (x y : Thread) : Prop := y.far = x.far ∧ y.arrivals = x.arrivals

/-! ## Frames of the module -/

/-- Every other thread. -/
def OtherThreads (s t : State) : Prop := ∀ u, u ≠ s.cur → thr t u = thr s u

/-- Every byte and every poison mark of local memory. -/
def LocalKeep (s t : State) : Prop :=
  ∀ n, (∀ a, readByte (tile t n).mem a = readByte (tile s n).mem a) ∧ (tile t n).poison = (tile s n).poison

/-- Every byte of device memory and of host memory. -/
def OuterKeep (s t : State) : Prop :=
  (∀ a, readByte t.hbm.mem a = readByte s.hbm.mem a) ∧ (∀ a, readByte t.host a = readByte s.host a)

/-- Of every tile: its array, its monitors, its counters of memory and of partitions, its translation cache and its tillers' list. -/
def TilesKeep (s t : State) : Prop :=
  ∀ n, (tile t n).arr = (tile s n).arr ∧ (tile t n).mons = (tile s n).mons ∧ (tile t n).pdrop = (tile s n).pdrop ∧
    (tile t n).uncorr = (tile s n).uncorr ∧ (tile t n).parts = (tile s n).parts ∧ (tile t n).cache = (tile s n).cache ∧
    (tile t n).pendList = (tile s n).pendList ∧ (tile t n).faults = (tile s n).faults

/-- The partitions with their tables and registers, teams, launches and queues. -/
def WorkUnits (s t : State) : Prop :=
  t.parts = s.parts ∧ t.teams = s.teams ∧ t.launches = s.launches ∧ t.queues = s.queues

/-- Dies, hub, packets, quads, sensors, security, what is sent and received, and the clock. -/
def Module (s t : State) : Prop :=
  t.dies = s.dies ∧ t.hub = s.hub ∧ t.packets = s.packets ∧ t.quads = s.quads ∧ t.sensors = s.sensors ∧ t.sec = s.sec ∧
  t.inputs = s.inputs ∧ t.out = s.out ∧ t.clock = s.clock

/-- Everything outside the thread at issue, but for the traces and arbiters of the tiles. -/
def Outside (s t : State) : Prop :=
  OtherThreads s t ∧ LocalKeep s t ∧ OuterKeep s t ∧ TilesKeep s t ∧ WorkUnits s t ∧ Module s t

/-- Everything inside the thread at issue but its registers g, p and t and its macro PC. -/
def Inside (s t : State) : Prop :=
  let x := thr s s.cur
  let y := thr t s.cur
  VKeep x y ∧ AccKeep x y ∧ KKeep [] x y ∧ SpecialKeep x y ∧ StreamsKeep x y ∧ WorkKeep x y ∧ FreezeKeep x y ∧ FarKeep x y

/-- The frame of a C word that writes only the registers named, and its macro PC. -/
def CFrame (gs ps ts : List Nat) (s t : State) : Prop :=
  GKeep gs (thr s s.cur) (thr t s.cur) ∧ PKeep ps (thr s s.cur) (thr t s.cur) ∧ TKeep ts (thr s s.cur) (thr t s.cur) ∧
  Inside s t ∧ Outside s t

/-- The macro PC of the thread at issue has moved by `n` halfwords. -/
def PcBy (n : Nat) (s t : State) : Prop := (thr t s.cur).c.pc = (thr s s.cur).c.pc + BitVec.ofNat 64 n

/-- A g register after a write: a write to g0 is discarded (03 R75). -/
def GWritten (d : Nat) (v : Word) (s t : State) : Prop := gOf (thr t s.cur) d = if d = 0 then 0 else v

/-- The poison marks and bytes of local memory outside `n` bytes from address `a` of tile `tl`. -/
def LocalOutside (tl a n : Nat) (s t : State) : Prop :=
  ∀ m x, (m = tl → x < a ∨ a + n ≤ x) → readByte (tile t m).mem x = readByte (tile s m).mem x

/-- Inside the thread at issue everything but its registers, its freeze and its held faults. -/
def InsideButFreeze (s t : State) : Prop :=
  let x := thr s s.cur
  let y := thr t s.cur
  VKeep x y ∧ AccKeep x y ∧ KKeep [] x y ∧ SpecialKeep x y ∧ StreamsKeep x y ∧ WorkKeep x y ∧ FarKeep x y

/-- The g, p and t registers of the thread at issue. -/
def RegsKeep (s t : State) : Prop :=
  GKeep [] (thr s s.cur) (thr t s.cur) ∧ PKeep [] (thr s s.cur) (thr t s.cur) ∧ TKeep [] (thr s s.cur) (thr t s.cur)

/-- The thread at issue stands where it stood: macro PC and registers. -/
def Stands (s t : State) : Prop := (thr t s.cur).c.pc = (thr s s.cur).c.pc ∧ RegsKeep s t

/-- The thread at issue has begun a freeze for a fault: its code, engine, whether it is deferred, its status word and its
address (19 R418, R424). -/
def Faulted (code engine : Nat) (defer : Bool) (lo addr : Word) (s t : State) : Prop :=
  ∃ z f, (thr t s.cur).frz = some z ∧ z.fault = some f ∧ f.code = code ∧ f.engine = engine ∧ f.defer = defer ∧ f.lo = lo ∧
    f.addr = addr ∧ z.cut = s.clock.now / 2 * 2 + 1 ∧ z.closed = false

end Sys2Proof.Safety
end

