-- ==== Sys2Proof/Certificates/Slice0/Obligations.lean ====
section
/-!
DEFINITION. The statements for the provers. Each result is written from the rule it cites; the frames are those of
Sys2Proof/Safety.lean. A word "completes" where its meaning answers a next state with its own effect.
-/
namespace Sys2Proof.Claims

open Sys2Proof.Machine Sys2Proof.Safety

/-! ## What the rules compute -/

/-- R127: the destination and the value of an arithmetic word that no divisor stops. -/
def arith (t : Thread) : Instr → Option (Nat × Word)
  | .add d a b => some (d, BitVec.ofNat 64 ((gOf t a).toNat + (gOf t b).toNat))
  | .sub d a b => some (d, BitVec.ofInt 64 ((gOf t a).toNat - (gOf t b).toNat : Int))
  | .mul d a b => some (d, BitVec.ofNat 64 ((gOf t a).toNat * (gOf t b).toNat))
  | .mulh d a b => some (d, BitVec.ofInt 64 ((gOf t a).toInt * (gOf t b).toInt / (2 ^ 64 : Nat)))
  | .mulhu d a b => some (d, BitVec.ofNat 64 ((gOf t a).toNat * (gOf t b).toNat / 2 ^ 64))
  | .min d a b => some (d, if (gOf t a).toInt < (gOf t b).toInt then gOf t a else gOf t b)
  | .max d a b => some (d, if (gOf t a).toInt < (gOf t b).toInt then gOf t b else gOf t a)
  | .minu d a b => some (d, if (gOf t a).toNat < (gOf t b).toNat then gOf t a else gOf t b)
  | .maxu d a b => some (d, if (gOf t a).toNat < (gOf t b).toNat then gOf t b else gOf t a)
  | .sextw d a => some (d, BitVec.ofInt 64 ((gOf t a).setWidth 32).toInt)
  | .zextw d a => some (d, BitVec.ofNat 64 ((gOf t a).toNat % 2 ^ 32))
  | .popc d a => some (d, BitVec.ofNat 64 ((upFrom 0 64).filter fun i => (gOf t a).getLsbD i).length)
  | _ => none

/-- R127: the destination and the value of a logic word, a shift or a rotate; the count is b[5:0]. -/
def logic (t : Thread) : Instr → Option (Nat × Word)
  | .and d a b => some (d, gOf t a &&& gOf t b)
  | .or d a b => some (d, gOf t a ||| gOf t b)
  | .xor d a b => some (d, gOf t a ^^^ gOf t b)
  | .andn d a b => some (d, gOf t a &&& ~~~gOf t b)
  | .shl d a b => some (d, BitVec.ofNat 64 ((gOf t a).toNat * 2 ^ ((gOf t b).toNat % 64)))
  | .shr d a b => some (d, BitVec.ofNat 64 ((gOf t a).toNat / 2 ^ ((gOf t b).toNat % 64)))
  | .sar d a b => some (d, BitVec.ofInt 64 ((gOf t a).toInt / (2 ^ ((gOf t b).toNat % 64) : Nat)))
  | .rol d a b => some (d, (gOf t a).rotateLeft ((gOf t b).toNat % 64))
  | .ror d a b => some (d, (gOf t a).rotateRight ((gOf t b).toNat % 64))
  | _ => none

/-- R128, R131, R132, R135: the destination and the value of an immediate word, ADDPC and SEL. -/
def immediate (t : Thread) : Instr → Option (Nat × Word)
  | .addi d a imm => some (d, BitVec.ofInt 64 ((gOf t a).toInt + imm.toInt))
  | .andi d a imm => some (d, gOf t a &&& BitVec.ofInt 64 imm.toInt)
  | .ori d a imm => some (d, gOf t a ||| BitVec.ofInt 64 imm.toInt)
  | .xori d a imm => some (d, gOf t a ^^^ BitVec.ofInt 64 imm.toInt)
  | .shli d a n => some (d, BitVec.ofNat 64 ((gOf t a).toNat * 2 ^ n))
  | .shri d a n => some (d, BitVec.ofNat 64 ((gOf t a).toNat / 2 ^ n))
  | .sari d a n => some (d, BitVec.ofInt 64 ((gOf t a).toInt / (2 ^ n : Nat)))
  | .muli d a imm => some (d, BitVec.ofInt 64 ((gOf t a).toInt * imm.toInt))
  | .lui d imm => some (d, BitVec.ofInt 64 (imm.toInt * 4096))
  | .addpc d imm => some (d, t.c.pc + BitVec.ofInt 64 imm.toInt)
  | .sel d p a b => some (d, if (pOf t p).getLsbD 0 then gOf t a else gOf t b)
  | _ => none

/-- R130: the destination, the divisor and the value of a dividing word. -/
def divide (t : Thread) : Instr → Option (Nat × Word × Word)
  | .div d a b => some (d, gOf t b, if gOf t b = 0 then BitVec.allOnes 64 else BitVec.ofInt 64 ((gOf t a).toInt.tdiv (gOf t b).toInt))
  | .divu d a b => some (d, gOf t b, if gOf t b = 0 then BitVec.allOnes 64 else BitVec.ofNat 64 ((gOf t a).toNat / (gOf t b).toNat))
  | .rem d a b => some (d, gOf t b, if gOf t b = 0 then gOf t a else BitVec.ofInt 64 ((gOf t a).toInt.tmod (gOf t b).toInt))
  | .remu d a b => some (d, gOf t b, if gOf t b = 0 then gOf t a else BitVec.ofNat 64 ((gOf t a).toNat % (gOf t b).toNat))
  | _ => none

/-- R133, R134: the predicate and the value of a compare or of predicate logic. -/
def predicate (t : Thread) : Instr → Option (Nat × Word)
  | .cmpEq p a b => some (p, if gOf t a = gOf t b then BitVec.allOnes 64 else 0)
  | .cmpNe p a b => some (p, if gOf t a = gOf t b then 0 else BitVec.allOnes 64)
  | .cmpLt p a b => some (p, if (gOf t a).toInt < (gOf t b).toInt then BitVec.allOnes 64 else 0)
  | .cmpLe p a b => some (p, if (gOf t a).toInt ≤ (gOf t b).toInt then BitVec.allOnes 64 else 0)
  | .cmpLtu p a b => some (p, if (gOf t a).toNat < (gOf t b).toNat then BitVec.allOnes 64 else 0)
  | .cmpLeu p a b => some (p, if (gOf t a).toNat ≤ (gOf t b).toNat then BitVec.allOnes 64 else 0)
  | .cmpiEq p a imm => some (p, if (gOf t a).toInt = imm.toInt then BitVec.allOnes 64 else 0)
  | .cmpiNe p a imm => some (p, if (gOf t a).toInt = imm.toInt then 0 else BitVec.allOnes 64)
  | .cmpiLt p a imm => some (p, if (gOf t a).toInt < imm.toInt then BitVec.allOnes 64 else 0)
  | .cmpiLe p a imm => some (p, if (gOf t a).toInt ≤ imm.toInt then BitVec.allOnes 64 else 0)
  | .cmpiLtu p a imm => some (p, if (gOf t a).toNat < (BitVec.ofInt 64 imm.toInt).toNat then BitVec.allOnes 64 else 0)
  | .cmpiLeu p a imm => some (p, if (gOf t a).toNat ≤ (BitVec.ofInt 64 imm.toInt).toNat then BitVec.allOnes 64 else 0)
  | .pand d a b => some (d, pOf t a &&& pOf t b)
  | .por d a b => some (d, pOf t a ||| pOf t b)
  | .pxor d a b => some (d, pOf t a ^^^ pOf t b)
  | .pandn d a b => some (d, pOf t a &&& ~~~pOf t b)
  | .pnot d a => some (d, ~~~pOf t a)
  | _ => none

/-- A C word completes with `v` in g[d], the macro PC moved by `n`, and nothing else changed. -/
def WritesG (i : Instr) (n d : Nat) (v : Word) (s : State) : Prop :=
  ∃ t, exec i s = .next t ∧ GWritten d v s t ∧ PcBy n s t ∧ CFrame [d] [] [] s t

/-! ## Branches, local accesses, the system group -/

/-- R140: the address of a local access. -/
def accessAddr (t : Thread) (a size : Nat) (off : BitVec 8) : Nat :=
  ((gOf t a).toInt + off.toInt * size) % (2 ^ 64 : Nat) |>.toNat

/-- R140: the destination, address register, class, offset, size and signedness of a local load. -/
def load : Instr → Option (Nat × Nat × Nat × BitVec 8 × Nat × Bool)
  | .ldB d a c off => some (d, a, c, off, 1, true)
  | .ldH d a c off => some (d, a, c, off, 2, true)
  | .ldW d a c off => some (d, a, c, off, 4, true)
  | .ldD d a c off => some (d, a, c, off, 8, true)
  | .lduB d a c off => some (d, a, c, off, 1, false)
  | .lduH d a c off => some (d, a, c, off, 2, false)
  | .lduW d a c off => some (d, a, c, off, 4, false)
  | _ => none

/-- R140: the data register, address register, class, offset and size of a local store. -/
def store : Instr → Option (Nat × Nat × Nat × BitVec 8 × Nat)
  | .stB d a c off => some (d, a, c, off, 1)
  | .stH d a c off => some (d, a, c, off, 2)
  | .stW d a c off => some (d, a, c, off, 4)
  | .stD d a c off => some (d, a, c, off, 8)
  | _ => none

/-- R140: the bytes from an address lie in the scratchpad or in the stacked-bank allocation of the thread. -/
def Allocated (t : Thread) (a n : Nat) : Prop :=
  (t.sr.spbase.toNat ≤ a ∧ a + n ≤ t.sr.spbase.toNat + t.sr.spsize.toNat) ∨
  (t.sr.sbbase.toNat ≤ a ∧ a + n ≤ t.sr.sbbase.toNat + t.sr.sbsize.toNat)

/-- R140: the value a load gives its register. -/
def loadedValue (sgn : Bool) (size : Nat) (bs : List Byte) : Word :=
  if sgn then (BitVec.ofNat (8 * size) (leNat bs)).signExtend 64 else BitVec.ofNat 64 (leNat bs)

/-- No far request of the thread holds back a local access of a class (R142; the order of far and local accesses of a class). -/
def Free (t : Thread) (cls : Nat) : Prop := classHeld t cls = false

/-- The words of local memory that `n` bytes from an address touch are not poisoned. -/
def Clean (t : Tile) (a n : Nat) : Prop := ∀ x, a ≤ x → x < a + n → x / 8 * 8 ∉ t.poison

/-! ## System registers, queues, tokens and barriers -/

/-- R122, R482: the value of a system register that this chapter allots, as the thread at issue reads it. -/
def special (s : State) (x : Thread) : Nat → Option Word
  | 0x002 => some x.sr.args
  | 0x004 => some x.sr.spbase
  | 0x005 => some x.sr.spsize
  | 0x006 => some x.sr.sbbase
  | 0x007 => some x.sr.sbsize
  | 0x010 => some (BitVec.ofNat 64 (s.clock.halfNs / 2))
  | 0x011 => some (BitVec.ofNat 64 (s.clock.halfNs / 2 / (part s x.id.part).cfg.tickns))
  | 0x012 => some (BitVec.ofNat 64 (part s x.id.part).cfg.tickns)
  | 0x018 => some (BitVec.ofNat 64 (part s x.id.part).cfg.hentry)
  | 0x100 => some (BitVec.ofNat 64 x.id.pasid)
  | _ => none

/-- Every engine stream but those named, and the token FIFOs. -/
def StreamsBut (sts : List Nat) (x y : Thread) : Prop :=
  (∀ st, st ∉ sts → engOf y st = engOf x st) ∧ y.fifo = x.fifo ∧ y.rsv = x.rsv ∧ y.cwords = x.cwords

/-- The frame of a C word that works on its thread's streams or tokens: registers, engine work and everything outside. -/
def StreamFrame (s t : State) : Prop :=
  let x := thr s s.cur
  let y := thr t s.cur
  RegsKeep s t ∧ VKeep x y ∧ AccKeep x y ∧ KKeep [] x y ∧ SpecialKeep x y ∧ WorkKeep x y ∧ FreezeKeep x y ∧ FarKeep x y ∧ Outside s t

/-- R96, R97: an entry has been pushed to a queue, with the count at which it was pushed. -/
def Pushed (st off : Nat) (one : Bool) (cnt : Nat) (x y : Thread) : Prop :=
  engOf y st = { engOf x st with
    queue := (engOf x st).queue ++ [{ off := off, one := one, cnt := cnt, cmd := (engOf x st).next }]
    next := (engOf x st).next + 1 }

/-- R97, R98: a queue has room: fewer than 32 entries, counting those that left in this network cycle. -/
def Room (s : State) (st : Nat) : Prop :=
  let e := engOf (thr s s.cur) st
  e.queue.length + (if e.leftAt.1 = s.clock.now + 1 then e.leftAt.2 else 0) < 32

/-- R102: a queue of the thread is empty, and every word that it issued has retired. -/
def Idle (x : Thread) (st : Nat) : Prop :=
  (engOf x st).queue = [] ∧ (engOf x st).call = none ∧ ∀ w ∈ (engOf x st).words, w.retired = true

/-- R145: all that RETIRE waits for has ended. -/
def Ended (s : State) : Prop :=
  let x := thr s s.cur
  (∀ st, 1 ≤ st → st ≤ 6 → Idle x st) ∧ (∀ e ∈ x.gReady, e.2 ≤ s.clock.now) ∧ x.far = [] ∧ x.copies = [] ∧ x.nest = none ∧
  (x.mq.bound = none ∨ (x.mq.result = [] ∧ rowsUnderWay s s.cur = false)) ∧ sendsUnder s s.cur = false ∧
  runsOpen s s.cur = false ∧ allocQuiet s s.cur = true ∧ x.win.doing = [] ∧ x.win.list = []


/-- R101: how many bits of a mask are set below bit `b`. -/
def rank (mask b : Nat) : Nat := ((upFrom 0 b).filter fun i => mask.testBit i).length


/-! ## Far words -/

/-- R317-R321: the request that a far word makes, as its operands give it. -/
def request (t : Thread) : Instr → Option FarReq
  | .fldW d a c o nr => some { kind := 0, size := 4, va := (gOf t a).toNat, reg := d, nr := nr, cls := c, ord := o }
  | .fldD d a c o nr => some { kind := 0, size := 8, va := (gOf t a).toNat, reg := d, nr := nr, cls := c, ord := o }
  | .fstW d a c o => some { kind := 1, size := 4, va := (gOf t a).toNat, b := gOf t d, cls := c, ord := o }
  | .fstD d a c o => some { kind := 1, size := 8, va := (gOf t a).toNat, b := gOf t d, cls := c, ord := o }
  | .famoW d a c o .cas => some { kind := 2, size := 4, va := (gOf t a).toNat, op := .cas, b := gOf t (d / 2 * 2), c := gOf t (d / 2 * 2 + 1), reg := d / 2 * 2, cls := c, ord := o, failAcq := d % 2 = 1 }
  | .famoD d a c o .cas => some { kind := 2, size := 8, va := (gOf t a).toNat, op := .cas, b := gOf t (d / 2 * 2), c := gOf t (d / 2 * 2 + 1), reg := d / 2 * 2, cls := c, ord := o, failAcq := d % 2 = 1 }
  | .famoW d a c o op => some { kind := 2, size := 4, va := (gOf t a).toNat, op := op, b := gOf t d, reg := d, cls := c, ord := o }
  | .famoD d a c o op => some { kind := 2, size := 8, va := (gOf t a).toNat, op := op, b := gOf t d, reg := d, cls := c, ord := o }
  | _ => none

/-- The entry of a tile's translation cache that an address of the thread at issue meets. -/
def CacheHit (s : State) (va : Nat) (e : XEntry) : Prop :=
  (tile s (tileOf s.cur)).cache.find? (covering (thr s s.cur).id.pasid va) = some e ∧ e.refused = false

/-- What lets a far word issue: no acquire outstanding, fewer than 64 requests, no recording, and for a release every
request performed (12 R317, 14 R334, 24 R493). -/
def FarFree (s : State) (ord : Order) : Prop :=
  acquiring (thr s s.cur) = false ∧ (thr s s.cur).far.length < 64 ∧ (thr s s.cur).replay.mode = 0 ∧
  (releaseScope ord ≠ none → ∀ q ∈ (thr s s.cur).far, q.done = true)

/-- The frame of a far word: everything but its thread's requests, its C words in flight, and the caches of translations. -/
def FarFrame (s t : State) : Prop :=
  let x := thr s s.cur
  let y := thr t s.cur
  RegsKeep s t ∧ VKeep x y ∧ AccKeep x y ∧ KKeep [] x y ∧ SpecialKeep x y ∧ y.eng = x.eng ∧ y.fifo = x.fifo ∧ y.rsv = x.rsv ∧
  WorkKeep x y ∧ FreezeKeep x y ∧ y.arrivals = x.arrivals ∧ OtherThreads s t ∧ LocalKeep s t ∧ OuterKeep s t ∧ WorkUnits s t ∧
  Module s t ∧ ∀ n, (tile t n).arr = (tile s n).arr ∧ (tile t n).mons = (tile s n).mons

/-- The request as it stands after its word has issued. -/
def listed (s : State) (r : FarReq) : FarReq :=
  { r with pc := (thr s s.cur).c.pc, wid := (thr s s.cur).kn, nc := s.clock.now }

/-- R317: the operations of FAMO that the host link carries. -/
def carried : FOp → Bool
  | .add => true
  | .swap => true
  | .cas => true
  | _ => false

/-- R321: the value that a FAMO stores, from the old value and its operands, in `n` bits. -/
def stored (op : FOp) (n : Nat) (old b c : BitVec n) : BitVec n :=
  match op with
  | .add => old + b
  | .swap => b
  | .cas => if old = b then c else old
  | .band => old &&& b
  | .bor => old ||| b
  | .bxor => old ^^^ b
  | .min => if old.toInt < b.toInt then old else b
  | .max => if b.toInt < old.toInt then old else b

/-- A request of a thread to a home that nothing holds back: no request of the thread stands before it, and none of any thread
entered the channel before it. -/
def Foremost (s : State) (tid i : Nat) (r : FarReq) (h : Home) : Prop :=
  (thr s tid).far[i]? = some r ∧ occupied s tid = true ∧ r.done = false ∧ r.sent = false ∧ r.held = 0 ∧
  r.home = some h ∧ (r.size = 4 ∨ r.size = 8) ∧ (∀ e ∈ (thr s tid).far.take i, e.done = true) ∧
  ∀ u f, f ∈ (thr s u).far → f.done = true ∨ r.nc ≤ f.nc

/-- A place in host memory or in HBM. -/
def place (host : Bool) (a : Nat) : Home := if host then .host a else .hbm a

/-- A byte of host memory or of HBM. -/
def outer (s : State) (host : Bool) (x : Nat) : Byte := readByte (if host then s.host else s.hbm.mem) x

/-- The little-endian number in `n` bytes of host memory or of HBM. -/
def outerNumber (s : State) (host : Bool) (a n : Nat) : Nat := leNat ((upFrom 0 n).map fun k => outer s host (a + k))

/-- Host memory or HBM after a store of `n` bytes: those of the number, and every other byte of both as before. -/
def OuterStored (host : Bool) (a n v : Nat) (s t : State) : Prop :=
  (∀ k, k < n → outer t host (a + k) = BitVec.ofNat 8 (v / 256 ^ k)) ∧
  ∀ b x, (b = host → x < a ∨ a + n ≤ x) → outer t b x = outer s b x

/-- Everything but the far requests of a thread, host memory, HBM with its partition's counters, and what is remembered of
them. -/
def PerformFrame (tid : Nat) (s t : State) : Prop :=
  (∀ u, u ≠ tid → thr t u = thr s u) ∧ (∀ n, gOf (thr t tid) n = gOf (thr s tid) n) ∧ (∀ n, pOf (thr t tid) n = pOf (thr s tid) n) ∧
  (thr t tid).c.pc = (thr s tid).c.pc ∧ LocalKeep s t ∧ TilesKeep s t ∧ t.teams = s.teams ∧ t.launches = s.launches ∧
  t.queues = s.queues ∧ (∀ p, part t p = { part s p with stats := (part t p).stats }) ∧ Module s t

/-! ## Tags, handles, pages, monitors, nodes -/

/-- R206: a status below zero as it is written to a g register. -/
def status (n : Nat) : Word := BitVec.ofInt 64 (-(n : Int))

/-- The frame of a tag word: everything but g[d] and the tag table. -/
def TagFrame (d : Nat) (s t : State) : Prop :=
  let x := thr s s.cur
  let y := thr t s.cur
  GKeep [d] x y ∧ PKeep [] x y ∧ TKeep [] x y ∧ VKeep x y ∧ AccKeep x y ∧ KKeep [] x y ∧ SpecialKeep x y ∧ StreamsKeep x y ∧
  y.fly = x.fly ∧ y.win = x.win ∧ y.shadow = x.shadow ∧ y.nest = x.nest ∧ y.copies = x.copies ∧ y.rx = x.rx ∧ y.mq = x.mq ∧
  FreezeKeep x y ∧ FarKeep x y ∧ Outside s t

/-- What a C word of class 15 with a shared result needs to go on: no far request before it, and no recording. -/
def Clear (s : State) : Prop := Free (thr s s.cur) 15 ∧ (thr s s.cur).replay.mode = 0

/-- A record of `n` bytes at an address of the thread at issue that R230 lets a word read. -/
def Readable (s : State) (a n : Nat) : Prop :=
  a % 8 = 0 ∧ Allocated (thr s s.cur) a n ∧ Clean (tile s (tileOf s.cur)) a n

/-- The bytes of local memory of the tile of the thread at issue. -/
def localBytes (s : State) (a n : Nat) : List Byte := (upFrom 0 n).map fun k => readByte (tile s (tileOf s.cur)).mem (a + k)

/-- The frame of a handle word: everything but g[d] and the handle table and generations of partition `p`. -/
def HandleFrame (d p : Nat) (s t : State) : Prop :=
  GKeep [d] (thr s s.cur) (thr t s.cur) ∧ PKeep [] (thr s s.cur) (thr t s.cur) ∧ TKeep [] (thr s s.cur) (thr t s.cur) ∧
  Inside s t ∧ OtherThreads s t ∧ LocalKeep s t ∧ OuterKeep s t ∧ TilesKeep s t ∧ Module s t ∧ t.teams = s.teams ∧
  t.launches = s.launches ∧ t.queues = s.queues ∧ (∀ q, q ≠ p → part t q = part s q) ∧
  part t p = { part s p with handles := (part t p).handles, gens := (part t p).gens }

/-- The frame of HND.RELAY: that of a handle word, but for the copy token `k`, where it names one. -/
def RelayFrame (d p k : Nat) (s t : State) : Prop :=
  let x := thr s s.cur
  let y := thr t s.cur
  GKeep [d] x y ∧ PKeep [] x y ∧ TKeep [] x y ∧ VKeep x y ∧ AccKeep x y ∧ KKeep [k] x y ∧ SpecialKeep x y ∧ StreamsKeep x y ∧
  WorkKeep x y ∧ FreezeKeep x y ∧ FarKeep x y ∧ OtherThreads s t ∧ LocalKeep s t ∧ OuterKeep s t ∧ TilesKeep s t ∧ Module s t ∧
  t.teams = s.teams ∧ t.launches = s.launches ∧ t.queues = s.queues ∧ (∀ q, q ≠ p → part t q = part s q) ∧
  part t p = { part s p with handles := (part t p).handles, gens := (part t p).gens }

/-- The frame of a node word: everything but g[d], the launches, and the pools that a ready node enters. -/
def NodeFrame (d : Nat) (s t : State) : Prop :=
  GKeep [d] (thr s s.cur) (thr t s.cur) ∧ PKeep [] (thr s s.cur) (thr t s.cur) ∧ TKeep [] (thr s s.cur) (thr t s.cur) ∧
  Inside s t ∧ OtherThreads s t ∧ LocalKeep s t ∧ OuterKeep s t ∧ TilesKeep s t ∧ t.queues = s.queues ∧ t.teams = s.teams ∧
  t.packets = s.packets ∧ t.sec = s.sec ∧ t.out = s.out ∧ t.clock = s.clock

/-- R233: the status word of a live entry. -/
def entryStatus (e : Handle) : Nat :=
  2 ^ 63 + (match e.conv with | some c => if e.failed then 0 else 2 ^ 62 + c.hrec.layout * 2 ^ 40 | none => 0) +
  (if e.failed then 2 ^ 61 else 0) + e.hrec.layout * 2 ^ 44 + e.hrec.fmt * 2 ^ 36 + e.hrec.group * 2 ^ 34 + (e.hrec.ndims - 1) * 2 ^ 32

/-- The frame of a monitor word: everything but g[d], the monitor of a number of the tile, and the progress of the word. -/
def MonFrame (d i : Nat) (s t : State) : Prop :=
  GKeep [d] (thr s s.cur) (thr t s.cur) ∧ PKeep [] (thr s s.cur) (thr t s.cur) ∧ TKeep [] (thr s s.cur) (thr t s.cur) ∧
  Inside s t ∧ OtherThreads s t ∧ LocalKeep s t ∧ OuterKeep s t ∧ WorkUnits s t ∧ Module s t ∧
  ∀ n k, (n ≠ tileOf s.cur ∨ k ≠ i) → find (tile t n).mons k = find (tile s n).mons k

/-- The frame of MON.ARM: that of a monitor word, but that its word is in flight and no register has changed. -/
def ArmFrame (i : Nat) (s t : State) : Prop :=
  let x := thr s s.cur
  let y := thr t s.cur
  RegsKeep s t ∧ VKeep x y ∧ AccKeep x y ∧ KKeep [] x y ∧ SpecialKeep x y ∧ y.eng = x.eng ∧ y.fifo = x.fifo ∧ y.rsv = x.rsv ∧
  WorkKeep x y ∧ FreezeKeep x y ∧ FarKeep x y ∧ OtherThreads s t ∧ LocalKeep s t ∧ OuterKeep s t ∧ WorkUnits s t ∧ Module s t ∧
  ∀ n k, (n ≠ tileOf s.cur ∨ k ≠ i) → find (tile t n).mons k = find (tile s n).mons k

/-- The monitor of a number that the thread at issue holds armed. -/
def Armed (s : State) (i : Nat) (m : Monitor) : Prop :=
  find (tile s (tileOf s.cur)).mons i = some m ∧ m.owner = ctxOf s.cur

/-- A word of the tiller at issue on the thread that its capability names. -/
def Holds (s : State) (f : Nat) : Prop :=
  occupied s s.cur = true ∧ isTiller s.cur = true ∧ Free (thr s s.cur) 15 ∧ (thr s s.cur).capValid = true ∧
  (thr s s.cur).tillerOf = some f ∧ f ≠ s.cur ∧ occupied s f = true

/-- R431: the selector of an item. -/
def sel (cls idx sub : Nat) : Word := BitVec.ofNat 64 (sub * 65536 + cls * 4096 + idx)

/-- R431, R432: an item of a thread that a selector class names by index and sub. -/
def item (t : Thread) : Nat → Nat → Nat → Option Word
  | 1, i, 0 => if i < 64 then some (gOf t i) else none
  | 2, i, 0 => if i < 48 then some (pOf t i) else none
  | 3, i, 0 => if i < 4 then some (tOf t i) else none
  | 5, i, l => if i < 32 ∧ l < 64 then some ((lane (vOf t i) l).setWidth 64) else none
  | 6, i, l => if i < 8 ∧ l < 64 then some ((lane (bOf t i) l).setWidth 64) else none
  | 7, i, e => if i < 4 ∧ e < 8192 then some ((accOf t i (e / 128) (e % 128)).setWidth 64) else none
  | 8, 0, 0 => some t.c.pc
  | 9, i, 0 => if i < 49 ∧ i / 7 ≠ i % 7 then some (BitVec.ofNat 64 (fifo t (i / 7) (i % 7))) else none
  | 13, i, 0 => if i < 8 then some (match kOf t i with | .idle => 0 | .busy => 1 | .done => 2) else none
  | _, _, _ => none

/-! ## Engine words -/

/-- R67, R97, R99: how a stream goes on after a word of `n` halfwords of its call: to the next word, to the next iteration,
or past the end of the call; the entry leaves its queue with the first word of the last iteration. -/
def NextWord (n : Nat) (x y : EngStream) : Prop :=
  y.next = x.next ∧ ∀ c, x.call = some c →
    y.queue = (if c.iter + 1 = c.rep ∧ c.left = false then x.queue.tail else x.queue) ∧
    (c.mpc + n < c.len → ∃ d, y.call = some d ∧ d.mpc = c.mpc + n ∧ d.iter = c.iter ∧ d.entry = c.entry ∧ d.held = false) ∧
    (c.len ≤ c.mpc + n → c.iter + 1 ≠ c.rep → ∃ d, y.call = some d ∧ d.mpc = 2 ∧ d.iter = c.iter + 1 ∧ d.entry = c.entry ∧ d.held = false) ∧
    (c.len ≤ c.mpc + n → c.iter + 1 = c.rep → y.call = none)

/-- The frame of an engine word: it leaves its thread's registers, the other streams, the exception registers, the far
requests and everything outside as they were, and its own stream goes on by a word of `n` halfwords. -/
def EngFrame (n : Nat) (s t : State) : Prop :=
  let x := thr s s.cur
  let y := thr t s.cur
  Stands s t ∧ VKeep x y ∧ SpecialKeep x y ∧ (∀ k, k ≠ s.strm → engOf y k = engOf x k) ∧
  NextWord n (engOf x s.strm) (engOf y s.strm) ∧ FreezeKeep x y ∧ FarKeep x y ∧ OtherThreads s t ∧ OuterKeep s t ∧
  t.teams = s.teams ∧ t.launches = s.launches ∧ t.queues = s.queues ∧ t.quads = s.quads ∧ t.sec = s.sec ∧ t.clock = s.clock

/-- R103 to R107: what a word's token field does: a pop takes one token of its FIFO, a push reserves one place. -/
def Tokens (st : Nat) (tk : Tok) (x y : Thread) : Prop :=
  (∀ a b, a < 7 → b < 7 → fifo y a b = if tk.pop = true ∧ a = tk.chan ∧ b = st then fifo x a b - 1 else fifo x a b) ∧
  ∀ a b, a < 7 → b < 7 → rsvd y a b = if tk.push = true ∧ a = st ∧ b = tk.chan then rsvd x a b + 1 else rsvd x a b

/-- R105: a word's token field lets it issue: it finds the token it pops and the room it pushes into. -/
def TokenFree (s : State) (tk : Tok) : Prop :=
  tk.chan < 7 ∧ s.strm < 7 ∧ (tk.pop = true → 0 < fifo (thr s s.cur) tk.chan s.strm) ∧ (tk.push = true → noRoom (cycle s) (thr s s.cur) s.strm tk.chan = false)

/-- The accumulators, copy tokens and work of the engines of a thread but its results in flight. -/
def FlyOnly (s t : State) : Prop :=
  let x := thr s s.cur
  let y := thr t s.cur
  y.tags = x.tags ∧ y.win = x.win ∧ y.shadow = x.shadow ∧ y.nest = x.nest ∧ y.copies = x.copies ∧ y.rx = x.rx ∧ y.mq = x.mq ∧
  AccKeep x y ∧ KKeep [] x y

/-- Local memory, the tiles' arrays and monitors, and the partitions. -/
def TileMemory (s t : State) : Prop := LocalKeep s t ∧ TilesKeep s t ∧ WorkUnits s t ∧ Module s t

/-- A V word issues: its row is in flight to a unit's latch and, with wb, to a register, and lands `lat` cycles later. -/
def Flies (i : Instr) (tk : Tok) (unit lat : Nat) (wb : Bool) (d : Nat) (f : Nat → Lane) (s : State) : Prop :=
  ∃ t q, exec i s = .next t ∧ EngFrame 2 s t ∧ Tokens s.strm tk (thr s s.cur) (thr t s.cur) ∧ FlyOnly s t ∧ TileMemory s t ∧
    (thr t s.cur).fly = (thr s s.cur).fly ++ [q] ∧ q.wid = (thr s s.cur).kn ∧ q.latch = some unit ∧ q.reg = d ∧ q.wb = wb ∧
    q.pred = none ∧ q.due = s.clock.now / 2 + lat ∧ q.rel = false ∧ ∀ n, n < 64 → lane q.row n = f n

/-- The element of a source as a value of its format. -/
def elemOf (t : Thread) (ty : VTy) (a n : Nat) : FVal := classify (fmtOf ty) (srcElem t ty a n)

/-- R172, R176 to R179, R181 to R183: unit, latency, wb, destination and lanes of the words of the floating, convert and
immediate groups; each lane is formed exactly and rounded once, a transcendental of a 16-bit type twice. -/
def floating (t : Thread) : Instr → Option (Nat × Nat × Bool × Nat × (Nat → Lane))
  | .vadd ty wb d a b => some (1, 4, wb, d, fun n => BitVec.ofNat 32 (roundTo (fmtOf ty) (exactSum [elemOf t ty a n, elemOf t ty b n])))
  | .vsub ty wb d a b => some (1, 4, wb, d, fun n => BitVec.ofNat 32 (roundTo (fmtOf ty) (exactSum [elemOf t ty a n, negF (elemOf t ty b n)])))
  | .vmul ty wb d a b => some (1, 4, wb, d, fun n => BitVec.ofNat 32 (roundTo (fmtOf ty) (prod (elemOf t ty a n) (elemOf t ty b n))))
  | .vmin ty wb d a b => some (0, 1, wb, d, fun n => BitVec.ofNat 32 (roundTo (fmtOf ty) (fminmax false (elemOf t ty a n) (elemOf t ty b n))))
  | .vmax ty wb d a b => some (0, 1, wb, d, fun n => BitVec.ofNat 32 (roundTo (fmtOf ty) (fminmax true (elemOf t ty a n) (elemOf t ty b n))))
  | .vabs ty wb d a => some (0, 1, wb, d, fun n => BitVec.ofNat 32 (roundTo (fmtOf ty) (withSign false (elemOf t ty a n))))
  | .vneg ty wb d a => some (0, 1, wb, d, fun n => BitVec.ofNat 32 (roundTo (fmtOf ty) (negF (elemOf t ty a n))))
  | .vcpsgn ty wb d a b => some (0, 1, wb, d, fun n => BitVec.ofNat 32 (roundTo (fmtOf ty) (withSign (signOf (elemOf t ty b n)) (elemOf t ty a n))))
  | .vrint ty wb d a => some (5, 2, wb, d, fun n => BitVec.ofNat 32 (roundTo (fmtOf ty) (rint (elemOf t ty a n))))
  | .vdiv ty wb d a b => some (2, 8, wb, d, fun n => BitVec.ofNat 32 (roundTo (fmtOf ty) (quot (elemOf t ty a n) (elemOf t ty b n))))
  | .vsqrt ty wb d a => some (2, 8, wb, d, fun n => BitVec.ofNat 32 (roundTo (fmtOf ty) (sqroot (elemOf t ty a n))))
  | .vrcp ty wb d a => some (2, 8, wb, d, fun n => BitVec.ofNat 32 (transc recip (fmtOf ty) (srcElem t ty a n)))
  | .vrsq ty wb d a => some (2, 8, wb, d, fun n => BitVec.ofNat 32 (transc rsqrt (fmtOf ty) (srcElem t ty a n)))
  | .vexp2 ty wb d a => some (2, 8, wb, d, fun n => BitVec.ofNat 32 (transc exp2F (fmtOf ty) (srcElem t ty a n)))
  | .vlog2 ty wb d a => some (2, 8, wb, d, fun n => BitVec.ofNat 32 (transc log2F (fmtOf ty) (srcElem t ty a n)))
  | .vtanh ty wb d a => some (2, 8, wb, d, fun n => BitVec.ofNat 32 (transc tanhF (fmtOf ty) (srcElem t ty a n)))
  | .vsacc wb d a b c => some (1, 4, wb, d, fun n => BitVec.ofNat 32 (scaleAcc (src32 t c n) (src32 t a n) (srcScales t b n % 65536) (srcScales t b n / 65536)))
  | .vcvtBf16F32 r wb d a => some (5, 2, wb, d, fun n => BitVec.ofNat 32 (roundTo bf16 (elemOf t .f32 a n) r))
  | .vcvtF16F32 r wb d a => some (5, 2, wb, d, fun n => BitVec.ofNat 32 (roundTo fp16 (elemOf t .f32 a n) r))
  | .vcvtF32Bf16 _ wb d a => some (5, 2, wb, d, fun n => BitVec.ofNat 32 (roundTo fp32 (elemOf t .bf16 a n)))
  | .vcvtF32F16 _ wb d a => some (5, 2, wb, d, fun n => BitVec.ofNat 32 (roundTo fp32 (elemOf t .f16 a n)))
  | .vcvtI32F32 r wb d a => some (5, 2, wb, d, fun n => BitVec.ofNat 32 (roundInt (elemOf t .f32 a n) r))
  | .vcvtF32I32 r wb d a => some (5, 2, wb, d, fun n => BitVec.ofNat 32 (roundTo fp32 (classifyInt (src32 t a n)) r))
  | .vcvtBf16F16 r wb d a => some (5, 2, wb, d, fun n => BitVec.ofNat 32 (roundTo bf16 (elemOf t .f16 a n) r))
  | .vcvtF16Bf16 r wb d a => some (5, 2, wb, d, fun n => BitVec.ofNat 32 (roundTo fp16 (elemOf t .bf16 a n) r))
  | .vlim wb d .zx imm => some (0, 1, wb, d, fun _ => imm.zeroExtend 32)
  | .vlim wb d .sx imm => some (0, 1, wb, d, fun _ => imm.signExtend 32)
  | .vlim wb d .hi imm => some (0, 1, wb, d, fun _ => imm.zeroExtend 32 <<< 16)
  | .vlim wb d .f16 imm => some (0, 1, wb, d, fun _ => BitVec.ofNat 32 (roundTo fp32 (classify fp16 imm.toNat)))
  | _ => none

/-- R177: type, wb, operands and the signs of the product and of the addend of a fused word. -/
def fused : Instr → Option (VTy × Bool × Nat × Nat × Nat × Nat × Bool × Bool)
  | .vfmaF32 wb d a b c => some (.f32, wb, d, a, b, c, false, false)
  | .vfmaBf16 wb d a b c => some (.bf16, wb, d, a, b, c, false, false)
  | .vfmaF16 wb d a b c => some (.f16, wb, d, a, b, c, false, false)
  | .vfmsF32 wb d a b c => some (.f32, wb, d, a, b, c, false, true)
  | .vfmsBf16 wb d a b c => some (.bf16, wb, d, a, b, c, false, true)
  | .vfmsF16 wb d a b c => some (.f16, wb, d, a, b, c, false, true)
  | .vfnmaF32 wb d a b c => some (.f32, wb, d, a, b, c, true, false)
  | .vfnmaBf16 wb d a b c => some (.bf16, wb, d, a, b, c, true, false)
  | .vfnmaF16 wb d a b c => some (.f16, wb, d, a, b, c, true, false)
  | .vfnmsF32 wb d a b c => some (.f32, wb, d, a, b, c, true, true)
  | .vfnmsBf16 wb d a b c => some (.bf16, wb, d, a, b, c, true, true)
  | .vfnmsF16 wb d a b c => some (.f16, wb, d, a, b, c, true, true)
  | _ => none

/-- A value with its sign changed where a flag is set. -/
def flipIf (neg : Bool) (x : FVal) : FVal := if neg then negF x else x

/-- Lane `n` of a source as 32 bits. -/
def src (t : Thread) (a n : Nat) : BitVec 32 := BitVec.ofNat 32 (src32 t a n)

/-- An integer saturated to signed 32 bits (07 R180). -/
def sat (x : Int) : BitVec 32 := BitVec.ofInt 32 (if x < -2147483648 then -2147483648 else if 2147483647 < x then 2147483647 else x)

/-- R172, R180: unit, latency, wb, destination and lanes of the integer words. -/
def integer (t : Thread) : Instr → Option (Nat × Nat × Bool × Nat × (Nat → Lane))
  | .vaddI32 wb d a b => some (0, 1, wb, d, fun n => src t a n + src t b n)
  | .vsubI32 wb d a b => some (0, 1, wb, d, fun n => src t a n - src t b n)
  | .vmulI32 wb d a b => some (1, 4, wb, d, fun n => src t a n * src t b n)
  | .vminI32 wb d a b => some (0, 1, wb, d, fun n => if (src t a n).toInt < (src t b n).toInt then src t a n else src t b n)
  | .vmaxI32 wb d a b => some (0, 1, wb, d, fun n => if (src t a n).toInt < (src t b n).toInt then src t b n else src t a n)
  | .vabsI32 wb d a => some (0, 1, wb, d, fun n => if (src t a n).toInt < 0 then -(src t a n) else src t a n)
  | .vnegI32 wb d a => some (0, 1, wb, d, fun n => -(src t a n))
  | .vmulh wb d a b => some (1, 4, wb, d, fun n => BitVec.ofInt 32 ((src t a n).toInt * (src t b n).toInt / 4294967296))
  | .vmulhu wb d a b => some (1, 4, wb, d, fun n => BitVec.ofNat 32 ((src t a n).toNat * (src t b n).toNat / 4294967296))
  | .vand wb d a b => some (0, 1, wb, d, fun n => src t a n &&& src t b n)
  | .vor wb d a b => some (0, 1, wb, d, fun n => src t a n ||| src t b n)
  | .vxor wb d a b => some (0, 1, wb, d, fun n => src t a n ^^^ src t b n)
  | .vandn wb d a b => some (0, 1, wb, d, fun n => src t a n &&& ~~~src t b n)
  | .vshl wb d a b => some (0, 1, wb, d, fun n => src t a n <<< ((src t b n).toNat % 32))
  | .vshr wb d a b => some (0, 1, wb, d, fun n => src t a n >>> ((src t b n).toNat % 32))
  | .vsar wb d a b => some (0, 1, wb, d, fun n => (src t a n).sshiftRight ((src t b n).toNat % 32))
  | .vminu wb d a b => some (0, 1, wb, d, fun n => if (src t a n).toNat < (src t b n).toNat then src t a n else src t b n)
  | .vmaxu wb d a b => some (0, 1, wb, d, fun n => if (src t a n).toNat < (src t b n).toNat then src t b n else src t a n)
  | .vadds wb d a b => some (0, 1, wb, d, fun n => sat ((src t a n).toInt + (src t b n).toInt))
  | .vsubs wb d a b => some (0, 1, wb, d, fun n => sat ((src t a n).toInt - (src t b n).toInt))
  | .vclz wb d a => some (0, 1, wb, d, fun n => BitVec.ofNat 32 ((upFrom 1 32).filter fun k => (src t a n).toNat < 2 ^ (32 - k)).length)
  | .vpopc wb d a => some (0, 1, wb, d, fun n => BitVec.ofNat 32 ((upFrom 0 32).filter fun k => (src t a n).getLsbD k).length)
  | .vunpk4 wb d a b => some (0, 1, wb, d, fun n => ((src t a (n / 8)).extractLsb' (n % 8 * 4) 4).zeroExtend 32 - src t b n)
  | .vunpk8 wb d a b => some (0, 1, wb, d, fun n => ((src t a (n / 4)).extractLsb' (n % 4 * 8) 8).zeroExtend 32 - src t b n)
  | .vzps wb d a b => some (0, 1, wb, d, fun n => BitVec.ofInt 32 (min (max ((src t a n).toInt + (src t b n).toInt) 0) 255))
  | _ => none

/-- R185 to R188, R172: unit, latency, wb, destination and lanes of VSEL and of the words of the permute unit. -/
def permute (t : Thread) : Instr → Option (Nat × Nat × Bool × Nat × (Nat → Lane))
  | .vsel wb d p a b => some (6, 1, wb, d, fun n => if (pOf t p).getLsbD n then src t a n else src t b n)
  | .vrsum ty wb d a b => some (4, 3, wb, d, fun _ => BitVec.ofNat 32 (rankSum ty (ranks t ty a b)))
  | .vrmax ty wb d a b => some (4, 3, wb, d, fun _ => BitVec.ofNat 32 (rankMM ty true (ranks t ty a b)))
  | .vrmin ty wb d a b => some (4, 3, wb, d, fun _ => BitVec.ofNat 32 (rankMM ty false (ranks t ty a b)))
  | .vscan ty wb d a b => some (4, 3, wb, d, fun n => BitVec.ofNat 32 (rankSum ty (scanRanks t ty a b n)))
  | .vscmx ty wb d a b => some (4, 3, wb, d, fun n => BitVec.ofNat 32 (rankMM ty true (scanRanks t ty a b n)))
  | .vperm _ wb d a b => some (4, 3, wb, d, fun n => src t a ((src t b n).toNat % 64))
  | .vbcast _ wb d a k => some (4, 3, wb, d, fun _ => src t a k)
  | .vrot _ wb d a k => some (4, 3, wb, d, fun n => src t a ((n + k) % 64))
  | .vzip _ wb d a b => some (4, 3, wb, d, fun n => if n % 2 = 0 then src t a (n / 2) else src t b (n / 2))
  | .vunzip _ wb d a b => some (4, 3, wb, d, fun n => if n < 32 then src t a (2 * n) else src t b (2 * n - 64))
  | .vmov wb d a => some (4, 3, wb, d, fun n => src t a n)
  | .vgbc ty wb d a b => some (4, 3, wb, d, fun n => src t a (((src t b 0).toNat + n) / (32 * 2 ^ ty) % 64))
  | _ => none

/-- The order of two floating or integer elements, if they are ordered (07 R184). -/
def order (t : Thread) (ty : VTy) (a b n : Nat) : Option Ordering :=
  if ty = .i32 then some (compare (src t a n).toInt (src t b n).toInt) else fcmp (elemOf t ty a n) (elemOf t ty b n)

/-- R184: the predicate of a vector compare, and whether lane `n` holds. -/
def vCompare (t : Thread) : Instr → Option (Nat × (Nat → Bool))
  | .vcmpEq ty p a b => some (p, fun n => order t ty a b n = some .eq)
  | .vcmpNe ty p a b => some (p, fun n => order t ty a b n ≠ some .eq)
  | .vcmpLt ty p a b => some (p, fun n => order t ty a b n = some .lt)
  | .vcmpLe ty p a b => some (p, fun n => order t ty a b n = some .lt ∨ order t ty a b n = some .eq)
  | .vcmpGt ty p a b => some (p, fun n => order t ty a b n = some .gt)
  | .vcmpGe ty p a b => some (p, fun n => order t ty a b n = some .gt ∨ order t ty a b n = some .eq)
  | .vcmpUn ty p a b => some (p, fun n => order t ty a b n = none)
  | .vcmpOr ty p a b => some (p, fun n => order t ty a b n ≠ none)
  | .vcmpLtu p a b => some (p, fun n => (src t a n).toNat < (src t b n).toNat)
  | .vcmpLeu p a b => some (p, fun n => (src t a n).toNat ≤ (src t b n).toNat)
  | .vcmpGtu p a b => some (p, fun n => (src t b n).toNat < (src t a n).toNat)
  | .vcmpGeu p a b => some (p, fun n => (src t b n).toNat ≤ (src t a n).toNat)
  | _ => none

/-- R80, R189: wb, destination, address register, step, class, token field and element size of a row load. -/
def rowLoad : Instr → Option (Bool × Nat × Nat × Nat × Nat × Tok × Nat)
  | .vld wb d g step cls tk => some (wb, d, g, step, cls, tk, 4)
  | .vldh wb d g step cls tk => some (wb, d, g, step, cls, tk, 2)
  | _ => none

/-- R80, R189: guard, data register, address register, step, class, token field and element size of a row store. -/
def rowStore : Instr → Option (Nat × Nat × Nat × Nat × Nat × Tok × Nat)
  | .vst p v g step cls tk => some (p, v, g, step, cls, tk, 4)
  | .vsth p v g step cls tk => some (p, v, g, step, cls, tk, 2)
  | _ => none

/-- R189: the address of a row in the current iteration: g[ga] plus the iteration's multiple of the step. -/
def rowAt (s : State) (g step : Nat) : Nat :=
  ((gOf (thr s s.cur) g).toNat +
    (match (engOf (thr s s.cur) s.strm).call with | some c => c.iter | none => 0) *
    (match step with | 1 => 256 | 2 => 128 | 3 => 512 | _ => 0)) % 2 ^ 64

/-- What an element of a long gather or scatter between the first and the last leaves alone, but for local memory: its thread
stands at its word, and nothing of it but the call of its stream has changed. -/
def LongKept (s t : State) : Prop :=
  let x := thr s s.cur
  let y := thr t s.cur
  Stands s t ∧ VKeep x y ∧ SpecialKeep x y ∧ StreamsBut [1] x y ∧ (engOf y 1).queue = (engOf x 1).queue ∧ WorkKeep x y ∧ AccKeep x y ∧
  KKeep [] x y ∧ FreezeKeep x y ∧ FarKeep x y ∧ OtherThreads s t ∧ OuterKeep s t ∧ WorkUnits s t ∧ Module s t

/-! ## Matrix, copy and scatter words -/

/-- Everything of the work of the engines but the matrix engine's shadow, nest, results in flight and emit shape. -/
def NotMatrix (x y : Thread) : Prop :=
  y.tags = x.tags ∧ y.win = x.win ∧ y.copies = x.copies ∧ y.rx = x.rx ∧ KKeep [] x y

/-- R261: the bytes of an element that MEMIT writes. -/
def emitted (out : Nat) (v : Lane) : Nat :=
  if out = 1 then roundTo bf16 (classify fp32 v.toNat) else if out = 2 then roundTo fp16 (classify fp32 v.toNat) else v.toNat

/-- R261: `n` bytes from byte `lo` of row `r` of a set written to where the set is written: those bytes of its elements,
and every other byte as before. -/
def PieceEmitted (a r out base lo n : Nat) (s t : State) : Prop :=
  let x := thr s s.cur
  let e := if out = 0 then 4 else 2
  LocalOutside (tileOf s.cur) (base + r * x.emitCols * e + lo) n s t ∧
  ∀ j k, j < x.emitCols → k < e → lo ≤ j * e + k → j * e + k < lo + n →
    readByte (tile t (tileOf s.cur)).mem (base + r * x.emitCols * e + j * e + k) = BitVec.ofNat 8 (emitted out (accOf x a r j) / 256 ^ k)

/-- R269: kind, address register, token, residency predicate, class and token field of a copy word. -/
def copyOp : Instr → Option (Nat × Nat × Nat × Nat × Nat × Tok)
  | .ldc g k nr cls tk => some (0, g, k, nr, cls, tk)
  | .ldt g k nr cls tk => some (1, g, k, nr, cls, tk)
  | .lfill g k cls tk => some (2, g, k, 0, cls, tk)
  | .stc g k cls tk => some (0, g, k, 0, cls, tk)
  | .stt g k cls tk => some (1, g, k, 0, cls, tk)
  | .sfill g k cls tk => some (2, g, k, 0, cls, tk)
  | _ => none

/-- The streamer may take the next word of a queue: every copy of the queue has issued its slots (04 R110). -/
def QueueFree (s : State) : Prop := ∀ c ∈ (thr s s.cur).copies, c.stream = s.strm → c.issued = true

/-- Everything of the work of the engines but the copies and their tokens. -/
def NotCopies (x y : Thread) : Prop :=
  y.fly = x.fly ∧ y.tags = x.tags ∧ y.win = x.win ∧ y.shadow = x.shadow ∧ y.nest = x.nest ∧ y.rx = x.rx ∧ y.mq = x.mq ∧ AccKeep x y

/-- R211, R215: the token field of a word that performs a window's list, and the window after it; `base` is the base that an
AOPEN has read. -/
def ends (w : Window) (base : Nat) : Instr → Option (Tok × Window)
  | .aopen _ op ty cls tk => some (tk, { isOpen := true, base := base, op := op.code, ty := ty.code, cls := cls })
  | .aflush tk => some (tk, { w with list := [], doing := [] })
  | .aclose tk => some (tk, {})
  | _ => none

/-- R213: values have been combined into the element of a window at an address, and every other byte is as before. -/
def Combined (w : Window) (a : Nat) (vs : Row) (s t : State) : Prop :=
  let e := if w.ty = 2 then 2 else 4
  LocalOutside (tileOf s.cur) a e s t ∧
  ∀ k, k < e → readByte (tile t (tileOf s.cur)).mem (a + k) =
    BitVec.ofNat 8 (combine w (leNat ((upFrom 0 e).map fun j => readByte (tile s (tileOf s.cur)).mem (a + j))) (vs.map fun v => v.toNat % 256 ^ e) / 256 ^ k)

/-- Everything of the work of the engines but the scatter window. -/
def NotWindow (x y : Thread) : Prop :=
  y.fly = x.fly ∧ y.tags = x.tags ∧ y.shadow = x.shadow ∧ y.nest = x.nest ∧ y.copies = x.copies ∧ y.rx = x.rx ∧ y.mq = x.mq ∧
  AccKeep x y ∧ KKeep [] x y

/-! ## Flow and collective words -/

/-- The thread's engine work but its receive queues, accumulators and copy tokens kept. -/
def NotQueues (x y : Thread) : Prop :=
  y.tags = x.tags ∧ y.win = x.win ∧ y.shadow = x.shadow ∧ y.nest = x.nest ∧ y.copies = x.copies ∧ y.mq = x.mq ∧ AccKeep x y ∧ KKeep [] x y

/-- A receive queue whose first packet holds flits not yet taken, each of 64 bytes, and none of whose later packets has
been begun. -/
def Arrived (x : Thread) (q : Nat) (r : RxPkt) (rest : List RxPkt) : Prop :=
  look [] x.rx q = r :: rest ∧ (∀ y ∈ rest, y.taken = 0) ∧ r.pkt.data.length = r.pkt.len ∧ r.taken < r.pkt.len ∧ r.pkt.len ≤ 64 ∧
  ∀ f ∈ r.pkt.data, f.bytes.length = 64

/-- R311: a packet written at an address of the tile at issue: its head with the field taken, the flits not yet taken, and
every other byte as before; it has left its queue. -/
def PacketWritten (x q : Nat) (r : RxPkt) (rest : List RxPkt) (s t : State) : Prop :=
  (∀ k, look [] (thr t s.cur).rx k = if k = q then rest else look [] (thr s s.cur).rx k) ∧
  LocalOutside (tileOf s.cur) x (64 * (1 + r.pkt.len - r.taken)) s t ∧ localBytes t x 64 = headBytes r.pkt r.taken ∧
  ∀ k j, k < r.pkt.len - r.taken → j < 64 →
    readByte (tile t (tileOf s.cur)).mem (x + 64 + 64 * k + j) = (r.pkt.data.getD (r.taken + k) {}).bytes.getD j 0

/-- A little-endian number in local memory of the tile of the thread at issue. -/
def localNumber (s : State) (a n : Nat) : Nat := leNat (localBytes s a n)

/-- The number, as a flow-table-misuse fault reports it, of a flow, a cause and an index (19 R424). -/
def misuse (flow cause idx : Nat) : Word := BitVec.ofNat 64 (flow % 65536 + cause * 65536 + idx * 16777216)

/-- A word that waits: nothing changes but what is noted of why it waits. -/
def Waits (i : Instr) (s : State) : Prop := ∃ t, exec i s = .next t ∧ Stands s t ∧ Inside s t ∧ Outside s t

/-! ## Translations at hand -/

/-- A cache of at most `cap` entries sees an address of a process: one entry of it covers the address and the `n` bytes from
it, and none other covers the address (16 R352). -/
def Sees (l : List XEntry) (cap pasid va n : Nat) (e : XEntry) : Prop :=
  e ∈ l ∧ l.length ≤ cap ∧ (∀ f ∈ l, covering pasid va f = true → f = e) ∧ covering pasid va e = true ∧ va + n ≤ e.base + e.size ∧
  e.refused = false

/-- A write of a thread goes to a home at once: its tile's cache sees the address and grants it, and nothing holds it
(16 R355, R367; 03 R62). -/
def TileGrants (s : State) (tid va n : Nat) (h : Home) : Prop :=
  ∃ e, Sees (tile s (tileOf tid)).cache 256 (thr s tid).id.pasid va n e ∧ e.w = true ∧ isCodePage s (thr s tid).id.part (thr s tid).id.pasid (va / 4096) = false ∧
    migHeld s (thr s tid).id.part (e.target + (va - e.base)) = false ∧ homeOf s (thr s tid).id.part (e.target + (va - e.base)) n = .ok h

/-- An access of a unit of the hub goes to a home in the module or the host at once: the hub's cache sees the address and
grants it, and nothing holds it (16 R351, R355, R367; 03 R62). -/
def HubHome (s : State) (p pasid va n : Nat) (wr : Bool) (h : Home) : Prop :=
  ∃ e, Sees (die s 4).agent 4096 pasid va n e ∧ (if wr then e.w else e.r) = true ∧
    (wr = true → isCodePage s p pasid (va / 4096) = false ∧ migHeld s p (e.target + (va - e.base)) = false) ∧
    homeOf s p (e.target + (va - e.base)) n = .ok h ∧ ((∃ a, h = .host a) ∨ ∃ o, h = .hbm o)

/-- A unit of the hub finds bytes at an address at once, none of them poisoned: each page's part at its home. -/
def HubBytes (s : State) (p pasid va : Nat) (bs : List Byte) : Prop :=
  ∀ g a n, a = max va (g * 4096) → n = min (va + bs.length) (g * 4096 + 4096) - a → 0 < n →
    ∃ h, HubHome s p pasid a n false h ∧ homeRead s h n = ((bs.drop (a - va)).take n, false)

/-- A message for another module has left by the port that takes it, with the side bands of its beats, or waits at the hub where
none does (17 R380-R382; log entry 90). -/
def Left (m : Msg) (d : Nat) (s t : State) : Prop :=
  (∀ q, portFor s d m = some q → byPort s.hub.module q m ∈ t.out) ∧ (portFor s d m = none → m ∈ t.hub.held)

/-- One of several messages for another module has left by the port that carries it, or waits at the hub, where none does or
the key of the port has run out before it (17 R380, R382). -/
def Sent (m : Msg) (d : Nat) (s t : State) : Prop :=
  (∀ q, portFor s d m = some q → byPort s.hub.module q m ∈ t.out ∨ m ∈ t.hub.held) ∧ (portFor s d m = none → m ∈ t.hub.held)

/-! ## Events -/

/-- An event or a word answers a next state of which `P` holds. -/
def Runs (i : Instr) (s : State) (P : State → Prop) : Prop := ∃ t, exec i s = .next t ∧ P t

/-- Nothing but one thread has changed. -/
def OnlyThread (tid : Nat) (s t : State) : Prop := t = { s with threads := t.threads } ∧ ∀ u, u ≠ tid → thr t u = thr s u

/-- Nothing but one partition has changed. -/
def OnlyPart (p : Nat) (s t : State) : Prop := t = { s with parts := t.parts } ∧ ∀ q, q ≠ p → part t q = part s q

/-- Nothing but one launch queue has changed. -/
def OnlyQueue (vf q : Nat) (s t : State) : Prop :=
  t = { s with queues := t.queues } ∧ ∀ k, k ≠ queueKey vf q → look ({} : Queue) t.queues k = look {} s.queues k

/-- Nothing but one launch has changed. -/
def OnlyLaunch (l : Nat) (s t : State) : Prop := t = { s with launches := t.launches } ∧ ∀ k, k ≠ l → launch t k = launch s k

/-- A thread has been stopped by an interrupt of a kind (1 pre-emption, 2 debug stop) at the end of this cycle (19 R438). -/
def Interrupted (kind tid : Nat) (s t : State) : Prop :=
  ∃ z, (thr t tid).frz = some z ∧ z.fault = none ∧ z.taken = kind ∧ z.closed = false ∧ z.cut = s.clock.now / 2 * 2 + 1

/-- R496: the freeze of a thread that a debug stop finds frozen: the stop goes before a pre-emption of the same network cycle, which is then
pending, and is itself pending where the thread is frozen otherwise, before a pre-emption that is pending there. -/
def stopRequested (s : State) (z : Freeze) : Freeze :=
  if z.taken = 2 then z
  else if z.taken = 1 ∧ z.raisedAt = s.clock.now ∧ z.fault = none then { z with taken := 2, pending := 1 }
  else if z.pending = 0 then { z with pending := 2 }
  else if z.pending ≠ 2 ∧ z.taken = 0 then { z with pending := 2, behind := 1 } else z

/-- R10, R379, R479, R480: what the reset of a partition leaves: no thread, team, launch, handle, flow entry or collective of it,
its registers at their reset values, one reset more in its count and in that of each of its queues, a drain under way; other
threads and partitions, the partition's configuration and images, and all memory as they were. -/
def PartitionReset (p : Nat) (s t : State) : Prop :=
  (∀ u, occupied t u = true → (thr t u).id.part ≠ p) ∧ (∀ u, (thr s u).id.part ≠ p → thr t u = thr s u) ∧
  (∀ k x, find t.teams k = some x → x.part ≠ p) ∧ (∀ k x, find t.launches k = some x → x.part ≠ p) ∧
  (part t p).handles = [] ∧ (part t p).flows = [] ∧ (part t p).colls = [] ∧ (part t p).migs = [] ∧ (part t p).saved = [] ∧
  (part t p).regs = {} ∧ (part t p).frames = [] ∧ (part t p).areas = [] ∧ (part t p).early = [] ∧ (part t p).kept = [] ∧
  (part t p).stats.resets = min 65535 ((part s p).stats.resets + 1) ∧ (part t p).draining.isSome = true ∧
  (part t p).cfg = (part s p).cfg ∧ (part t p).images = (part s p).images ∧
  (∀ q, q ≠ p → part t q = part s q) ∧ (∀ n, (tile t n).mem = (tile s n).mem) ∧
  t.hbm = s.hbm ∧ t.host = s.host ∧ t.clock = s.clock ∧
  ∀ k, find t.queues k = if k / 32 = p then (find s.queues k).map (fun x => { x with resets := x.resets + 1 }) else find s.queues k

/-- The work at the cut of a freeze that has passed has come to rest: the nest is paused, no self-test of an MTEST and no
row of a MEMIT is under way, no update of a list is still to perform, the local loads have landed, and no M word is still
to retire (10 R250; 19 R419). -/
def AtRest (s : State) (f : Nat) (z : Freeze) : Prop :=
  occupied s f = true ∧ (thr s f).frz = some z ∧ z.closed = false ∧ z.cut < s.clock.now ∧
  (∀ n, (thr s f).nest = some n → n.phase = .paused) ∧
  ((tile s (tileOf f)).arr.occupant ≠ some (ctxOf f) ∨ (thr s f).nest ≠ none) ∧
  (∀ c, (engOf (thr s f) 2).call = some c → c.held = true → c.part = 0) ∧ (thr s f).win.doing = [] ∧
  loadsLand (thr s f) ≤ s.clock.now ∧ ∀ r ∈ (thr s f).fly, onlyRetires r = false

/-- No earlier fault of a tile claims a tiller context (19 R427). -/
def Unclaimed (s : State) (f : Nat) : Prop :=
  (tile s (tileOf f)).pendList = [] ∧ ∀ c z, c < 4 → c ≠ ctxOf f → (thr s (tileOf f * 6 + c)).frz = some z → z.fault = none ∨ z.closed = true

/-- The engine of a call serves the context next: it is the thread's own, or it is free and the context is the first that
is ready after the last one served (04 R108, R109). -/
def Served (s : State) : Prop :=
  s.arg.b = 3 ∨ s.arg.b = 4 ∨ (s.arg.b ∈ [1, 2, 5, 6] ∧ (look ({} : EngArb) (tile s (tileOf s.arg.a)).eng s.arg.b).owner = none ∧
    nextServed s (tileOf s.arg.a) s.arg.b = some (ctxOf s.arg.a))

/-- The engine of a call, if shared, is the context's and has last run its thread (04 R108). -/
def Holder (s t : State) : Prop := s.arg.b ∈ [1, 2, 5, 6] →
  (look ({} : EngArb) (tile t (tileOf s.arg.a)).eng s.arg.b).owner = some (ctxOf s.arg.a) ∧
  (look ({} : EngArb) (tile t (tileOf s.arg.a)).eng s.arg.b).ran = some (memberOf s s.arg.a)

/-! ## Rows of copies and blocks of relayouts -/

/-- No memory of the module or the host holds poison. -/
def Unpoisoned (s : State) : Prop := (∀ n, (tile s n).poison = []) ∧ s.hbm.poison = [] ∧ s.hostPoison = []

/-- R274, R275, R357: what the read of an element of the row that a copy stands at gives: its value with its poison from
local memory, from its home, or zero where its page cannot be read; from a peer nothing yet. -/
def Source (s : State) (tid fmt : Nat) (c : Copy) (x0 : Nat) (v : ReadElem) : Prop :=
  (∃ tl a hi, sideAt s tid (rawSrc c) c c.shnd (rawLin (extOf c) (boxCoord c c.row x0)) (shift c.so (boxCoord c c.row x0)) = some (some tl, a, hi) ∧
    v = (elemFrom fmt hi (readBytes (tile s tl).mem a (elemBytes fmt)), poisonedIn (tile s tl).poison a (elemBytes fmt), false, false, [])) ∨
  ∃ a hi, sideAt s tid (rawSrc c) c c.shnd (rawLin (extOf c) (boxCoord c c.row x0)) (shift c.so (boxCoord c c.row x0)) = some (none, a, hi) ∧
    ((rowForced c c.row = some true ∧ v = (0, false, true, false, [])) ∨
     (rowForced c c.row ≠ some true ∧ ∃ e, Sees (tile s (tileOf tid)).cache 256 (thr s tid).id.pasid a (elemBytes fmt) e ∧
       ((e.r = false ∧ rowForced c c.row = none ∧ v = (0, false, true, false, [])) ∨
        (e.r = true ∧ ∃ h, homeOf s (thr s tid).id.part (e.target + (a - e.base)) (elemBytes fmt) = .ok h ∧
          (((∃ m q, h = .peer m q) ∧ v = (hi.toNat, false, false, true, [])) ∨
           ((∀ m q, h ≠ .peer m q) ∧
             v = (elemFrom fmt hi (homeRead s h (elemBytes fmt)).1, (homeRead s h (elemBytes fmt)).2, false, false, hbmPlace h (elemBytes fmt))))))))

/-- The place that an element of a row goes to: its unit, its address there and its nibble, where it can be written at once
(11 R272, R274; 16 R355). -/
def Placed (s : State) (tid fmt : Nat) (c : Copy) (row n : Nat) (d : Nat → (Nat × Nat) × Nat × Bool) : Prop :=
  ∀ x0, x0 < n →
    (∃ tl a hi, sideAt s tid (rawDst c) c c.dhnd (rawLin (dstExt c) (dstCoord c row x0)) (shift c.dst (dstCoord c row x0)) = some (some tl, a, hi) ∧
      d x0 = ((0, tl), a, hi)) ∨
    ∃ a hi h, sideAt s tid (rawDst c) c c.dhnd (rawLin (dstExt c) (dstCoord c row x0)) (shift c.dst (dstCoord c row x0)) = some (none, a, hi) ∧
      TileGrants s tid a (elemBytes fmt) h ∧ d x0 = ((unitOf h).1, (unitOf h).2, hi)

/-- The places of `n` elements do not meet, but for the two nibbles of a byte that follow each other. -/
def Apart (fmt n : Nat) (d : Nat → (Nat × Nat) × Nat × Bool) : Prop :=
  ∀ x y, x < n → y < n → x < y → (d x).1 ≠ (d y).1 ∨ (d x).2.1 + elemBytes fmt ≤ (d y).2.1 ∨ (d y).2.1 + elemBytes fmt ≤ (d x).2.1 ∨
    (fmt = 4 ∧ y = x + 1 ∧ (d x).2.1 = (d y).2.1 ∧ (d x).2.2 = false ∧ (d y).2.2 = true)

/-- The elements of a row stand at their places, or have left for the peers that hold those, and every other byte is as
before (11 R274, 17 R382). -/
def RowWritten (tid i fmt : Nat) (vals : List (Nat × Bool)) (d : Nat → (Nat × Nat) × Nat × Bool) (s t : State) : Prop :=
  (∀ (x0 : Nat) v, vals[x0]? = some v →
    ((d x0).1.1 < 3 → elemFrom fmt (d x0).2.2 (unitRead t (d x0).1 (d x0).2.1 (elemBytes fmt)) = v.1) ∧
    ((d x0).1.1 = 3 → ∃ a bs bw half, Sent (.rowOut (d x0).1.2 tid i a bs.length true bs bw half) (d x0).1.2 s t ∧ a ≤ (d x0).2.1 ∧
      (d x0).2.1 + elemBytes fmt ≤ a + bs.length ∧ elemFrom fmt (d x0).2.2 ((bs.drop ((d x0).2.1 - a)).take (elemBytes fmt)) = v.1)) ∧
  (∀ tl x, (∀ x0, x0 < vals.length → (d x0).1 = (0, tl) → x < (d x0).2.1 ∨ (d x0).2.1 + elemBytes fmt ≤ x) →
    readByte (tile t tl).mem x = readByte (tile s tl).mem x) ∧
  (∀ x, (∀ x0, x0 < vals.length → (d x0).1 = (1, 0) → x < (d x0).2.1 ∨ (d x0).2.1 + elemBytes fmt ≤ x) → readByte t.hbm.mem x = readByte s.hbm.mem x) ∧
  ∀ x, (∀ x0, x0 < vals.length → (d x0).1 = (2, 0) → x < (d x0).2.1 ∨ (d x0).2.1 + elemBytes fmt ≤ x) → readByte t.host x = readByte s.host x

/-- A copy's row of values is dispatched: its elements are written, the copy goes on as `f` says with the writes that peers
have yet to acknowledge, and no register of the thread and no other thread has changed (11 R274, R275). -/
def Dispatched (tid i fmt : Nat) (c : Copy) (vals : List (Nat × Bool)) (d : Nat → (Nat × Nat) × Nat × Bool) (f : Copy → Copy) (s t : State) : Prop :=
  (∃ ks, (thr t tid).copies[i]? = some (f { c with acks := c.acks ++ ks, held := 0 }) ∧ ((∀ x0, x0 < vals.length → (d x0).1.1 ≠ 3) → ks = [])) ∧
  (Unpoisoned s → Apart fmt vals.length d → (∀ v ∈ vals, v.1 < 2 ^ elemBits fmt ∧ v.2 = false) → RowWritten tid i fmt vals d s t) ∧
  (∀ j, j ≠ i → (thr t tid).copies[j]? = (thr s tid).copies[j]?) ∧ (thr t tid).c = (thr s tid).c ∧ (thr t tid).e = (thr s tid).e ∧
  ∀ u, u ≠ tid → thr t u = thr s u

/-- A copy has stopped before a row at a deferred report of a refusal, and its thread has begun a freeze (11 R275; 19 R424). -/
def CopyStopped (tid i row cause a : Nat) (c : Copy) (s t : State) : Prop :=
  (∃ x, (thr t tid).copies[i]? = some x ∧ x.stopped = true ∧ x.row = row ∧ x.slot = 0 ∧ x.issued = false ∧ x.k = c.k) ∧
  Faulted 1 c.stream false (BitVec.ofNat 64 (cause + c.mpc % 65536 * 65536 + c.cmd.toNat * 2 ^ 32)) (BitVec.ofNat 64 a)
    { s with cur := tid } { t with cur := tid }

/-- Storage of a conversion is at hand: local, or at a home that the hub reaches (09 R223). -/
def AtHand (s : State) (p : Nat) (c : Conv) (r : HRec) (a n : Nat) (wr : Bool) : Prop := r.space = 1 ∨ ∃ h, HubHome s p c.pasid a n wr h

/-- Every access of the conversion of a block is at hand (09 R223). -/
def BlockAtHand (s : State) (p : Nat) (old : HRec) (c : Conv) : Prop :=
  (∀ x ∈ blockCoords old c.c, AtHand s p c old (old.base + (offsetOf old x).1) (elemBytes old.fmt) false ∧
    AtHand s p c c.hrec (c.hrec.base + (offsetOf c.hrec x).1) (elemBytes old.fmt) true) ∧
  (∀ x ∈ padCoords c.hrec c.c, AtHand s p c c.hrec (c.hrec.base + (offsetOf c.hrec x).1) (elemBytes c.hrec.fmt) true) ∧
  (c.c + 1 = blockCount old → ∀ o ∈ tailBytes c.hrec ++ oddNibbles c.hrec, AtHand s p c c.hrec (c.hrec.base + o) 1 true)

/-- The copy token that a conversion names is done, wherever its thread runs (09 R227). -/
def TokenDone (c : Conv) (s t : State) : Prop :=
  ∀ tm m k, c.tok = some (tm, m, k) → ∀ u, occupied s u = true → (thr s u).id.team = tm → (thr s u).id.member = m →
    (thr s u).tillerOf = none → kOf (thr t u) k = .done

/-! ## Answers of the host -/

/-- The host has refused an address of a process to the hub (16 R355). -/
def Refuses (s : State) (pasid va : Nat) : Prop := ∃ e, e.refused = true ∧ ((die s 4).agent.find? (covering pasid va) = some e ∨
  ((die s 4).agent.find? (covering pasid va) = none ∧ (die s 4).told.find? (covering pasid va) = some e ∧ hubPending s pasid (va / 4096) = false))

/-- A transaction of the host reaches the function it is for: the module is not in recovery, and it passes IDE integrity
(25 R497, R501). -/
def FromHost (s : State) : Prop := s.sec.life ≠ .recovery ∧ s.arg.badIde = false

/-- No page request waits in a batch that is closed, ready or full (16 R359). -/
def NoBatch (s : State) : Prop := ∀ d, (die s d).closed = [] ∧ (die s d).ready = [] ∧ (die s d).batch.length < 64

/-- R354: an answer that the bus can carry for a page: a power of two of at least a page, aligned, that meets the page. -/
def Answers (x : XlatAnswer) (page : Nat) : Prop :=
  x.refused = false ∧ 4096 ≤ x.size ∧ (∃ k, x.size = 2 ^ k) ∧ x.base % x.size = 0 ∧ x.target % x.size = 0 ∧ meets x.base x.size (page * 4096) 4096 = true

/-- R354, R358: an invalidation at issue covers a page of a process. -/
def Covers (s : State) (pasid page : Nat) : Prop := (s.arg.flag = true ∨ pasid = s.arg.a) ∧ meets s.arg.b s.arg.c (page * 4096) 4096 = true

/-! ## Memory of collectives -/

/-- The hub finds the homes of consecutive 64-byte lines of a collective at once (17 R398). -/
def LinesFound (s : State) (c : Coll) (va n : Nat) (wr : Bool) (hs : List Home) : Prop :=
  hs.length = n ∧ ∀ (k : Nat) h, hs[k]? = some h → HubHome s c.part c.pasid (va + 64 * k) 64 wr h

/-- The homes of a buffer operand's lines; another operand has none (17 R389). -/
def OperandFound (s : State) (c : Coll) (x : Operand) (wr : Bool) (hs : List Home) : Prop :=
  if x.kind = 1 then LinesFound s c (chunkVa c x) 64 wr hs else hs = []

/-- The homes of some lines do not meet. -/
def HomesApart (hs : List Home) : Prop :=
  ∀ (j k : Nat) g h, j < k → hs[j]? = some g → hs[k]? = some h → (unitOf g).1 ≠ (unitOf h).1 ∨ (unitOf g).2 + 64 ≤ (unitOf h).2 ∨ (unitOf h).2 + 64 ≤ (unitOf g).2

/-- The participant of a run is there to take a fault at once (17 R398; 19 R419). -/
def Takes (s : State) (c : Coll) (tid : Nat) : Prop :=
  liveAs s c.team c.member = some tid ∧ (thr s tid).dying = false ∧ (thr s tid).frz = none ∧ c.heldFault = none

/-! ## Packets -/

/-- The packet in a place is the first of its link and its cycle has come (12 R305, R306). -/
def Next (s : State) (i : Nat) (p : Packet) : Prop := s.packets[i]? = some p ∧ p.due ≤ s.clock.now ∧ linkBusy s i p = false

/-- Nothing but the packets and the counters of one tile for one partition has changed (12 R323). -/
def OnlyCounted (s t : State) (tl p : Nat) (c : PartCount) : Prop :=
  t = { s with tiles := t.tiles, packets := t.packets } ∧ countAt (tile t tl) p = c ∧ (∀ q, q ≠ p → countAt (tile t tl) q = countAt (tile s tl) q) ∧
  LocalKeep s t ∧ ∀ n, n ≠ tl → tile t n = tile s n

/-- Where a piece of a dkind-3 delivery goes: by the translation made at FSEND, or by one that its sender's tile has at hand
(12 R310; 16 R355). -/
def PieceAt (s : State) (p : Packet) (va n : Nat) (h : Home) : Prop :=
  (∃ g, p.tr.find? (fun e => e.1 = va / 4096) = some g ∧ homeOf s p.part (g.2 + va % 4096) n = .ok h) ∨
  (p.tr.find? (fun e => e.1 = va / 4096) = none ∧ ∃ e, Sees (tile s p.src).cache 256 p.pasid va n e ∧ e.w = true ∧
    isCodePage s p.part p.pasid (va / 4096) = false ∧ migHeld s p.part (e.target + (va - e.base)) = false ∧
    homeOf s p.part (e.target + (va - e.base)) n = .ok h)

/-- The bytes at a home of this module or the host, and every other byte of the module and the host as before. -/
def WrittenAt (h : Home) (bs : List Byte) (s t : State) : Prop :=
  unitRead t (unitOf h).1 (unitOf h).2 bs.length = bs ∧ LocalKeep s t ∧
  (∀ x, ((unitOf h).1 = (1, 0) → x < (unitOf h).2 ∨ (unitOf h).2 + bs.length ≤ x) → readByte t.hbm.mem x = readByte s.hbm.mem x) ∧
  ∀ x, ((unitOf h).1 = (2, 0) → x < (unitOf h).2 ∨ (unitOf h).2 + bs.length ≤ x) → readByte t.host x = readByte s.host x

/-- R296 to R302: an entry at a router makes an error packet of an input of its generation: of the wrong length or span, without
the HOLD entry or the allocation that its action needs. -/
def Erring (s : State) (tl : Nat) (x : FlowEntry) (p : Packet) : Prop :=
  let e := x.frec
  (e.action = 1 ∧ (isNode e.n p.rlo p.rhi = false ∨ p.len ≠ e.len ∨ overlaps (valsOf x p.seq) p.rlo p.rhi = true)) ∨
  (e.action = 3 ∧ p.len ≠ e.len) ∨
  (e.action = 4 ∧ (p.rhi ≠ p.rlo + 1 ∨ p.len ≠ e.len ∨ overlaps (valsOf x p.seq) p.rlo p.rhi = true)) ∨
  (e.action = 5 ∧ x.busy ≤ s.clock.now ∧ p.len ≠ e.len) ∨
  (e.action = 6 ∧ (p.len ≠ e.len ∨ ∀ y, entryAt s p.part tl e.hflow = some y → y.frec.action ≠ 3)) ∨
  (e.action = 7 ∧ (p.len ≠ e.len ∨ p.rlo ≠ 0 ∨ p.rhi ≠ e.n ∨
    ownerOf s p.part tl e.oaddr (4 * (p.data.flatMap (fun f => elemsOf e.wf f.bytes)).length) = none))

/-- The hub, or an HBM controller, discards a packet of a draining partition and counts it (12 R307; log entry 108). -/
def HubDiscards (i : Nat) (p : Packet) (s t : State) : Prop :=
  t = { s with packets := s.packets.eraseIdx i, parts := t.parts } ∧ (∀ q, q ≠ p.part → part t q = part s q) ∧
  ((find s.parts p.part).isSome = true → part t p.part = { part s p.part with stats := { (part s p.part).stats with
    hubBound := min 65535 ((part s p.part).stats.hubBound + 1) } })

/-- A packet of which `n` more flits have left for a peer, from address `va`, waits for the peer (12 R316; 17 R382). -/
def AwaitsPeer (i n va : Nat) (p : Packet) (s t : State) : Prop :=
  LocalKeep s t ∧ OuterKeep s t ∧ t.threads = s.threads ∧
  ∃ q, t.packets = List.set s.packets i q ∧ q.sent = true ∧ q.entered = p.entered + n ∧ q.peerVa = va ∧ q.seq = p.seq ∧ q.data = p.data ∧ q.flag = p.flag

/-- The thread that sent a packet takes the deferred fault of a refusal, or its save holds it; a packet that a router made has
no such thread (12 R310; 16 R355; 19 R419, R424). -/
def SenderFaults (cause va : Nat) (p : Packet) (s t : State) : Prop :=
  (p.byRouter = true → t.threads = s.threads ∧ t.parts = s.parts) ∧
  ∀ tid, p.byRouter = false → liveAs s p.team p.member = some tid → (thr s tid).dying = false → (thr s tid).frz = none →
    Faulted 1 6 true (BitVec.ofNat 64 (cause + p.mpc % 65536 * 65536 + p.cmd.toNat * 2 ^ 32)) (BitVec.ofNat 64 va)
      { s with cur := tid } { t with cur := tid }

/-- A packet of which `n` more flits are behind it: it is gone with the last of them (12 R289). -/
def FlitsGone (i n : Nat) (p : Packet) (s t : State) : Prop :=
  t.packets = if p.len < p.entered + n ∨ (p.entered + n = p.len ∧ p.flag = 0) then s.packets.eraseIdx i
    else List.set s.packets i ({ p with entered := p.entered + n, held := 0 } : Packet)

/-! ## Queues and launches -/

/-- The bytes of an entry of a launch queue are at hand: another module sent them, or the hub finds them at once
(17 R408; 23 R465). -/
def EntryIs (s : State) (vf q idx : Nat) (e : List Byte) : Prop :=
  (∃ r, find (queueOf s vf q).sent idx = some (e, r)) ∨
  (find (queueOf s vf q).sent idx = none ∧ ∃ st, find (queueOf s vf q).begun idx = some (e, st)) ∨
  (find (queueOf s vf q).sent idx = none ∧ find (queueOf s vf q).begun idx = none ∧ e.length = 64 ∧
    HubBytes s (vf / 4) (queueOf s vf q).pasid ((queueOf s vf q).base.toNat + idx % (queueOf s vf q).size.toNat * 64) e)

/-- Every entry from QHEAD up to one lets launches and waits behind it go: it has completed, it has started, or it is a
good fence (23 R467). -/
def Passed (s : State) (vf q idx : Nat) : Prop :=
  ∀ k ∈ indicesTo (queueOf s vf q) idx, k ∈ (queueOf s vf q).ended ∨ k ∈ (queueOf s vf q).started ∨
    ∃ e, EntryIs s vf q k e ∧ entryGood e = true ∧ field e 0 1 = 2

/-- Bytes of a launch record are at hand: sent with the entry, or found by the hub at once (17 R408; 23 R470). -/
def RecordBytes (s : State) (vf q idx a off n : Nat) (bs : List Byte) : Prop :=
  (∃ e r, find (queueOf s vf q).sent idx = some (e, r) ∧ off + n ≤ r.length ∧ bs = (r.drop off).take n) ∨
  ((∀ e r, find (queueOf s vf q).sent idx = some (e, r) → r.length < off + n) ∧ bs.length = n ∧
    HubBytes s (vf / 4) (queueOf s vf q).pasid (a + off) bs)

/-- The completion word of an entry can be written at once, or the entry names none (23 R466). -/
def CanComplete (s : State) (vf q cpl : Nat) : Prop := cpl = 0 ∨ ∃ h, HubHome s (vf / 4) (queueOf s vf q).pasid cpl 8 true h

/-- The completion word has been written: the sequence number and the status (23 R466). -/
def Completed (vf q cpl seq status : Nat) (s t : State) : Prop :=
  (cpl = 0 → OuterKeep s t) ∧ ∀ h, cpl ≠ 0 → HubHome s (vf / 4) (queueOf s vf q).pasid cpl 8 true h → Unpoisoned s →
    WrittenAt h (toBytes 8 (seq + status * 2 ^ 32)) s t

/-- No thread, team and launch, no local memory and no other launch queue has changed. -/
def QueueFrame (vf q : Nat) (s t : State) : Prop :=
  t.threads = s.threads ∧ t.teams = s.teams ∧ t.launches = s.launches ∧ LocalKeep s t ∧
  ∀ k, k ≠ queueKey vf q → look ({} : Queue) t.queues k = look {} s.queues k

/-- A launch as its entry and its record give it (23 R466, R470). -/
def Begun (l vf q idx : Nat) (e h : List Byte) (ns : List NodeRec) (t : State) : Prop :=
  let x := launch t l
  x.part = vf / 4 ∧ x.vf = vf ∧ x.queue = q ∧ x.idx = idx ∧ x.seq = BitVec.ofNat 32 (field e 8 4) ∧ x.cpl = field e 16 8 ∧ x.energy = field h 2 1 ∧
  x.modules = field h 3 1 ∧ x.pasid = field h 4 4 ∧ x.args = field h 16 8 ∧ x.image = field h 36 4 ∧ x.npost = field h 48 2 ∧ x.nnodes = ns.length ∧
  ∀ (i : Nat) r, ns[i]? = some r → ∃ n, find x.nodes i = some n ∧ n.nrec = r

/-! ## Teams that are asked to stop, saved and restored -/

/-- A team has been asked to be pre-empted: each running member is stopped at the end of this cycle, and one that is frozen
for something else sees the request when it resumes; a team asked before is as it was (19 R438, R440). -/
def Asked (k : Nat) (s t : State) : Prop :=
  (team t k).preempt = true ∧ (∀ u, u ∉ liveOf s k → thr t u = thr s u) ∧ LocalKeep s t ∧
  ((team s k).preempt = true → t.threads = s.threads ∧ t.teams = s.teams) ∧
  ((team s k).preempt = false → ∀ m ∈ liveOf s k, ((thr s m).frz = none → Interrupted 1 m s t) ∧
    ∀ z, (thr s m).frz = some z → z.taken ≠ 1 → z.pending = 0 → (thr t m).frz = some { z with pending := 1 })

/-- The agent of a die sees `n` pages of a process in a row and grants the access: their physical addresses (19 R442). -/
def PagesFound (s : State) (d pasid : Nat) (wr : Bool) (va n : Nat) (ts : List Nat) : Prop :=
  ts.length = n ∧ ∀ (k : Nat) a, ts[k]? = some a → ∃ e, Sees (die s d).agent 16384 pasid (va + 4096 * k) 4096 e ∧ (if wr then e.w else e.r) = true ∧
    a = e.target + (va + 4096 * k - e.base)

/-- The agent of a die sees a page of a process and refuses it, or does not grant the access (19 R442). -/
def PageRefused (s : State) (d pasid : Nat) (wr : Bool) (va : Nat) : Prop :=
  ∃ e ∈ (die s d).agent, (die s d).agent.length ≤ 16384 ∧ (∀ f ∈ (die s d).agent, covering pasid va f = true → f = e) ∧ covering pasid va e = true ∧
    (e.refused = true ∨ (if wr then e.w else e.r) = false)

/-- Pages lie at homes of the module or the host that a partition may reach (17 R382; 19 R441). -/
def AreaAt (s : State) (p : Nat) (ts : List Nat) (hs : List Home) : Prop :=
  hs.length = ts.length ∧ ∀ (k : Nat) a, ts[k]? = some a → ∃ h, hs[k]? = some h ∧ homeOf s p a 4096 = .ok h ∧ ∀ m q, h ≠ .peer m q

/-- A record of 32 bytes has been written to the fault log, or waits for room in it (16 R361). -/
def Recorded (p : Nat) (bs : List Byte) (s t : State) : Prop :=
  let g := (part s p).regs
  (flqRoom s p = true → (part t p).regs.flqtail = g.flqtail + 1 ∧
    readBytes t.host (g.flqbase.toNat + g.flqtail.toNat % g.flqsize.toNat * 32) 32 = bs) ∧
  (flqRoom s p = false → (part t p).logWait = (part s p).logWait ++ [bs])

/-- The save of a team has been refused for a reason: a record says so, the team is no longer asked, and its members go
on (19 R442, R445). -/
def SaveRefused (k : Nat) (ms : List Nat) (reason va : Nat) (s t : State) : Prop :=
  (team t k).preempt = false ∧ (team t k).savedAt = none ∧
  (∀ m ∈ ms, ∀ z, (thr s m).frz = some z → z.pending = 0 → (thr s m).held = [] → heldRuns s m = [] → (thr t m).frz = none ∧ (thr t m).c = (thr s m).c) ∧
  Recorded (team s k).part (flqRec 4 reason (team s k).part (launchVf (launch s (team s k).launch)) (launch s (team s k).launch).pasid va (team s k).node 0
    (BitVec.ofNat 64 (s.clock.halfNs / 2))) s t

/-! ## Ports -/

/-- The route table is the one that firmware has written (17 R382). -/
def Routed (pairs : List (Nat × Nat)) (t : State) : Prop :=
  (pairs.map Prod.fst).Nodup → ∀ m, find t.hub.routes m = (pairs.find? fun x => x.1 = m).map Prod.snd

/-- With its flag, an answer attests this module to the one at the other end of a port (25 R503). -/
def Shown (s t : State) : Prop :=
  (s.arg.flag = false → t.hub = s.hub) ∧
  (s.arg.flag = true → portOf t s.arg.b = { portOf s s.arg.b with shown := true } ∧ ∀ n, n ≠ s.arg.b → portOf t n = portOf s n)

/-- The generation and the number of the last ring limit of a channel (17 R386). -/
def LimitOf (y : ChanSt) : BitVec 32 × Nat := (y.limGen, y.limit)

/-- What waited at the hub is sent again: each message leaves by a port or waits again, and one that waits alone leaves by the
port of its route, where that carries beats, neither of its keys has run out and no stop stands on the message's channel
(17 R380-R382; 25 R503). -/
def Resent (beats : Nat → Nat) (s t : State) : Prop :=
  (∀ m ∈ s.hub.held, (fabricTo m).isSome = true → m ∈ t.hub.held ∨ ∃ q, byPort s.hub.module q m ∈ t.out) ∧
  ∀ m d, s.hub.held = [m] → fabricTo m = some d →
    (∀ q, find t.hub.routes d = some q → (portOf t q).up = true → beats q < 2 ^ 48 - 1 → (portOf t q).rxBeats < 2 ^ 48 - 1 → channelOf m ∉ (portOf t q).stop →
      t.out = s.out ++ [byPort s.hub.module q m] ∧ t.hub.held = []) ∧
    ((∀ q, find t.hub.routes d = some q → (portOf t q).up = false ∨ channelOf m ∈ (portOf t q).stop) → t.out = s.out ∧ t.hub.held = [m])

/-! ## One step -/

/-- No breakpoint stops the word of a stream of a thread before it issues (24 R490). -/
def Unbroken (r : State) (tid st : Nat) : Prop := ((thr r tid).frz.isNone && breaks r tid st) = false

/-- A step from `s` runs the word at which a stream of a thread stands in `r`: the decoded instruction, with the thread and the
stream at issue; a word that does not decode is illegal, with its reason. -/
def RunsWord (tid st : Nat) (s r : State) : Prop :=
  (∀ i n, decodeAt (Stream.ofCode st) (halvesAt r tid st) = .ok (i, n) → step s = exec i (focus tid st r)) ∧
  ∀ reason, decodeAt (Stream.ofCode st) (halvesAt r tid st) = .error reason → step s = illegalAt reason (focus tid st r)

end Sys2Proof.Claims

open Sys2Proof Sys2Proof.Machine Sys2Proof.Safety Sys2Proof.Claims

/-- R127: ADD, SUB, MUL, MULH, MULHU, MIN, MAX, MINU, MAXU, POPC, SEXTW and ZEXTW complete with the value of the table, in g[d]
alone; a write to g0 is discarded (R75). R127: AND, OR, XOR, ANDN, SHL, SHR, SAR, ROL and ROR complete with the value of the table, in g[d] alone. -/
def Obligations.RegisterWords : Prop := (∀ (i : Instr) (s : State) (d : Nat) (v : Word),
  arith (thr s s.cur) i = some (d, v) → occupied s s.cur = true → WritesG i 2 d v s) ∧
  (∀ (i : Instr) (s : State) (d : Nat) (v : Word),
  logic (thr s s.cur) i = some (d, v) → occupied s s.cur = true → WritesG i 2 d v s)

/-- R128, R131, R132, R135: the immediate words, LUI, ADDPC and SEL complete with the value of their rules, in g[d] alone. R129: the compact ADDI adds its sign-extended immediate to its register, as a word of one halfword; R127: CLZ counts the
leading zero bits, 0 to 64. -/
def Obligations.ImmediateWords : Prop := (∀ (i : Instr) (s : State) (d : Nat) (v : Word),
  immediate (thr s s.cur) i = some (d, v) → occupied s s.cur = true → WritesG i 2 d v s) ∧
  (∀ (s : State), occupied s s.cur = true →
  (∀ (g : Nat) (imm : BitVec 5),
    WritesG (.addiCompact g imm) 1 g (BitVec.ofInt 64 ((gOf (thr s s.cur) g).toInt + imm.toInt)) s) ∧
  ∀ d a, ∃ k, k ≤ 64 ∧ (gOf (thr s s.cur) a).toNat < 2 ^ (64 - k) ∧
    (k < 64 → 2 ^ (63 - k) ≤ (gOf (thr s s.cur) a).toNat) ∧ WritesG (.clz d a) 2 d (BitVec.ofNat 64 k) s)

/-- R130: a dividing word completes with the result of its table, unless its divisor is zero while sr.ctl.dzen is set. R130: with dzen 1 a dividing word whose divisor is zero raises the divide-by-zero fault at issue, g[gd] is unchanged, and the
macro PC is that of the dividing word. -/
def Obligations.DivideWords : Prop := (∀ (i : Instr) (s : State) (d : Nat) (b v : Word),
  divide (thr s s.cur) i = some (d, b, v) → occupied s s.cur = true → (b = 0 → (thr s s.cur).sr.dzen = false) →
  WritesG i 2 d v s) ∧
  (∀ (i : Instr) (s : State) (d : Nat) (v : Word),
  divide (thr s s.cur) i = some (d, 0, v) → occupied s s.cur = true → (thr s s.cur).sr.dzen = true → s.strm = 0 →
  (thr s s.cur).frz = none → (thr s s.cur).replay.mode = 0 →
  ∃ t, exec i s = .next t ∧ Faulted 5 0 false 0 0 s t ∧ Stands s t ∧ InsideButFreeze s t ∧ OtherThreads s t ∧
    LocalKeep s t ∧ OuterKeep s t)

/-- R133, R134: the compares and the predicate words complete and write all 64 bits of their predicate, in a network cycle in
which no engine word has written it (R120 gives those bits to the engine). -/
def Obligations.PredicateWords : Prop := ∀ (i : Instr) (s : State) (p : Nat) (v : Word),
  predicate (thr s s.cur) i = some (p, v) → occupied s s.cur = true →
  (∀ e ∈ (thr s s.cur).pEng, e.1 = p → e.2.1 ≠ s.clock.now) →
  ∃ t, exec i s = .next t ∧ pOf (thr t s.cur) p = (if p = 0 then BitVec.allOnes 64 else v) ∧ PcBy 2 s t ∧
    CFrame [] [p] [] s t

/-- R136, R137: PBR writes pc plus its displacement, PBRR g[ga] plus its immediate, modulo 2 to the power 64, to t[n] alone. R138, R139: a taken BR or CALL goes to t[t], a CALL with the return offset in g62; one not taken goes on and leaves g62. -/
def Obligations.Branches : Prop := (∀ (s : State), occupied s s.cur = true →
  (∀ (n : Nat) (disp : BitVec 22), ∃ t, exec (.pbr n disp) s = .next t ∧
    tOf (thr t s.cur) n = BitVec.ofInt 64 ((thr s s.cur).c.pc.toInt + disp.toInt) ∧ PcBy 2 s t ∧ CFrame [] [] [n] s t) ∧
  ∀ (n a : Nat) (imm : BitVec 12), ∃ t, exec (.pbrr n a imm) s = .next t ∧
    tOf (thr t s.cur) n = BitVec.ofInt 64 ((gOf (thr s s.cur) a).toInt + imm.toInt) ∧ PcBy 2 s t ∧ CFrame [] [] [n] s t) ∧
  (∀ (s : State) (p n : Nat), occupied s s.cur = true →
  ((pOf (thr s s.cur) p).getLsbD 0 = false →
    (∃ t, exec (.br p n) s = .next t ∧ PcBy 1 s t ∧ CFrame [] [] [] s t) ∧
    ∃ t, exec (.call p n) s = .next t ∧ PcBy 1 s t ∧ CFrame [] [] [] s t) ∧
  ((pOf (thr s s.cur) p).getLsbD 0 = true → look 0 (thr s s.cur).tReady n ≤ s.clock.now →
    (∃ t, exec (.br p n) s = .next t ∧ (thr t s.cur).c.pc = tOf (thr s s.cur) n ∧ CFrame [] [] [] s t) ∧
    ∃ t, exec (.call p n) s = .next t ∧ (thr t s.cur).c.pc = tOf (thr s s.cur) n ∧
      gOf (thr t s.cur) 62 = (thr s s.cur).c.pc + 1 ∧ CFrame [62] [] [] s t))

/-- R140, R141: a local load of `n` bytes reads them from its address, and writes them sign- or zero-extended to g[gd] alone; the
interlock keeps later C words that name the register back. That the register is written at issue is a choice of the model (log entry
4), and so is the exact network cycle from which a later word may name it, 8 or 16 on (log entry 10): R141 says only no sooner than that, and that bank conflicts add to it. -/
def Obligations.LocalLoads : Prop := ∀ (i : Instr) (s : State) (d a c : Nat) (off : BitVec 8) (n : Nat) (sgn : Bool),
  load i = some (d, a, c, off, n, sgn) → occupied s s.cur = true → Free (thr s s.cur) c →
  accessAddr (thr s s.cur) a n off % n = 0 → Allocated (thr s s.cur) (accessAddr (thr s s.cur) a n off) n →
  Clean (tile s (tileOf s.cur)) (accessAddr (thr s s.cur) a n off) n →
  ∃ t, exec i s = .next t ∧
    GWritten d (loadedValue sgn n (readBytes (tile s (tileOf s.cur)).mem (accessAddr (thr s s.cur) a n off) n)) s t ∧ PcBy 2 s t ∧
    CFrame [d] [] [] s t ∧
    (d ≠ 0 → look 0 (thr t s.cur).gReady d = s.clock.now + if accessAddr (thr s s.cur) a n off < 0x1000000 then 8 else 16)

/-- R140: a local store of `n` bytes writes the low bytes of g[gd] at its address, and nothing else; 08 R203: a write of a part of a
poisoned word is discarded and counted, one of the whole word clears it. -/
def Obligations.LocalStores : Prop := ∀ (i : Instr) (s : State) (d a c : Nat) (off : BitVec 8) (n x : Nat),
  store i = some (d, a, c, off, n) → occupied s s.cur = true → Free (thr s s.cur) c → x = accessAddr (thr s s.cur) a n off →
  x % n = 0 → Allocated (thr s s.cur) x n →
  ∃ t, exec i s = .next t ∧ PcBy 2 s t ∧ RegsKeep s t ∧ Inside s t ∧ OtherThreads s t ∧ OuterKeep s t ∧ WorkUnits s t ∧ Module s t ∧
    LocalOutside (tileOf s.cur) x n s t ∧
    (∀ m w, w ∈ (tile t m).poison ↔ w ∈ (tile s m).poison ∧ ¬(m = tileOf s.cur ∧ n = 8 ∧ w = x)) ∧
    (x / 8 * 8 ∉ (tile s (tileOf s.cur)).poison ∨ n = 8 →
      readBytes (tile t (tileOf s.cur)).mem x n = toBytes n (gOf (thr s s.cur) d).toNat ∧
      (tile t (tileOf s.cur)).pdrop = min 65535 (tile s (tileOf s.cur)).pdrop) ∧
    (x / 8 * 8 ∈ (tile s (tileOf s.cur)).poison → n ≠ 8 →
      readBytes (tile t (tileOf s.cur)).mem x n = readBytes (tile s (tileOf s.cur)).mem x n ∧
      (tile t (tileOf s.cur)).pdrop = min 65535 ((tile s (tileOf s.cur)).pdrop + 1))

/-- R140, R141, 08 R202: a local access that is misaligned or outside the allocations raises the precise local-bounds fault with its
cause and its address, a load of poison the poisoned-data fault, before any byte is read or written. -/
def Obligations.LocalAccessFaults : Prop := ∀ (i : Instr) (s : State) (d a c : Nat) (off : BitVec 8) (n x : Nat),
  ((∃ sgn, load i = some (d, a, c, off, n, sgn)) ∨ store i = some (d, a, c, off, n)) → occupied s s.cur = true → s.strm = 0 →
  Free (thr s s.cur) c → (thr s s.cur).frz = none → (thr s s.cur).replay.mode = 0 → x = accessAddr (thr s s.cur) a n off →
  (x % n ≠ 0 → ∃ t, exec i s = .next t ∧ Faulted 3 0 false 1 (BitVec.ofNat 64 x) s t ∧ Stands s t ∧
      LocalKeep s t ∧ OuterKeep s t ∧ OtherThreads s t) ∧
  (x % n = 0 → ¬Allocated (thr s s.cur) x n →
    ∃ t, exec i s = .next t ∧ Faulted 3 0 false 2 (BitVec.ofNat 64 x) s t ∧ Stands s t ∧ LocalKeep s t ∧ OuterKeep s t ∧ OtherThreads s t) ∧
  (x % n = 0 → Allocated (thr s s.cur) x n → ¬Clean (tile s (tileOf s.cur)) x n → store i = none →
    ∃ t, exec i s = .next t ∧ Faulted 6 0 false 0 (BitVec.ofNat 64 x) s t ∧ Stands s t ∧ LocalKeep s t ∧ OuterKeep s t ∧ OtherThreads s t)

/-- R148, R418: TRAP retires and raises the deferred software-trap fault, whose status word holds the code, with the C stream held
after it; R146, R490: EBRK is a NOP while no debugger is attached, and otherwise begins a debug stop. -/
def Obligations.TrapAndBreak : Prop := ∀ (s : State), occupied s s.cur = true → (thr s s.cur).frz = none →
  (∀ code, (thr s s.cur).replay.mode ≠ 2 → ∃ t, exec (.trap code) s = .next t ∧
    Faulted 11 0 true (BitVec.ofNat 64 code) 0 s t ∧ (∃ z, (thr t s.cur).frz = some z ∧ 0 ∈ z.stops) ∧ PcBy 2 s t ∧ RegsKeep s t ∧
    InsideButFreeze s t ∧ OtherThreads s t ∧ LocalKeep s t ∧ OuterKeep s t) ∧
  ((thr s s.cur).sr.dbg = false → ∃ t, exec .ebrk s = .next t ∧ PcBy 1 s t ∧ CFrame [] [] [] s t) ∧
  ((thr s s.cur).sr.dbg = true → ∃ t, exec .ebrk s = .next t ∧ PcBy 1 s t ∧ RegsKeep s t ∧
    (∃ z, (thr t s.cur).frz = some z ∧ z.fault = none ∧ z.taken = 2 ∧ 0 ∈ z.stops) ∧
    InsideButFreeze s t ∧ OtherThreads s t ∧ LocalKeep s t ∧ OuterKeep s t)

/-- R143, R144, R147: NOP has no effect; YIELD changes no register and keeps the context out of arbitration for the contexts that
were ready, six network cycles at most; TRIG asserts a trigger of the trace and the thread goes on. -/
def Obligations.PlainSystemWords : Prop := ∀ (s : State), occupied s s.cur = true →
  (∃ t, exec .nop s = .next t ∧ PcBy 1 s t ∧ CFrame [] [] [] s t) ∧
  (∃ t, exec .yield s = .next t ∧ PcBy 1 s t ∧ CFrame [] [] [] s t ∧
    ∃ others, (thr t s.cur).yieldTo = some (s.clock.now + 6, others) ∧
      ∀ c k, (c, k) ∈ others ↔ ∃ u ∈ s.ready, tileOf u = tileOf s.cur ∧ u ≠ s.cur ∧ occupied s u = true ∧ c = ctxOf u ∧ k = (thr s u).cn) ∧
  ∀ n, ∃ t, exec (.trig n) s = .next t ∧ PcBy 1 s t ∧ CFrame [] [] [] s t

/-- R126, R122, R482: SRR of an allotted number writes the value of the register, as it is at issue, to g[gd] alone. R121: an SRR or SRW that names a number that no chapter allots faults at issue, with reason 8. -/
def Obligations.SystemRegisterReads : Prop := (∀ (s : State) (d n : Nat), occupied s s.cur = true → (n = 0x010 ∨ n = 0x011 → (thr s s.cur).replay.mode = 0) →
  (∀ v, sysReg s s.cur n = some v → WritesG (.srr d n) 2 d v s) ∧
  ∀ v, special s (thr s s.cur) n = some v → WritesG (.srr d n) 2 d v s) ∧
  (∀ (s : State) (n : Nat), occupied s s.cur = true → s.strm = 0 → (thr s s.cur).frz = none → (thr s s.cur).replay.mode ≠ 2 →
  sysReg s s.cur n = none →
  (∀ d, ∃ t, exec (.srr d n) s = .next t ∧ Faulted 4 0 false 8 0 s t ∧ Stands s t ∧ LocalKeep s t ∧ OuterKeep s t) ∧
  ∀ a, ∃ t, exec (.srw n a) s = .next t ∧ Faulted 4 0 false 8 0 s t ∧ Stands s t ∧ LocalKeep s t ∧ OuterKeep s t)

/-- R126, R125, R485: SRW stores the writable fields of a register and discards the rest. -/
def Obligations.SystemRegisterWrites : Prop := ∀ (s : State) (n a : Nat), occupied s s.cur = true →
  ((∃ v, sysReg s s.cur 8 = some v) → ∃ t, exec (.srw 8 a) s = .next t ∧ PcBy 2 s t ∧ RegsKeep s t ∧ Outside s t ∧
    (thr t s.cur).sr = { (thr s s.cur).sr with dzen := (gOf (thr s s.cur) a).getLsbD 0 } ∧ (thr t s.cur).id = (thr s s.cur).id) ∧
  ((∃ v, sysReg s s.cur n = some v) → n < 0x200 → n ≠ 8 → ∃ t, exec (.srw n a) s = .next t ∧ PcBy 2 s t ∧ CFrame [] [] [] s t) ∧
  ((∃ v, sysReg s s.cur n = some v) → 0x208 ≤ n → n < 0x210 → ∃ t, exec (.srw n a) s = .next t ∧ PcBy 2 s t ∧ CFrame [] [] [] s t ∧
    look 0 (tile t (tileOf s.cur)).prof.cnt (n - 0x208) = gOf (thr s s.cur) a)

/-- R96, R97, R98, R100, R101: ENQ and FORK push block calls when every named queue has room. -/
def Obligations.QueuePushes : Prop := ∀ (s : State), occupied s s.cur = true → isTiller s.cur = false →
  (∀ st off one, Room s st → ∃ t, exec (.enq st off one) s = .next t ∧ PcBy 2 s t ∧ StreamFrame s t ∧
    StreamsBut [st] (thr s s.cur) (thr t s.cur) ∧
    Pushed st off one (if one then 1 else pushCount s st off) (thr s s.cur) (thr t s.cur)) ∧
  ∀ a mask, (∀ b, b < 6 → mask.testBit b = true → Room s (b + 1)) → ∃ t, exec (.fork a mask) s = .next t ∧ PcBy 2 s t ∧
    StreamFrame s t ∧ StreamsBut [1, 2, 3, 4, 5, 6] (thr s s.cur) (thr t s.cur) ∧ ∀ b, b < 6 →
      (mask.testBit b = true → Pushed (b + 1) (gOf (thr s s.cur) (a + rank mask b)).toNat false
        (pushCount s (b + 1) (gOf (thr s s.cur) (a + rank mask b)).toNat) (thr s s.cur) (thr t s.cur)) ∧
      (mask.testBit b = false → engOf (thr t s.cur) (b + 1) = engOf (thr s s.cur) (b + 1))

/-- R102: JOIN completes once every named queue is empty and its words have retired; R105, R106: GIVE reserves a place at issue,
TAKE removes one token. -/
def Obligations.JoinAndTokens : Prop := ∀ (s : State), occupied s s.cur = true → isTiller s.cur = false →
  (∀ mask, (∀ b, b < 6 → mask.testBit b = true → Idle (thr s s.cur) (b + 1)) →
    ∃ t, exec (.join mask) s = .next t ∧ PcBy 1 s t ∧ CFrame [] [] [] s t) ∧
  (∀ x, x < 7 → fifo (thr s s.cur) 0 x + rsvd (thr s s.cur) 0 x + (if look 0 (thr s s.cur).pops x = s.clock.now / 2 + 1 then 1 else 0) < 16 →
    ∃ t, exec (.give x) s = .next t ∧ PcBy 1 s t ∧ StreamFrame s t ∧ (thr t s.cur).fifo = (thr s s.cur).fifo ∧
      (∀ a b, a < 7 → b < 7 → rsvd (thr t s.cur) a b = rsvd (thr s s.cur) a b + if a = 0 ∧ b = x then 1 else 0) ∧
      (∃ w ∈ (thr t s.cur).cwords, w.wid = (thr s s.cur).kn ∧ w.retired = true ∧ w.push = some x) ∧
      (thr t s.cur).eng = (thr s s.cur).eng) ∧
  ∀ x, x < 7 → 0 < fifo (thr s s.cur) x 0 → ∃ t, exec (.take x) s = .next t ∧ PcBy 1 s t ∧ StreamFrame s t ∧
    (∀ a b, a < 7 → b < 7 → fifo (thr t s.cur) a b = fifo (thr s s.cur) a b - if a = x ∧ b = 0 then 1 else 0) ∧
    (thr t s.cur).rsv = (thr s s.cur).rsv ∧ (thr t s.cur).cwords = (thr s s.cur).cwords ∧ (thr t s.cur).eng = (thr s s.cur).eng

/-- R115: BARA arrives once no arrival of the thread is outstanding; BARW completes once the phase of its arrival has, or where none
is outstanding; BAR is both as one word, and `cprog` holds the number of the phase that it waits for, plus one. -/
def Obligations.BarrierWords : Prop := ∀ (s : State) (n : Nat), occupied s s.cur = true → isTiller s.cur = false →
  (n ∉ (thr s s.cur).arrivals → acquiring (thr s s.cur) = false → (∀ r ∈ (thr s s.cur).far, r.done = true) →
    (∃ t, exec (.bara n) s = .next t ∧ PcBy 1 s t ∧ RegsKeep s t ∧ OtherThreads s t ∧ LocalKeep s t ∧ OuterKeep s t ∧
      n ∈ (thr t s.cur).arrivals ∧ ((find s.teams (thr s s.cur).id.team).isSome = true →
        (thr s s.cur).id.member ∈ (barOf (team t (thr s s.cur).id.team) n).arrived)) ∧
    ((thr s s.cur).cprog = 0 → ∃ t, exec (.bar n) s = .next t ∧ PcBy 0 s t ∧ RegsKeep s t ∧ OtherThreads s t ∧ LocalKeep s t ∧ OuterKeep s t ∧
      n ∈ (thr t s.cur).arrivals ∧ (thr t s.cur).cprog = phaseNo s s.cur n ∧ ((find s.teams (thr s s.cur).id.team).isSome = true →
        (thr s s.cur).id.member ∈ (barOf (team t (thr s s.cur).id.team) n).arrived))) ∧
  (n ∉ (thr s s.cur).arrivals → (thr s s.cur).cprog = 0 → ∃ t, exec (.barw n) s = .next t ∧ PcBy 1 s t ∧ CFrame [] [] [] s t) ∧
  ((thr s s.cur).cprog ≠ 0 → (thr s s.cur).cprog ≠ phaseNo s s.cur n →
    (∃ t, exec (.barw n) s = .next t ∧ PcBy 1 s t ∧ CFrame [] [] [] s t ∧ (thr t s.cur).cprog = 0) ∧
    ∃ t, exec (.bar n) s = .next t ∧ PcBy 1 s t ∧ CFrame [] [] [] s t ∧ (thr t s.cur).cprog = 0)

/-- R145, R95, R429: RETIRE waits for the work of its thread and releases the context. -/
def Obligations.RetireReleasesContext : Prop := ∀ (s : State), occupied s s.cur = true →
  (isTiller s.cur = false → Ended s →
    ∃ t, exec .retire s = .next t ∧ occupied t s.cur = false ∧ LocalKeep s t ∧ OuterKeep s t) ∧
  (isTiller s.cur = true → (thr s s.cur).far = [] → (tile s (tileOf s.cur)).pendList = [] →
    ∃ t, exec .retire s = .next t ∧ occupied t s.cur = false ∧ LocalKeep s t ∧ OuterKeep s t ∧
      ∀ f, (thr s s.cur).tillerOf = some f → (thr s s.cur).capValid = true → Msg.escalation f ∈ t.out)

/-- R317 to R321, R355: a far word that nothing holds back issues, and its request goes to the home of its address; an FLD of a
non-resident page has its answer at once (R357). -/
def Obligations.FarWordsIssue : Prop := ∀ (i : Instr) (s : State) (r : FarReq) (e : XEntry), request (thr s s.cur) i = some r → occupied s s.cur = true →
  r.va % r.size = 0 → FarFree s r.ord → CacheHit s r.va e →
  (∀ h, homeOf s (thr s s.cur).id.part (e.target + (r.va - e.base)) r.size = .ok h →
    (r.kind = 0 → e.r = true) →
    (r.kind ≠ 0 → e.w = true ∧ isCodePage s (thr s s.cur).id.part (thr s s.cur).id.pasid (r.va / 4096) = false ∧
      (part s (thr s s.cur).id.part).migs = []) →
    (r.kind = 2 → carried r.op = true ∨ ∀ a, h ≠ .host a) →
    ∃ t, exec i s = .next t ∧ PcBy 2 s t ∧ FarFrame s t ∧ (thr t s.cur).far = (thr s s.cur).far ++ [{ listed s r with home := some h }]) ∧
  (r.kind = 0 → e.r = false →
    ∃ t, exec i s = .next t ∧ PcBy 2 s t ∧ FarFrame s t ∧
      (thr t s.cur).far = (thr s s.cur).far ++ [{ listed s r with nonres := true, done := true }])

/-- R317, R355, R424: alignment and permission of a far word. That an operation the host link does not carry has cause 3 is the
model choice of log entry 56. -/
def Obligations.FarAddressFaults : Prop := ∀ (i : Instr) (s : State) (r : FarReq), request (thr s s.cur) i = some r → occupied s s.cur = true → s.strm = 0 →
  (thr s s.cur).frz = none → (thr s s.cur).replay.mode = 0 →
  (r.va % r.size ≠ 0 → ∃ t, exec i s = .next t ∧ Faulted 1 0 false 1 (BitVec.ofNat 64 r.va) s t ∧ Stands s t ∧ InsideButFreeze s t ∧ LocalKeep s t ∧ OuterKeep s t) ∧
  ∀ e, r.va % r.size = 0 → FarFree s r.ord → CacheHit s r.va e → r.kind ≠ 0 →
    (isCodePage s (thr s s.cur).id.part (thr s s.cur).id.pasid (r.va / 4096) = true →
      ∃ t, exec i s = .next t ∧ Faulted 1 0 false 6 (BitVec.ofNat 64 r.va) s t ∧ Stands s t ∧ InsideButFreeze s t ∧ LocalKeep s t ∧ OuterKeep s t) ∧
    (∀ a, isCodePage s (thr s s.cur).id.part (thr s s.cur).id.pasid (r.va / 4096) = false → e.w = true → (part s (thr s s.cur).id.part).migs = [] →
      homeOf s (thr s s.cur).id.part (e.target + (r.va - e.base)) r.size = .ok (.host a) → r.kind = 2 → carried r.op = false →
      ∃ t, exec i s = .next t ∧ Faulted 1 0 false 3 (BitVec.ofNat 64 r.va) s t ∧ Stands s t ∧ InsideButFreeze s t ∧ LocalKeep s t ∧ OuterKeep s t)

/-- R319, R320, R321: what a far request does at its home, and that one to a peer module leaves for it (17 R382); the event
FAR_REQUEST. The order among requests is that of R322 and R339; which commutative FAMOs merge and which of use quantum make a
batch (14 R341), and what a speculative FLD takes (14 R342), are free choices (log entry 20). R319, R321, R357: what the reply of a far word writes; the event FAR_REPLY. -/
def Obligations.FarRequests : Prop := (∀ (s : State) (i : Nat) (r : FarReq), s.arg.b = i →
  (∀ host a, Foremost s s.arg.a i r (place host a) → a % r.size = 0 → s.hostPoison = [] → s.hbm.poison = [] →
    (r.kind = 0 → ∃ t, exec .farRequest s = .next t ∧ PerformFrame s.arg.a s t ∧ OuterKeep s t ∧
      ∃ q, (thr t s.arg.a).far[i]? = some q ∧ q.done = true ∧
        ((q.poison = false ∧ q.value = BitVec.ofNat 64 (outerNumber s host a r.size)) ∨
          (hasUse .speculative r = true ∧ ∃ o ∈ s.old, o.host = host ∧ o.addr = a / 8 * 8 ∧ s.clock.halfNs / 2 ≤ o.ns + 1000 ∧
            q.poison = o.bad ∧ q.value = BitVec.ofNat 64 (o.value.toNat / 256 ^ (a % 8) % 256 ^ r.size)))) ∧
    (r.kind = 1 → ∃ t, exec .farRequest s = .next t ∧ PerformFrame s.arg.a s t ∧ OuterStored host a r.size r.b.toNat s t ∧
      ∃ q, (thr t s.arg.a).far[i]? = some q ∧ q.done = true) ∧
    (r.kind = 2 → hasUse .commutative r = false → hasUse .quantum r = false → ∃ t, exec .farRequest s = .next t ∧ PerformFrame s.arg.a s t ∧
      OuterStored host a r.size (stored r.op (8 * r.size) (BitVec.ofNat _ (outerNumber s host a r.size)) (BitVec.ofNat _ r.b.toNat) (BitVec.ofNat _ r.c.toNat)).toNat s t ∧
      ∃ q, (thr t s.arg.a).far[i]? = some q ∧ q.done = true ∧ q.value = BitVec.ofNat 64 (outerNumber s host a r.size)) ∧
    (r.kind = 2 → hasUse .commutative r = true ∨ hasUse .quantum r = true → ∃ t, exec .farRequest s = .next t ∧ LocalKeep s t ∧
      (∀ b x, (b = host → x < a ∨ a + r.size ≤ x) → outer t b x = outer s b x) ∧
      ∃ q, (thr t s.arg.a).far[i]? = some q ∧ q.done = true ∧
        (hasUse .commutative r = true → q.value = BitVec.ofNat 64 (outerNumber s host a r.size)))) ∧
  ∀ m pa, Foremost s s.arg.a i r (.peer m pa) → ∃ t, exec .farRequest s = .next t ∧ LocalKeep s t ∧ OuterKeep s t ∧
    (∀ u, u ≠ s.arg.a → thr t u = thr s u) ∧ Left (.farOut m s.arg.a pa r) m s t ∧ (thr t s.arg.a).far[i]? = some { r with sent := true }) ∧
  (∀ (s : State) (i : Nat) (r : FarReq), (thr s s.arg.a).far[i]? = some r → s.arg.b = i → occupied s s.arg.a = true → r.done = true →
  r.logs = [] → r.forced = none → (r.size = 4 ∨ r.size = 8) → (thr s s.arg.a).replay.mode = 0 →
  (∀ e ∈ (thr s s.arg.a).pEng, e.2.1 ≠ s.clock.now) →
  (r.kind = 1 → ∃ t, exec .farReply s = .next t ∧ PerformFrame s.arg.a s t ∧ OuterKeep s t ∧ WorkUnits s t ∧
    (thr t s.arg.a).far.length + 1 = (thr s s.arg.a).far.length) ∧
  (r.kind ≠ 1 → r.poison = false → ∃ t, exec .farReply s = .next t ∧ LocalKeep s t ∧ OuterKeep s t ∧ (∀ u, u ≠ s.arg.a → thr t u = thr s u) ∧
    (∀ n, gOf (thr t s.arg.a) n = if n = r.reg ∧ n ≠ 0 then BitVec.ofNat 64 (r.value.toNat % 256 ^ r.size) else gOf (thr s s.arg.a) n) ∧
    (∀ n, pOf (thr t s.arg.a) n = if n = r.nr ∧ n ≠ 0 ∧ r.kind = 0 then (if r.nonres then BitVec.allOnes 64 else 0) else pOf (thr s s.arg.a) n) ∧
    (thr t s.arg.a).c.pc = (thr s s.arg.a).c.pc ∧ (thr t s.arg.a).far.length + 1 = (thr s s.arg.a).far.length) ∧
  (r.kind ≠ 1 → r.poison = true → (thr s s.arg.a).frz = none → (thr s s.arg.a).dying = false → ∃ t, exec .farReply s = .next t ∧ LocalKeep s t ∧ OuterKeep s t ∧
    (∀ n, gOf (thr t s.arg.a) n = gOf (thr s s.arg.a) n) ∧ (∀ n, pOf (thr t s.arg.a) n = pOf (thr s s.arg.a) n) ∧
    ∃ z f, (thr t s.arg.a).frz = some z ∧ z.fault = some f ∧ f.code = 6 ∧ f.defer = true ∧ f.addr = BitVec.ofNat 64 r.va))

/-- R331, R337, R340: a fence completes once the accesses it orders have performed; until then it waits. -/
def Obligations.Fences : Prop := ∀ (s : State), occupied s s.cur = true →
  (∀ mask, (∀ r ∈ (thr s s.cur).far, mask.testBit r.cls = true → hasUse .speculative r = false → r.done = true) →
    ∃ t, exec (.fenceC mask) s = .next t ∧ PcBy 2 s t ∧ CFrame [] [] [] s t) ∧
  (∀ sc, (∀ r ∈ (thr s s.cur).far, hasUse .speculative r = false → r.done = true) →
    ∃ t, exec (.fenceS sc) s = .next t ∧ PcBy 2 s t ∧ CFrame [] [] [] s t) ∧
  ∀ mask r, r ∈ (thr s s.cur).far → r.done = false → mask.testBit r.cls = true → hasUse .speculative r = false →
    ∃ t, exec (.fenceC mask) s = .next t ∧ PcBy 0 s t ∧ CFrame [] [] [] s t

/-- R206: the results of TAG.LOOK, TAG.SET and TAG.CLR and what they do to the table. -/
def Obligations.TagWords : Prop := ∀ (s : State), occupied s s.cur = true → isTiller s.cur = false →
  (∀ d a x, find (thr s s.cur).tags (gOf (thr s s.cur) a).toNat = some x →
    WritesG (.tagLook d a) 2 d (x.zeroExtend 64) s ∧
    (∃ t, exec (.tagClr d a) s = .next t ∧ PcBy 2 s t ∧ GWritten d (x.zeroExtend 64) s t ∧ TagFrame d s t ∧
      ∀ k, find (thr t s.cur).tags k = if k = (gOf (thr s s.cur) a).toNat then none else find (thr s s.cur).tags k) ∧
    ∀ b, ∃ t, exec (.tagSet d a b) s = .next t ∧ PcBy 2 s t ∧ GWritten d (x.zeroExtend 64) s t ∧ TagFrame d s t ∧
      ∀ k, find (thr t s.cur).tags k = if k = (gOf (thr s s.cur) a).toNat then some ((gOf (thr s s.cur) b).truncate 32) else find (thr s s.cur).tags k) ∧
  (∀ d a, find (thr s s.cur).tags (gOf (thr s s.cur) a).toNat = none →
    WritesG (.tagLook d a) 2 d (status 1) s ∧
    (∃ t, exec (.tagClr d a) s = .next t ∧ PcBy 2 s t ∧ GWritten d (status 1) s t ∧ TagFrame d s t ∧
      ∀ k, find (thr t s.cur).tags k = find (thr s s.cur).tags k) ∧
    ∀ b, ((thr s s.cur).tags.length < 256 → ∃ t, exec (.tagSet d a b) s = .next t ∧ PcBy 2 s t ∧ GWritten d (status 1) s t ∧ TagFrame d s t ∧
        ∀ k, find (thr t s.cur).tags k = if k = (gOf (thr s s.cur) a).toNat then some ((gOf (thr s s.cur) b).truncate 32) else find (thr s s.cur).tags k) ∧
      (256 ≤ (thr s s.cur).tags.length → WritesG (.tagSet d a b) 2 d (status 2) s)) ∧
  ∀ d, ∃ t, exec (.tagClrAll d) s = .next t ∧ PcBy 2 s t ∧ GWritten d (BitVec.ofNat 64 (thr s s.cur).tags.length) s t ∧ TagFrame d s t ∧
    (thr t s.cur).tags = []

/-- R231 to R233: the statuses and effects of the handle words. The check of a record (R221) is the function recordStatus. -/
def Obligations.HandleWords : Prop := ∀ (s : State) (d a b p : Nat), occupied s s.cur = true → Clear s → p = (thr s s.cur).id.part → (find s.parts p).isSome = true →
  (∀ n, find (part s p).handles (gOf (thr s s.cur) a).toNat = none → WritesG (.hndQry d a n) 2 d 0 s) ∧
  (∀ e, find (part s p).handles (gOf (thr s s.cur) a).toNat = some e → (gOf (thr s s.cur) a).toNat ≤ 4095 →
    WritesG (.hndQry d a 0) 2 d (BitVec.ofNat 64 (entryStatus e)) s ∧
    WritesG (.hndQry d a 1) 2 d (match e.conv with | some c => if e.failed then 0 else BitVec.ofNat 64 c.c | none => 0) s ∧
    WritesG (.hndQry d a 2) 2 d (match e.conv with | some _ => if e.failed then 0 else BitVec.ofNat 64 (blockCount e.hrec) | none => 0) s ∧
    WritesG (.hndQry d a 3) 2 d ((look 0 (part s p).gens (gOf (thr s s.cur) a).toNat).zeroExtend 64) s) ∧
  (Readable s (gOf (thr s s.cur) a).toNat 64 → ∀ h r, h = (gOf (thr s s.cur) b).toNat → r = parseHRec (localBytes s (gOf (thr s s.cur) a).toNat 64) →
    (4095 < h → WritesG (.hndDef d a b) 2 d (status 1) s) ∧
    (h ≤ 4095 → find (part s p).handles h ≠ none → WritesG (.hndDef d a b) 2 d (status 2) s) ∧
    (h ≤ 4095 → find (part s p).handles h = none →
      (∀ n, recordStatus s s.cur r = some n → WritesG (.hndDef d a b) 2 d (status n) s) ∧
      (recordStatus s s.cur r = none →
        ∃ t, exec (.hndDef d a b) s = .next t ∧ PcBy 2 s t ∧ GWritten d 0 s t ∧ HandleFrame d p s t ∧
          (∀ k, find (part t p).handles k = if k = h then some { hrec := r }
            else if r.group ≠ 0 ∧ k = r.scale then (find (part s p).handles k).map (fun x => { x with scalerefs := x.scalerefs + 1 })
            else find (part s p).handles k) ∧
          ∀ k, look 0 (part t p).gens k = look 0 (part s p).gens k + if k = h then 1 else 0))) ∧
  (Readable s (gOf (thr s s.cur) a).toNat 32 → ∀ h bs, h = (gOf (thr s s.cur) b).toNat → bs = localBytes s (gOf (thr s s.cur) a).toNat 32 →
    (4095 < h ∨ find (part s p).handles h = none → WritesG (.hndRelay d a b) 2 d (status 1) s) ∧
    ∀ e, find (part s p).handles h = some e → h ≤ 4095 →
      ((e.conv ≠ none ∨ e.failed = true ∨ 0 < e.scalerefs) → WritesG (.hndRelay d a b) 2 d (status 6) s) ∧
      (e.conv = none → e.failed = false → e.scalerefs = 0 →
        ((∃ k, 15 ≤ k ∧ k < 32 ∧ bs.getD k 0 ≠ 0) → WritesG (.hndRelay d a b) 2 d (status 3) s) ∧
        ((∀ k, 15 ≤ k → k < 32 → bs.getD k 0 = 0) →
          (∀ n, recordStatus s s.cur (relayRec e.hrec bs) = some n → WritesG (.hndRelay d a b) 2 d (status n) s) ∧
          (recordStatus s s.cur (relayRec e.hrec bs) = none → ∀ k, k = (bs.getD 14 0).toNat →
            (k ≠ 255 → (7 < k ∨ isTiller s.cur = true) → WritesG (.hndRelay d a b) 2 d (status 3) s) ∧
            (k ≤ 7 → isTiller s.cur = false → kOf (thr s s.cur) k = .busy → WritesG (.hndRelay d a b) 2 d (status 7) s) ∧
            ((k = 255 ∨ (k ≤ 7 ∧ isTiller s.cur = false ∧ kOf (thr s s.cur) k ≠ .busy)) →
              ∃ t, exec (.hndRelay d a b) s = .next t ∧ PcBy 2 s t ∧ GWritten d 0 s t ∧ RelayFrame d p k s t ∧
                (k ≤ 7 → kOf (thr t s.cur) k = .busy) ∧
                (∀ j, find (part t p).handles j = if j = h then some { e with conv := some (
                    { hrec := relayRec e.hrec bs, order := s.clock.now, vf := (thr s s.cur).id.vf, pasid := (thr s s.cur).id.pasid,
                      tok := if k ≤ 7 then some ((thr s s.cur).id.team, (thr s s.cur).id.member, k) else none } : Conv) } else find (part s p).handles j) ∧
                ∀ j, look 0 (part t p).gens j = look 0 (part s p).gens j + if j = h then 1 else 0)))))

/-- R362, R370: what PAGE.REQ enters and MIGRATE accepts, and their results. -/
def Obligations.PageRequestsAndMigrations : Prop := ∀ (s : State) (d a b : Nat), occupied s s.cur = true → (thr s s.cur).replay.mode = 0 →
  ((gOf (thr s s.cur) b).toNat % 128 = 0 ∨ 64 < (gOf (thr s s.cur) b).toNat % 128 ∨ (gOf (thr s s.cur) b).getLsbD 7 = true ∨ 512 ≤ (gOf (thr s s.cur) b).toNat →
    WritesG (.pageReq d a b) 2 d (status 1) s) ∧
  (∀ (n : Nat) (w : Bool) (pg : Nat → Nat) (g : Die), 1 ≤ n → n ≤ 64 → gOf (thr s s.cur) b = BitVec.ofNat 64 (n + if w then 256 else 0) →
    pg = (fun k => ((gOf (thr s s.cur) a).toNat / 4096 + k) % 2 ^ 52) → g = die s (dieOf (tileOf s.cur)) →
    (thr s s.cur).cprog = 0 → (thr s s.cur).id.vf ∉ s.refusedVf → g.batch.length + n < 64 →
    ∃ t, exec (.pageReq d a b) s = .next t ∧ PcBy 2 s t ∧ GKeep [d] (thr s s.cur) (thr t s.cur) ∧ Inside s t ∧ OtherThreads s t ∧
      LocalKeep s t ∧ OuterKeep s t ∧ t.out = s.out ∧
      GWritten d (BitVec.ofNat 64 ((upFrom 0 n).filter fun k => !(pagePending g (thr s s.cur).id.pasid (pg k))).length) s t ∧
      (die t (dieOf (tileOf s.cur))).batch =
        g.batch.map (fun q => if q.pasid = (thr s s.cur).id.pasid ∧ ∃ k, k < n ∧ q.page = pg k then { q with w := q.w || w } else q) ++
        ((upFrom 0 n).filter fun k => !(pagePending g (thr s s.cur).id.pasid (pg k))).map fun k =>
          { vf := (thr s s.cur).id.vf, part := (thr s s.cur).id.part, pasid := (thr s s.cur).id.pasid, page := pg k, w := w }) ∧
  ((gOf (thr s s.cur) a).toNat % 4096 ≠ 0 → WritesG (.migrate d a b) 2 d (status 2) s) ∧
  ((gOf (thr s s.cur) a).toNat % 4096 = 0 → ∀ p, p = (thr s s.cur).id.part →
    (256 ≤ ((part s p).migs.filter fun m => m.stage ≠ 6).length → WritesG (.migrate d a b) 2 d (status 1) s) ∧
    (((part s p).migs.filter fun m => m.stage ≠ 6).length < 256 → (find s.parts p).isSome = true →
      ∃ t, exec (.migrate d a b) s = .next t ∧ PcBy 2 s t ∧ GWritten d ((part s p).migNext.zeroExtend 64) s t ∧
        GKeep [d] (thr s s.cur) (thr t s.cur) ∧ Inside s t ∧ OtherThreads s t ∧ LocalKeep s t ∧ OuterKeep s t ∧
        (part t p).migNext = (if (part s p).migNext + 1 = 0 then 1 else (part s p).migNext + 1) ∧
        ∃ m, (part t p).migs = (part s p).migs ++ [m] ∧ m.va = (gOf (thr s s.cur) a).toNat ∧ m.stage = 0 ∧
          m.deadline = (gOf (thr s s.cur) b).toNat ∧ m.num = (part s p).migNext ∧ m.pasid = (thr s s.cur).id.pasid))

/-- R458, R459: the statuses and effects of the monitor words. The check of an arm record is the function armBad, and one network
cycle of a scan the function scanStep. What MON.RD gives of the items 11 to 15, and of a monitor that is not held or not armed,
is the model choice of log entry 53. -/
def Obligations.MonitorWords : Prop := ∀ (s : State) (d a b i : Nat) (x : Word), occupied s s.cur = true → isTiller s.cur = false → Free (thr s s.cur) 15 → x = gOf (thr s s.cur) b →
  i = x.toNat % 4 →
  (4 ≤ x.toNat → WritesG (.monArm d a b) 2 d (status 1) s ∧ WritesG (.monOff d b) 2 d (status 1) s) ∧
  (x &&& 0x103 ≠ x → WritesG (.monRef d a b) 2 d (status 1) s) ∧
  (x &&& 0xF03 ≠ x → WritesG (.monRd d b) 2 d (status 1) s) ∧
  ((∀ m, ¬ Armed s i m) → (x &&& 0x103 = x → WritesG (.monRef d a b) 2 d (status 2) s) ∧
    (x &&& 0xF03 = x → WritesG (.monRd d b) 2 d (status 2) s) ∧ (x.toNat < 4 → WritesG (.monOff d b) 2 d (status 2) s)) ∧
  (∀ m, Armed s i m →
    (x.toNat < 4 → ∃ t, exec (.monOff d b) s = .next t ∧ PcBy 2 s t ∧ GWritten d 0 s t ∧ MonFrame d i s t ∧ find (tile t (tileOf s.cur)).mons i = none) ∧
    (x.toNat < 4 → ∃ t, exec (.monRef d a b) s = .next t ∧ PcBy 2 s t ∧ GWritten d 0 s t ∧ MonFrame d i s t ∧
      ∃ y, find (tile t (tileOf s.cur)).mons i = some y ∧ y.ref = m.acc ∧ y.acc = m.acc ∧ y.nf = m.nf) ∧
    (x &&& 0x103 = x → x.getLsbD 8 = true → (gOf (thr s s.cur) a).extractLsb' 23 8 = 255 → WritesG (.monRef d a b) 2 d (status 3) s) ∧
    (x = BitVec.ofNat 64 (i + 256 * 2) → WritesG (.monRd d b) 2 d (m.d.zeroExtend 64) s) ∧
    (∀ k, 4 ≤ k → k < 9 → x = BitVec.ofNat 64 (i + 256 * k) → WritesG (.monRd d b) 2 d (BitVec.ofInt 64 (m.acc / ((2 ^ (64 * (k - 4)) : Nat) : Int))) s) ∧
    (∀ k, 11 ≤ k → k < 16 → x = BitVec.ofNat 64 (i + 256 * k) → WritesG (.monRd d b) 2 d (status 1) s)) ∧
  (x.toNat < 4 → (∀ m, find (tile s (tileOf s.cur)).mons i = some m → m.owner ≠ ctxOf s.cur → WritesG (.monArm d a b) 2 d (status 2) s) ∧
    (∀ m, Armed s i m → m.count ≤ m.scan → WritesG (.monArm d a b) 2 d (status 4) s) ∧
    (find (tile s (tileOf s.cur)).mons i = none → Readable s (gOf (thr s s.cur) a).toNat 32 →
      monComing s (tileOf s.cur) i = false →
      (∀ bs m, bs = localBytes s (gOf (thr s s.cur) a).toNat 32 → m = parseArm (ctxOf s.cur) bs →
        (armBad (thr s s.cur) bs m = true → WritesG (.monArm d a b) 2 d (status 3) s) ∧
        (armBad (thr s s.cur) bs m = false → ∃ t, exec (.monArm d a b) s = .next t ∧ PcBy 2 s t ∧ ArmFrame i s t ∧
          (∃ w ∈ (thr t s.cur).cwords, w.wid = (thr s s.cur).kn ∧ w.retired = false) ∧
          find (tile t (tileOf s.cur)).mons i = some { m with dst := d, wid := (thr s s.cur).kn })))) ∧
  ∀ tl m, find (tile s tl).mons i = some m → m.scan < m.count → ∃ t y, t = scanStep tl i s ∧ find (tile t tl).mons i = some y ∧
    y.scan = m.scan + 1 ∧ y.acc = m.acc + (fieldVal (tile s tl) m m.scan).getD 0 ∧
    y.nf = m.nf + (if fieldVal (tile s tl) m m.scan = none then 1 else 0) ∧
    (m.scan + 1 = m.count → occupied s (tl * 6 + m.owner) = true → gOf (thr t (tl * 6 + m.owner)) m.dst = 0)

/-- R473: the statuses and effects of NODE.POST and NODE.DONE. The check of a record (R470) is the function nodeRecGood. That a node which no die can hold is found when it becomes ready, and then ends its launch with status 2, is a choice of the model (DEDUCED, log entry 39). -/
def Obligations.NodeWords : Prop := ∀ (s : State) (d a b l : Nat), occupied s s.cur = true → isTiller s.cur = false → (thr s s.cur).far = [] → (thr s s.cur).replay.mode = 0 →
  l = (thr s s.cur).id.launch →
  (Readable s (gOf (thr s s.cur) a).toNat 64 → ∀ bs, bs = localBytes s (gOf (thr s s.cur) a).toNat 64 →
    (1024 ≤ (gOf (thr s s.cur) b).toNat ∨ nodeRecGood bs = false ∨ field bs 20 2 ≠ 0 → WritesG (.nodePost d a b) 2 d (status 2) s) ∧
    ((gOf (thr s s.cur) b).toNat < 1024 → nodeRecGood bs = true → field bs 20 2 = 0 →
      ((launch s l).npost ≤ (launch s l).posted → WritesG (.nodePost d a b) 2 d (status 1) s) ∧
      ((launch s l).posted < (launch s l).npost → (find s.launches l).isSome = true →
        ∃ t, exec (.nodePost d a b) s = .next t ∧ PcBy 2 s t ∧ GWritten d (BitVec.ofNat 64 ((launch s l).nnodes + (launch s l).posted)) s t ∧
          NodeFrame d s t ∧ (launch t l).posted = (launch s l).posted + 1 ∧
          ∃ n, find (launch t l).nodes ((launch s l).nnodes + (launch s l).posted) = some n ∧ n.awaiting = (gOf (thr s s.cur) b).toNat ∧
            n.nrec = parseNode bs ∧ n.posted = true ∧ n.st =
              if gOf (thr s s.cur) b ≠ 0 then .waiting else if holdable s (launch s l).part (parseNode bs) = true then .ready else .complete))) ∧
  ((∀ n, find (launch s l).nodes (gOf (thr s s.cur) a).toNat = some n → n.posted = false ∨ n.awaiting = 0) → WritesG (.nodeDone d a) 2 d (status 3) s) ∧
  (∀ n, find (launch s l).nodes (gOf (thr s s.cur) a).toNat = some n → n.posted = true → 0 < n.awaiting → n.st = .waiting →
    ∃ t, exec (.nodeDone d a) s = .next t ∧ PcBy 2 s t ∧ GWritten d 0 s t ∧ NodeFrame d s t ∧
      find (launch t l).nodes (gOf (thr s s.cur) a).toNat = some { n with awaiting := n.awaiting - 1, st := (
        if 1 < n.awaiting then .waiting else if holdable s (launch s l).part n.nrec = true then .ready else .complete) })

/-- R430, R431, R432, R426, R447: what a tiller reads and writes of the thread it holds. R433 to R436: how a tiller lets the thread it holds go on, kills it, arrives for it, or hands it to the supervisor. -/
def Obligations.FrozenThreadWords : Prop := (∀ (s : State) (d a b f c i j : Nat) (v : Word), gOf (thr s s.cur) b = sel c i j → c < 16 → i < 4096 → j < 65536 →
  (Holds s f → item (thr s f) c i j = some v → WritesG (.frzRd d 0 b) 2 d v s) ∧
  (Holds s f → item (thr s f) c i j = some v → c < 8 → ∃ t, exec (.frzWr d 0 b) s = .next t ∧ PcBy 2 s t ∧ GWritten d 0 s t ∧ GKeep [d] (thr s s.cur) (thr t s.cur) ∧
    item (thr t f) c i j = some (if (c = 1 ∨ c = 2) ∧ (i = 0 ∨ look 0 (thr s f).replied (if c = 1 then i else 64 + i) = s.clock.now + 1) then v else if c < 4 then gOf (thr s s.cur) d else (((gOf (thr s s.cur) d).truncate 32).zeroExtend 64)) ∧
    (∀ c' i' j', (c', i', j') ≠ (c, i, j) → item (thr t f) c' i' j' = item (thr s f) c' i' j') ∧
    (∀ u, u ≠ s.cur → u ≠ f → thr t u = thr s u) ∧ LocalKeep s t ∧ OuterKeep s t ∧ WorkUnits s t ∧ Module s t) ∧
  (occupied s s.cur = true → isTiller s.cur = true → Free (thr s s.cur) 15 → ((thr s s.cur).capValid = false ∨ (thr s s.cur).tillerOf = none ∨ a ≠ 0) →
    ∀ w ∈ [Instr.frzRd d a b, .frzWr d a b, .frzRes d a, .frzKill d a, .frzArr d a b, .frzEsc d a], WritesG w 2 d (status 1) s) ∧
  (occupied s s.cur = true → isTiller s.cur = false → s.strm = 0 → (thr s s.cur).frz = none → (thr s s.cur).replay.mode = 0 →
    ∀ w ∈ [Instr.frzRd d a b, .frzWr d a b, .frzRes d a, .frzKill d a, .frzArr d a b, .frzEsc d a],
      ∃ t, exec w s = .next t ∧ Faulted 4 0 false 9 0 s t ∧ Stands s t ∧ InsideButFreeze s t ∧ LocalKeep s t ∧ OuterKeep s t)) ∧
  (∀ (s : State) (d b f : Nat) (z : Freeze), Holds s f → (thr s f).frz = some z → z.tiller = some (ctxOf s.cur) → tileOf f = tileOf s.cur →
  ((∀ r ∈ (thr s s.cur).far, r.done = true) → (thr s f).held = [] → (∀ e ∈ (part s (thr s f).id.part).colls, e.2.heldFault = none) → z.pending = 0 →
    ∃ t, exec (.frzRes d 0) s = .next t ∧ PcBy 2 s t ∧ GWritten d 0 s t ∧ GKeep [d] (thr s s.cur) (thr t s.cur) ∧ (thr t s.cur).capValid = false ∧
      (thr t f).frz = none ∧ (thr t f).c = (thr s f).c ∧ (thr t f).e = (thr s f).e ∧ LocalKeep s t ∧ OuterKeep s t) ∧
  (isTiller f = false → (thr s f).dying = false → fatalNode s f = false →
    ∃ t, exec (.frzKill d 0) s = .next t ∧ PcBy 2 s t ∧ GWritten d 0 s t ∧ GKeep [d] (thr s s.cur) (thr t s.cur) ∧ (thr t s.cur).capValid = false ∧
      ((thr t f).dying = true ∨ occupied t f = false) ∧ (thr s f).id.member ∉ (team t (thr s f).id.team).live ∧ LocalKeep s t ∧ OuterKeep s t) ∧
  (7 < (gOf (thr s s.cur) b).toNat → WritesG (.frzArr d 0 b) 2 d (status 4) s) ∧
  ((gOf (thr s s.cur) b).toNat ≤ 7 →
    ((gOf (thr s s.cur) b).toNat ∈ (thr s f).arrivals → WritesG (.frzArr d 0 b) 2 d (status 6) s) ∧
    ((gOf (thr s s.cur) b).toNat ∉ (thr s f).arrivals → (∀ r ∈ (thr s s.cur).far, r.done = true) → (∀ r ∈ (thr s f).far, r.done = true) →
      ∃ t, exec (.frzArr d 0 b) s = .next t ∧ PcBy 2 s t ∧ GWritten d 0 s t ∧ GKeep [d] (thr s s.cur) (thr t s.cur) ∧
        (gOf (thr s s.cur) b).toNat ∈ (thr t f).arrivals ∧ (thr t f).c = (thr s f).c ∧ LocalKeep s t ∧ OuterKeep s t)) ∧
  (isTiller f = false → (thr s f).dying = false → fatalNode s f = false → (part s (thr s f).id.part).regs.escpol = false →
    ∃ t, exec (.frzEsc d 0) s = .next t ∧ PcBy 2 s t ∧ GWritten d 0 s t ∧ (thr t s.cur).capValid = false ∧ Msg.escalation f ∈ t.out ∧
      ((thr t f).dying = true ∨ occupied t f = false) ∧ LocalKeep s t ∧ OuterKeep s t))

/-- R172, R176, R178, R179, R181, R182, R183: each floating word forms its lanes exactly and rounds them, in the unit and with the
latency of R172. R177: the fused words round a product and an addend once. -/
def Obligations.FloatingVectorWords : Prop := (∀ (i : Instr) (s : State) (u l d : Nat) (wb : Bool) (f : Nat → Lane),
  floating (thr s s.cur) i = some (u, l, wb, d, f) → occupied s s.cur = true → Flies i {} u l wb d f s) ∧
  (∀ (i : Instr) (s : State) (ty : VTy) (wb np nz : Bool) (d a b c : Nat),
  fused i = some (ty, wb, d, a, b, c, np, nz) → occupied s s.cur = true →
  Flies i {} 1 4 wb d (fun n => BitVec.ofNat 32 (roundTo (fmtOf ty) (exactSum [flipIf np (prod (elemOf (thr s s.cur) ty a n) (elemOf (thr s s.cur) ty b n)),
    flipIf nz (elemOf (thr s s.cur) ty c n)]))) s)

/-- R180, R188: the lanes of the integer words. -/
def Obligations.IntegerVectorWords : Prop := ∀ (i : Instr) (s : State) (u l d : Nat) (wb : Bool) (f : Nat → Lane),
  integer (thr s s.cur) i = some (u, l, wb, d, f) → occupied s s.cur = true → Flies i {} u l wb d f s

/-- R185, R186, R187, R188, R194, R81: VSEL, the permute unit, VPASS and VNOP. -/
def Obligations.PermuteVectorWords : Prop := (∀ (i : Instr) (s : State) (u l d : Nat) (wb : Bool) (f : Nat → Lane),
  permute (thr s s.cur) i = some (u, l, wb, d, f) → occupied s s.cur = true → Flies i {} u l wb d f s) ∧
(∀ (s : State) (wb : Bool) (d a : Nat) (tk : Tok), occupied s s.cur = true → TokenFree s tk →
  Flies (.vpass wb d a tk) tk 0 1 wb d (fun n => src (thr s s.cur) a n) s) ∧
∀ (s : State), occupied s s.cur = true → ∃ t, exec .vnop s = .next t ∧ EngFrame 1 s t ∧ FlyOnly s t ∧ TileMemory s t ∧
  (thr t s.cur).fly = (thr s s.cur).fly

/-- R184: the predicate of a vector compare. -/
def Obligations.VectorCompares : Prop := ∀ (i : Instr) (s : State) (p : Nat) (f : Nat → Bool), vCompare (thr s s.cur) i = some (p, f) → occupied s s.cur = true →
  ∃ t q, exec i s = .next t ∧ EngFrame 2 s t ∧ FlyOnly s t ∧ TileMemory s t ∧ (thr t s.cur).fly = (thr s s.cur).fly ++ [q] ∧
    q.pred = some p ∧ q.latch = none ∧ q.wb = false ∧ q.due = s.clock.now / 2 + 1 ∧ ∀ n, n < 64 → q.mask.getLsbD n = f n

/-- R189, R190, R191: rows of local memory. -/
def Obligations.RowLoadsAndStores : Prop := (∀ (i : Instr) (s : State) (wb : Bool) (d g step cls e : Nat) (tk : Tok), rowLoad i = some (wb, d, g, step, cls, tk, e) → occupied s s.cur = true → s.strm = 1 →
  TokenFree s tk → rowAt s g step % e = 0 → Allocated (thr s s.cur) (rowAt s g step) (64 * e) → Clean (tile s (tileOf s.cur)) (rowAt s g step) (64 * e) →
  Flies i tk 3 6 wb d (fun n => BitVec.ofNat 32 (leNat ((upFrom 0 e).map fun k => readByte (tile s (tileOf s.cur)).mem (rowAt s g step + e * n + k)))) s) ∧
∀ (i : Instr) (s : State) (p v g step cls e : Nat) (tk : Tok), rowStore i = some (p, v, g, step, cls, tk, e) → occupied s s.cur = true → s.strm = 1 →
  TokenFree s tk → rowAt s g step % e = 0 → Allocated (thr s s.cur) (rowAt s g step) (64 * e) → Clean (tile s (tileOf s.cur)) (rowAt s g step) (64 * e) →
  ∃ t, exec i s = .next t ∧ EngFrame 2 s t ∧ Tokens s.strm tk (thr s s.cur) (thr t s.cur) ∧ FlyOnly s t ∧ (thr t s.cur).fly = (thr s s.cur).fly ∧
    (∀ m x, (m = tileOf s.cur → x < rowAt s g step ∨ rowAt s g step + 64 * e ≤ x) → readByte (tile t m).mem x = readByte (tile s m).mem x) ∧
    ∀ n k, n < 64 → k < e → readByte (tile t (tileOf s.cur)).mem (rowAt s g step + e * n + k) =
      if (pOf (thr s s.cur) p).getLsbD n then (lane (vOf (thr s s.cur) v) n).extractLsb' (8 * k) 8 else readByte (tile s (tileOf s.cur)).mem (rowAt s g step + e * n + k)

/-- R192: how a long gather or scatter begins, goes on element by element, and ends. -/
def Obligations.GathersAndScatters : Prop := ∀ (s : State) (d g vi cls a : Nat) (tk : Tok) (c : Call), occupied s s.cur = true → s.strm = 1 → (engOf (thr s s.cur) 1).call = some c →
  (c.held = false → TokenFree s tk → a = ((gOf (thr s s.cur) g).toNat + 4 * (lane (vOf (thr s s.cur) vi) 0).toNat) % 2 ^ 64 → a % 4 = 0 →
    Allocated (thr s s.cur) a 4 → Clean (tile s (tileOf s.cur)) a 4 → c.prog = 0 →
    (∃ t e, exec (.vgath d g vi cls tk) s = .next t ∧ Stands s t ∧ LocalKeep s t ∧ OuterKeep s t ∧ OtherThreads s t ∧ Tokens 1 tk (thr s s.cur) (thr t s.cur) ∧
      (engOf (thr t s.cur) 1).call = some e ∧ e.held = true ∧ e.prog = 1 ∧ e.mpc = c.mpc ∧ e.snapA = vOf (thr s s.cur) vi ∧
      e.got = [leLane (readBytes (tile s (tileOf s.cur)).mem a 4)]) ∧
    ∃ t e, exec (.vscat d g vi cls tk) s = .next t ∧ Stands s t ∧ LocalOutside (tileOf s.cur) a 4 s t ∧ OuterKeep s t ∧ OtherThreads s t ∧ Tokens 1 tk (thr s s.cur) (thr t s.cur) ∧
      (engOf (thr t s.cur) 1).call = some e ∧ e.held = true ∧ e.prog = 1 ∧ e.mpc = c.mpc ∧ e.snapB = vOf (thr s s.cur) d ∧
      ∀ k, k < 4 → readByte (tile t (tileOf s.cur)).mem (a + k) = (lane (vOf (thr s s.cur) d) 0).extractLsb' (8 * k) 8) ∧
  (c.held = true → 1 ≤ c.prog → c.prog < 63 → a = (c.base + 4 * (lane c.snapA c.prog).toNat) % 2 ^ 64 → a % 4 = 0 →
    Allocated (thr s s.cur) a 4 → Clean (tile s (tileOf s.cur)) a 4 →
    (∃ t e, exec (.vgath d g vi cls tk) s = .next t ∧ LongKept s t ∧ LocalKeep s t ∧ (engOf (thr t s.cur) 1).call = some e ∧
      e = { c with prog := c.prog + 1, got := e.got } ∧ e.got = c.got ++ [leLane (readBytes (tile s (tileOf s.cur)).mem a 4)]) ∧
    ∃ t e, exec (.vscat d g vi cls tk) s = .next t ∧ LongKept s t ∧ LocalOutside (tileOf s.cur) a 4 s t ∧
      (engOf (thr t s.cur) 1).call = some e ∧ e = { c with prog := c.prog + 1 } ∧
      ∀ k, k < 4 → readByte (tile t (tileOf s.cur)).mem (a + k) = (lane c.snapB c.prog).extractLsb' (8 * k) 8) ∧
  (c.held = true → c.prog = 63 → a = (c.base + 4 * (lane c.snapA 63).toNat) % 2 ^ 64 → a % 4 = 0 → Allocated (thr s s.cur) a 4 → Clean (tile s (tileOf s.cur)) a 4 →
    (∃ t q, exec (.vgath d g vi cls tk) s = .next t ∧ EngFrame 2 s t ∧ FlyOnly s t ∧ TileMemory s t ∧ (thr t s.cur).fly = (thr s s.cur).fly ++ [q] ∧
      q.latch = some 3 ∧ q.reg = d ∧ q.wb = true ∧ q.due = s.clock.now / 2 + 7 ∧ q.row = c.got ++ [leLane (readBytes (tile s (tileOf s.cur)).mem a 4)]) ∧
    ∃ t q, exec (.vscat d g vi cls tk) s = .next t ∧ EngFrame 2 s t ∧ FlyOnly s t ∧ (thr t s.cur).fly = (thr s s.cur).fly ++ [q] ∧
      q.wid = c.wid ∧ q.latch = none ∧ q.wb = false ∧ q.pred = none ∧ q.due = s.clock.now / 2 + 1 ∧ LocalOutside (tileOf s.cur) a 4 s t ∧
      ∀ k, k < 4 → readByte (tile t (tileOf s.cur)).mem (a + k) = (lane c.snapB 63).extractLsb' (8 * k) 8)

/-- R255, R256, R257, R260, R81: what the set-up words of the matrix engine change. -/
def Obligations.MatrixSetupWords : Prop := ∀ (s : State) (tk : Tok), occupied s s.cur = true → s.strm = 2 → TokenFree s tk →
  (∀ g cls, Readable s (gOf (thr s s.cur) g).toNat 128 → ∃ t q, exec (.mlnt g cls tk) s = .next t ∧ EngFrame 2 s t ∧ Tokens 2 tk (thr s s.cur) (thr t s.cur) ∧
    TileMemory s t ∧ NotMatrix (thr s s.cur) (thr t s.cur) ∧ AccKeep (thr s s.cur) (thr t s.cur) ∧ (thr t s.cur).nest = (thr s s.cur).nest ∧
    (thr t s.cur).shadow = { (thr s s.cur).shadow with table := localBytes s (gOf (thr s s.cur) g).toNat 128, loaded := true } ∧
    (thr t s.cur).fly = (thr s s.cur).fly ++ [q] ∧ q.latch = none ∧ q.wb = false ∧ q.pred = none ∧ q.due = s.clock.now / 2 + 2) ∧
  (∀ fmt grp qu, ∃ t, exec (.mcfg fmt grp qu tk) s = .next t ∧ EngFrame 2 s t ∧ Tokens 2 tk (thr s s.cur) (thr t s.cur) ∧ TileMemory s t ∧
    NotMatrix (thr s s.cur) (thr t s.cur) ∧ AccKeep (thr s s.cur) (thr t s.cur) ∧ (thr t s.cur).nest = (thr s s.cur).nest ∧ (thr t s.cur).fly = (thr s s.cur).fly ∧
    (thr t s.cur).shadow = { (thr s s.cur).shadow with fmt := fmt.code, grp := grp, queue := qu }) ∧
  (∀ g, ∃ t, exec (.mzp g tk) s = .next t ∧ EngFrame 2 s t ∧ Tokens 2 tk (thr s s.cur) (thr t s.cur) ∧ TileMemory s t ∧
    NotMatrix (thr s s.cur) (thr t s.cur) ∧ AccKeep (thr s s.cur) (thr t s.cur) ∧ (thr t s.cur).nest = (thr s s.cur).nest ∧ (thr t s.cur).fly = (thr s s.cur).fly ∧
    (thr t s.cur).shadow = { (thr s s.cur).shadow with
      za := (gOf (thr s s.cur) g).toNat % 65536, zb := (gOf (thr s s.cur) g).toNat / 65536 % 65536 }) ∧
  (∀ a n, (thr s s.cur).nest = some n → (nestSets n.cfg n.set).testBit a = true → ∃ t, exec (.mclr a tk) s = .next t ∧ Stands s t ∧ Inside s t ∧ Outside s t) ∧
  (∀ a, (∀ n, (thr s s.cur).nest = some n → (nestSets n.cfg n.set).testBit a = false) → ∃ t q, exec (.mclr a tk) s = .next t ∧ EngFrame 2 s t ∧
    Tokens 2 tk (thr s s.cur) (thr t s.cur) ∧ TileMemory s t ∧ NotMatrix (thr s s.cur) (thr t s.cur) ∧ (thr t s.cur).nest = (thr s s.cur).nest ∧ (thr t s.cur).shadow = (thr s s.cur).shadow ∧ (thr t s.cur).fly = (thr s s.cur).fly ++ [q] ∧ q.due = s.clock.now / 2 + 4 ∧
    ∀ b i j, i < 64 → j < 128 → accOf (thr t s.cur) b i j = if b = a then 0 else accOf (thr s s.cur) b i j) ∧
  ∃ t, exec .mnop s = .next t ∧ EngFrame 1 s t ∧ TileMemory s t ∧ FlyOnly s t ∧ (thr t s.cur).fly = (thr s s.cur).fly

/-- R240, R244, R246, R247, R253, R258, R259, R262: how a nest starts, and what MWAIT and MTEST do. `nextNest` is the nest that has waited for the array longest
(R240; that it precedes an MGO that waits no longer is log entry 80). -/
def Obligations.MatrixNestWords : Prop := ∀ (s : State) (tk : Tok) (c : Call), occupied s s.cur = true → s.strm = 2 → TokenFree s tk → (engOf (thr s s.cur) 2).call = some c →
  (∀ a cls, (∀ w ∈ (engOf (thr s s.cur) 2).words, w.retired = true) →
    (nestBad (thr s s.cur).shadow = false → (tile s (tileOf s.cur)).arr.off = false →
      ((tile s (tileOf s.cur)).arr.occupant = none → (thr s s.cur).nest = none → nextNest s (tileOf s.cur) = none →
        nestFault s (thr s s.cur).shadow = none → ∃ t n, exec (.mgo a cls tk) s = .next t ∧ EngFrame 2 s t ∧ Tokens 2 tk (thr s s.cur) (thr t s.cur) ∧ LocalKeep s t ∧
          NotMatrix (thr s s.cur) (thr t s.cur) ∧ AccKeep (thr s s.cur) (thr t s.cur) ∧ (thr t s.cur).shadow = (thr s s.cur).shadow ∧ (thr t s.cur).fly = (thr s s.cur).fly ∧
          (thr t s.cur).nest = some n ∧ n.cfg = (thr s s.cur).shadow ∧ n.set = a ∧ n.p = 0 ∧ n.total = nestSteps (thr s s.cur).shadow ∧ n.cls = cls ∧
          n.phase = .start ∧ n.due = s.clock.now / 2 + 12 ∧ (thr t s.cur).steps = 0 ∧
          (tile t (tileOf s.cur)).arr = { (tile s (tileOf s.cur)).arr with occupant := some (ctxOf s.cur), asked := none }) ∧
      ((tile s (tileOf s.cur)).arr.occupant ≠ none ∨ (thr s s.cur).nest ≠ none ∨ nextNest s (tileOf s.cur) ≠ none → ∃ t x, exec (.mgo a cls tk) s = .next t ∧ Stands s t ∧ Inside s t ∧
        LocalKeep s t ∧ OuterKeep s t ∧ OtherThreads s t ∧ (tile t (tileOf s.cur)).arr = { (tile s (tileOf s.cur)).arr with asked := some (ctxOf s.cur, x) })) ∧
    (nestBad (thr s s.cur).shadow = true → (thr s s.cur).frz = none → (thr s s.cur).replay.mode ≠ 2 →
      ∃ t, exec (.mgo a cls tk) s = .next t ∧ Faulted 4 2 false 8 0 s t ∧ Stands s t ∧ InsideButFreeze s t ∧ LocalKeep s t ∧ OuterKeep s t) ∧
    (nestBad (thr s s.cur).shadow = false → (tile s (tileOf s.cur)).arr.off = true → (thr s s.cur).frz = none → (thr s s.cur).replay.mode ≠ 2 →
      ∃ t, exec (.mgo a cls tk) s = .next t ∧ Faulted 8 2 false (BitVec.ofNat 64 (3 * 256 + 1024 + c.mpc % 65536 * 65536 + c.entry.cmd.toNat * 2 ^ 32)) 0 s t ∧
        Stands s t ∧ InsideButFreeze s t ∧ LocalKeep s t ∧ OuterKeep s t)) ∧
  ((thr s s.cur).nest = none → ∃ t, exec (.mwait tk) s = .next t ∧ EngFrame 2 s t ∧ Tokens 2 tk (thr s s.cur) (thr t s.cur) ∧ TileMemory s t ∧ FlyOnly s t ∧
    (thr t s.cur).fly = (thr s s.cur).fly) ∧
  ((thr s s.cur).nest ≠ none → ∃ t, exec (.mwait tk) s = .next t ∧ Stands s t ∧ Inside s t ∧ Outside s t) ∧
  (c.held = false → (tile s (tileOf s.cur)).arr.occupant = none → ∃ t e, exec (.mtest tk) s = .next t ∧ Stands s t ∧ LocalKeep s t ∧ OuterKeep s t ∧ OtherThreads s t ∧
    (tile t (tileOf s.cur)).arr = { (tile s (tileOf s.cur)).arr with occupant := some (ctxOf s.cur) } ∧
    (engOf (thr t s.cur) 2).call = some e ∧ e.held = true ∧ e.mpc = c.mpc ∧ e.base = s.clock.now / 2 + 16) ∧
  (c.held = false → (tile s (tileOf s.cur)).arr.occupant ≠ none → ∃ t, exec (.mtest tk) s = .next t ∧ Stands s t ∧ Inside s t ∧ Outside s t) ∧
  (c.held = true → s.clock.now / 2 < c.base → ∃ t, exec (.mtest tk) s = .next t ∧ Stands s t ∧ Inside s t ∧ Outside s t) ∧
  (c.held = true → c.base ≤ s.clock.now / 2 → ∃ t, exec (.mtest tk) s = .next t ∧ EngFrame 2 s t ∧ LocalKeep s t ∧
    FlyOnly s t ∧ (thr t s.cur).fly = (thr s s.cur).fly ∧ (tile t (tileOf s.cur)).arr.occupant = none ∧
    (tile t (tileOf s.cur)).arr.tests = min 65535 ((tile s (tileOf s.cur)).arr.tests + 1) ∧ ((tile s (tileOf s.cur)).arr.bad = [] →
    (tile t (tileOf s.cur)).arr = { (tile s (tileOf s.cur)).arr with occupant := none, tests := min 65535 ((tile s (tileOf s.cur)).arr.tests + 1) }))

/-- R261, R263, R312: what MEMIT writes and what MRD reads. Where a row of more than 256 bytes is cut is log entry 81. -/
def Obligations.MatrixResultWords : Prop := ∀ (s : State) (tk : Tok) (c : Call) (a : Nat), occupied s s.cur = true → s.strm = 2 → (engOf (thr s s.cur) 2).call = some c →
  (∀ n, (thr s s.cur).nest = some n → (nestSets n.cfg n.set).testBit a = true → TokenFree s tk →
    (∀ g out cls, c.held = false → ∃ t, exec (.memit g a out cls tk) s = .next t ∧ Stands s t ∧ Inside s t ∧ Outside s t) ∧
    ∀ wb d row half, ∃ t, exec (.mrd wb d a row half tk) s = .next t ∧ Stands s t ∧ Inside s t ∧ Outside s t) ∧
  ((∀ n, (thr s s.cur).nest = some n → (nestSets n.cfg n.set).testBit a = false) →
    (∀ g out cls base part row e, out < 3 → e = (if out = 0 then 4 else 2) → (tile s (tileOf s.cur)).poison = [] →
      (c.held = false ∧ TokenFree s tk ∧ base = (gOf (thr s s.cur) g).toNat ∧ part = 0 ∧ row = 0 ∧ base % e = 0 ∧
        Allocated (thr s s.cur) base ((thr s s.cur).emitRows * (thr s s.cur).emitCols * e) ∨ c.held = true ∧ base = c.base ∧ part = c.part ∧ row = c.prog) →
      row < (thr s s.cur).emitRows →
      ∃ t, exec (.memit g a out cls tk) s = .next t ∧ Stands s t ∧ OuterKeep s t ∧ OtherThreads s t ∧ AccKeep (thr s s.cur) (thr t s.cur) ∧
        (c.held = false → Tokens 2 tk (thr s s.cur) (thr t s.cur)) ∧ PieceEmitted a row out base part (min 256 ((thr s s.cur).emitCols * e - part)) s t ∧
        (256 < (thr s s.cur).emitCols * e - part → ∃ d, (engOf (thr t s.cur) 2).call = some d ∧ d.held = true ∧ d.prog = row ∧ d.part = part + 256 ∧ d.base = base ∧ d.mpc = c.mpc) ∧
        ((thr s s.cur).emitCols * e - part ≤ 256 → row + 1 < (thr s s.cur).emitRows →
          ∃ d, (engOf (thr t s.cur) 2).call = some d ∧ d.held = true ∧ d.prog = row + 1 ∧ d.part = 0 ∧ d.base = base ∧ d.mpc = c.mpc) ∧
        ((thr s s.cur).emitCols * e - part ≤ 256 → row + 1 = (thr s s.cur).emitRows → EngFrame 2 s t ∧ FlyOnly s t ∧ (thr t s.cur).fly = (thr s s.cur).fly)) ∧
    (TokenFree s tk → ∀ d row half,
      (∃ t q, exec (.mrd true d a row half tk) s = .next t ∧ EngFrame 2 s t ∧ Tokens 2 tk (thr s s.cur) (thr t s.cur) ∧ FlyOnly s t ∧ TileMemory s t ∧
        (thr t s.cur).fly = (thr s s.cur).fly ++ [q] ∧ q.latch = none ∧ q.reg = d ∧ q.wb = true ∧ q.due = s.clock.now / 2 + 3 ∧
        ∀ n, n < 64 → lane q.row n = accOf (thr s s.cur) a row (64 * half + n)) ∧
      ((thr s s.cur).mq.bound = none → ∃ t, exec (.mrd false d a row half tk) s = .next t ∧ EngFrame 2 s t ∧ Tokens 2 tk (thr s s.cur) (thr t s.cur) ∧
        FlyOnly s t ∧ TileMemory s t ∧ (thr t s.cur).fly = (thr s s.cur).fly) ∧
      ∀ b, (thr s s.cur).mq.bound = some b →
        (16 ≤ (thr s s.cur).mq.result.length → ∃ t, exec (.mrd false d a row half tk) s = .next t ∧ Stands s t ∧ Inside s t ∧ Outside s t) ∧
        (b.credits < 256 → (thr s s.cur).mq.result.length < 16 →
          ∃ t r, exec (.mrd false d a row half tk) s = .next t ∧ EngFrame 2 s t ∧ Tokens 2 tk (thr s s.cur) (thr t s.cur) ∧ TileMemory s t ∧ t.packets = s.packets ∧
            (thr t s.cur).mq = { (thr s s.cur).mq with result := (thr s s.cur).mq.result ++ [r] } ∧
            ∀ n, n < 64 → lane r n = accOf (thr s s.cur) a row (64 * half + n)) ∧
        (256 ≤ b.credits → (thr s s.cur).mq.result = [] → stopped s (.router (tileOf s.cur)) (portLink (ctxOf s.cur)) = false →
          ∃ t p, exec (.mrd false d a row half tk) s = .next t ∧ EngFrame 2 s t ∧ Tokens 2 tk (thr s s.cur) (thr t s.cur) ∧ LocalKeep s t ∧ OuterKeep s t ∧
            t.packets = s.packets ++ [p] ∧ p.dkind = 2 ∧ p.flow = b.flow ∧ p.seq = b.seq ∧ p.len = 4 ∧ p.dtile = tileOf b.peer ∧ p.dctx = ctxOf b.peer ∧
            (thr t s.cur).mq = { (thr s s.cur).mq with result := [], bound := some { b with credits := b.credits - 256, seq := b.seq + 1 } } ∧
            ∀ n, n < 64 → leNat (((p.data.getD (n / 16) {}).bytes.drop (n % 16 * 4)).take 4) = (accOf (thr s s.cur) a row (64 * half + n)).toNat)))

/-- R269 to R272, R278 to R280: how a copy starts and what KWAIT does. The checks of a control block (R271, R272) are the functions
blockFault and copyFault. -/
def Obligations.CopyWords : Prop := ∀ (s : State) (tk : Tok), occupied s s.cur = true → QueueFree s → TokenFree s tk →
  (∀ i kind g k nr cls b c, copyOp i = some (kind, g, k, nr, cls, tk) → kOf (thr s s.cur) k ≠ .busy → Readable s (gOf (thr s s.cur) g).toNat 64 →
    b = localBytes s (gOf (thr s s.cur) g).toNat 64 → c = parseCopy b s.strm kind k nr cls (gOf (thr s s.cur) g).toNat →
    blockFault s (thr s s.cur).id.part b c = none →
    (field b 48 4 * field b 52 4 * field b 56 4 * field b 60 4 = 0 → field b 4 1 = 255 →
      ∃ t, exec i s = .next t ∧ EngFrame 2 s t ∧ Tokens s.strm tk (thr s s.cur) (thr t s.cur) ∧ NotCopies (thr s s.cur) (thr t s.cur) ∧ TileMemory s t ∧
        (thr t s.cur).copies = (thr s s.cur).copies ∧ ∀ n, kOf (thr t s.cur) n = if n = k then .done else kOf (thr s s.cur) n) ∧
    (field b 48 4 * field b 52 4 * field b 56 4 * field b 60 4 = 0 → field b 4 1 ≠ 255 →
      ∃ t d, exec i s = .next t ∧ EngFrame 2 s t ∧ Tokens s.strm tk (thr s s.cur) (thr t s.cur) ∧ NotCopies (thr s s.cur) (thr t s.cur) ∧ TileMemory s t ∧
        (thr t s.cur).copies = (thr s s.cur).copies ++ [d] ∧ d.k = k ∧ d.bar = field b 4 1 ∧ d.issued = true ∧ d.arrived = true ∧
        ∀ n, kOf (thr t s.cur) n = if n = k then .busy else kOf (thr s s.cur) n) ∧
    (field b 48 4 * field b 52 4 * field b 56 4 * field b 60 4 ≠ 0 → copyFault s (thr s s.cur).id.part c = none →
      ((thr s s.cur).replay.mode = 0 ∨ (thr s s.cur).replay.mode = 2 ∧ (nr = 0 ∨ kind = 2)) →
      ∃ t d, exec i s = .next t ∧ EngFrame 2 s t ∧ Tokens s.strm tk (thr s s.cur) (thr t s.cur) ∧ NotCopies (thr s s.cur) (thr t s.cur) ∧ LocalKeep s t ∧
        (thr t s.cur).copies = (thr s s.cur).copies ++ [d] ∧ (∀ n, kOf (thr t s.cur) n = if n = k then .busy else kOf (thr s s.cur) n) ∧
        d.stream = s.strm ∧ d.kind = kind ∧ d.k = k ∧ d.nr = nr ∧ d.cls = cls ∧ d.shnd = field b 0 2 ∧ d.dhnd = field b 2 2 ∧ d.bar = field b 4 1 ∧
        d.laddr = field b 8 8 ∧ d.ext = [field b 48 4, field b 52 4, field b 56 4, field b 60 4] ∧ d.row = 0 ∧ d.slot = 0 ∧ d.issued = false)) ∧
  (∀ i kind g k nr cls, copyOp i = some (kind, g, k, nr, cls, tk) →
    (kOf (thr s s.cur) k = .busy → ∃ t, exec i s = .next t ∧ Stands s t ∧ Inside s t ∧ Outside s t) ∧
    ∀ b r off, kOf (thr s s.cur) k ≠ .busy → r = (gOf (thr s s.cur) g).toNat → Readable s r 64 → b = localBytes s r 64 →
      blockFault s (thr s s.cur).id.part b (parseCopy b s.strm kind k nr cls r) = some off → (thr s s.cur).frz = none → (thr s s.cur).replay.mode ≠ 2 →
      ∃ t, exec i s = .next t ∧ Faulted 2 s.strm false (BitVec.ofNat 64 (0xFFFF + 2 ^ 18 + off * 2 ^ 24)) (gOf (thr s s.cur) g) s t ∧ Stands s t ∧
        InsideButFreeze s t ∧ LocalKeep s t ∧ OuterKeep s t) ∧
  (∀ mask, (∀ n, n < 8 → mask.testBit n = true → kOf (thr s s.cur) n ≠ .busy) → ∃ t, exec (.kwait mask tk) s = .next t ∧ EngFrame 2 s t ∧
    Tokens s.strm tk (thr s s.cur) (thr t s.cur) ∧ NotCopies (thr s s.cur) (thr t s.cur) ∧ TileMemory s t ∧ (thr t s.cur).copies = (thr s s.cur).copies ∧
    ∀ n, kOf (thr t s.cur) n = if n < 8 ∧ mask.testBit n = true then .idle else kOf (thr s s.cur) n) ∧
  (∀ mask n, n < 8 → mask.testBit n = true → kOf (thr s s.cur) n = .busy → ∃ t, exec (.kwait mask tk) s = .next t ∧ Stands s t ∧ Inside s t ∧ Outside s t) ∧
  ∀ i ∈ [Instr.lnop, Instr.snop], ∃ t, exec i s = .next t ∧ EngFrame 1 s t ∧ FlyOnly s t ∧ TileMemory s t ∧ (thr t s.cur).fly = (thr s s.cur).fly

/-- R211 to R215, R81: the words of the scatter-accumulate engine. -/
def Obligations.ScatterWords : Prop := ∀ (s : State) (tk : Tok) (c : Call) (w : Window), occupied s s.cur = true → s.strm = 5 → (engOf (thr s s.cur) 5).call = some c → w = (thr s s.cur).win →
  (c.held = false → TokenFree s tk → w.doing = [] → w.bad = none →
    (∀ i base v, ends w base i = some (tk, v) → (∀ g op ty cls k, i = .aopen g op ty cls k → base = (gOf (thr s s.cur) g).toNat ∧ base % (if ty.code = 2 then 2 else 4) = 0) →
      (w.list = [] → ∃ t, exec i s = .next t ∧ EngFrame 2 s t ∧ Tokens 5 tk (thr s s.cur) (thr t s.cur) ∧ NotWindow (thr s s.cur) (thr t s.cur) ∧
        TileMemory s t ∧ (thr t s.cur).win = v) ∧
      (∀ a x rest, w.list = (a, x) :: rest → rest.length < 32 → (tile s (tileOf s.cur)).poison = [] → ∃ t, exec i s = .next t ∧ Stands s t ∧ OtherThreads s t ∧
        OuterKeep s t ∧ Tokens 5 tk (thr s s.cur) (thr t s.cur) ∧ NotWindow (thr s s.cur) (thr t s.cur) ∧
        Combined w a (x :: (rest.filter fun y => y.1 = a).map Prod.snd) s t ∧
        ((∀ y ∈ rest, y.1 = a) → EngFrame 2 s t ∧ (thr t s.cur).win = v) ∧
        ((∃ y ∈ rest, y.1 ≠ a) → (∃ d, (engOf (thr t s.cur) 5).call = some d ∧ d.held = true ∧ d.base = base ∧ d.mpc = c.mpc) ∧
          (thr t s.cur).win.list = [] ∧ ∀ b, ((thr t s.cur).win.doing.filter fun y => y.1 = b).flatMap Prod.snd =
            if b = a then [] else (w.list.filter fun y => y.1 = b).map Prod.snd))) ∧
    (∀ g op ty cls, (gOf (thr s s.cur) g).toNat % (if ty.code = 2 then 2 else 4) ≠ 0 →
      (w.list = [] → (thr s s.cur).frz = none → (thr s s.cur).replay.mode ≠ 2 → ∃ t, exec (.aopen g op ty cls tk) s = .next t ∧ Faulted 3 5 false 1 (gOf (thr s s.cur) g) s t ∧ Stands s t ∧
        NotWindow (thr s s.cur) (thr t s.cur) ∧ (thr t s.cur).win = {} ∧ LocalKeep s t ∧ OuterKeep s t) ∧
      ∀ a x rest, w.list = (a, x) :: rest → (tile s (tileOf s.cur)).poison = [] → ∃ t, exec (.aopen g op ty cls tk) s = .next t ∧ Stands s t ∧
        NotWindow (thr s s.cur) (thr t s.cur) ∧ (thr t s.cur).eng = (thr s s.cur).eng ∧ Combined w a (x :: (rest.filter fun y => y.1 = a).map Prod.snd) s t) ∧
    (∀ vi vv, w.isOpen = false → (thr s s.cur).frz = none → (thr s s.cur).replay.mode ≠ 2 →
      ∃ t, exec (.apush vi vv tk) s = .next t ∧ Faulted 4 5 false 8 0 s t ∧ Stands s t ∧ InsideButFreeze s t ∧ LocalKeep s t ∧ OuterKeep s t) ∧
    (∀ vi vv e n a, w.isOpen = true → e = (if w.ty = 2 then 2 else 4) → c.prog = 0 → n < 32 → (∀ k, k < n → lane (vOf (thr s s.cur) vi) k = BitVec.allOnes 32) →
      lane (vOf (thr s s.cur) vi) n ≠ BitVec.allOnes 32 → a = (w.base + e * (lane (vOf (thr s s.cur) vi) n).toNat) % 2 ^ 64 → ¬ Allocated (thr s s.cur) a e →
      (thr s s.cur).frz = none → (thr s s.cur).replay.mode ≠ 2 → ∃ t, exec (.apush vi vv tk) s = .next t ∧ Faulted 3 5 false 2 (BitVec.ofNat 64 a) s t ∧ Stands s t ∧
        NotWindow (thr s s.cur) (thr t s.cur) ∧ (thr t s.cur).win = w ∧ LocalKeep s t ∧ OuterKeep s t) ∧
    ∀ vi vv e l, w.isOpen = true → e = (if w.ty = 2 then 2 else 4) → c.prog = 0 →
      l = ((upFrom 0 32).filter fun n => lane (vOf (thr s s.cur) vi) n ≠ BitVec.allOnes 32) → w.list.length + l.length < 32 →
      (∀ n ∈ l, Allocated (thr s s.cur) ((w.base + e * (lane (vOf (thr s s.cur) vi) n).toNat) % 2 ^ 64) e) →
      ∃ t d, exec (.apush vi vv tk) s = .next t ∧ Stands s t ∧ LocalKeep s t ∧ OuterKeep s t ∧ OtherThreads s t ∧ Tokens 5 tk (thr s s.cur) (thr t s.cur) ∧
        (engOf (thr t s.cur) 5).call = some d ∧ d.held = true ∧ d.prog = 32 ∧ d.mpc = c.mpc ∧
        (thr t s.cur).win = { w with list := w.list ++ l.map fun n =>
          ((w.base + e * (lane (vOf (thr s s.cur) vi) n).toNat) % 2 ^ 64, lane (vOf (thr s s.cur) vv) n) }) ∧
  (∀ g op ty cls b, w.bad = some b → w.doing = [] → (thr s s.cur).frz = none → (thr s s.cur).replay.mode ≠ 2 →
    ∃ t, exec (.aopen g op ty cls tk) s = .next t ∧ Faulted 3 5 false 1 (BitVec.ofNat 64 b) s t ∧ Stands s t ∧
      NotWindow (thr s s.cur) (thr t s.cur) ∧ (thr t s.cur).win = {} ∧ LocalKeep s t ∧ OuterKeep s t) ∧
  (c.held = true → w.bad = none → (∀ i base v, ends w base i = some (tk, v) → w.list = [] → (∀ g op ty cls k, i = .aopen g op ty cls k → base = c.base) →
      ∀ a vs rest, w.doing = (a, vs) :: rest → (tile s (tileOf s.cur)).poison = [] → ∃ t, exec i s = .next t ∧ Stands s t ∧ OtherThreads s t ∧ OuterKeep s t ∧
        NotWindow (thr s s.cur) (thr t s.cur) ∧ Combined w a vs s t ∧ (rest = [] → EngFrame 2 s t ∧ (thr t s.cur).win = v) ∧
        (rest ≠ [] → (thr t s.cur).win = { w with doing := rest } ∧ ∃ d, (engOf (thr t s.cur) 5).call = some d ∧ d.held = true ∧ d.base = c.base ∧ d.mpc = c.mpc)) ∧
    ∀ vi vv e l, w.doing = [] → c.prog = 32 → e = (if w.ty = 2 then 2 else 4) →
      l = ((upFrom 32 32).filter fun n => lane c.snapA n ≠ BitVec.allOnes 32) → w.list.length + l.length < 32 →
      (∀ n ∈ l, Allocated (thr s s.cur) ((w.base + e * (lane c.snapA n).toNat) % 2 ^ 64) e) →
      ∃ t, exec (.apush vi vv tk) s = .next t ∧ EngFrame 2 s t ∧ NotWindow (thr s s.cur) (thr t s.cur) ∧ TileMemory s t ∧
        (thr t s.cur).win = { w with list := w.list ++ l.map fun n => ((w.base + e * (lane c.snapA n).toNat) % 2 ^ 64, lane c.snapB n) }) ∧
  ∃ t, exec .anop s = .next t ∧ EngFrame 1 s t ∧ FlyOnly s t ∧ TileMemory s t ∧ (thr t s.cur).fly = (thr s s.cur).fly

/-- R310, R288, R305: what FSEND sends. The check of a template is the function headFault, and whether the port can take a packet portBusy.
That the data is read at issue is log entry 93. -/
def Obligations.FlowSends : Prop := ∀ (s : State) (a b cls n d : Nat) (tk : Tok) (h : List Byte), occupied s s.cur = true → s.strm = 6 → TokenFree s tk →
  Readable s (gOf (thr s s.cur) b).toNat 64 → h = localBytes s (gOf (thr s s.cur) b).toNat 64 → n = field h 16 1 → d = (gOf (thr s s.cur) a).toNat →
  (headFault s (thr s s.cur).id.part h = none → d % 64 = 0 → Allocated (thr s s.cur) d (64 * n) →
    (portBusy s s.cur = true → Waits (.fsend a b cls tk) s) ∧
    (portBusy s s.cur = false →
      (field h 3 1 % 4 = 3 → ∃ hs : Nat → Home, (∀ va, (field h 32 8 ≤ va ∧ va < field h 32 8 + 64 * n ∧ (va = field h 32 8 ∨ va % 4096 = 0) ∨
          (va = field h 48 8 ∧ va ≠ 0)) → TileGrants s s.cur va 8 (hs va)) ∧
        ((∀ va, ∃ o, hs va = .hbm o ∨ hs va = .host o) ∨ ∃ m, ∀ va, ∃ o, hs va = .peer m o)) →
      ∃ t p w, exec (.fsend a b cls tk) s = .next t ∧ EngFrame 2 s t ∧ Tokens 6 tk (thr s s.cur) (thr t s.cur) ∧ FlyOnly s t ∧ LocalKeep s t ∧ WorkUnits s t ∧
        (field h 3 1 % 4 ≠ 3 → TilesKeep s t) ∧ (thr t s.cur).fly = (thr s s.cur).fly ∧ (tile t (tileOf s.cur)).port = s.clock.now + n + 1 ∧
        w ∈ (engOf (thr t s.cur) 6).words ∧ w.wid = (thr s s.cur).kn ∧ w.retired = false ∧ w.due = s.clock.now + n ∧
        t.packets = s.packets ++ [p] ∧ p.flow = field h 0 2 ∧ p.dkind = field h 3 1 % 4 ∧ p.mcast = (field h 3 1).testBit 2 ∧
        p.seq = BitVec.ofNat 32 (field h 8 4) ∧ p.gen = BitVec.ofNat 32 (field h 12 4) ∧ p.len = n ∧ p.q = field h 17 1 ∧ p.dctx = field h 18 1 ∧ p.dtile = field h 20 2 ∧
        p.rlo = field h 22 2 ∧ p.rhi = field h 24 2 ∧ p.addr = field h 32 8 ∧ p.dv = field h 40 8 ∧ p.flag = field h 48 8 ∧ p.held = 0 ∧
        p.part = (thr s s.cur).id.part ∧ p.src = tileOf s.cur ∧ p.sctx = ctxOf s.cur ∧ p.cls = cls ∧ p.err = false ∧ p.data.length = n ∧
        ∀ k, k < n → ((p.data.getD k {}).bytes = localBytes s (d + 64 * k) 64))) ∧
  ∀ off, headFault s (thr s s.cur).id.part h = some off → (thr s s.cur).frz = none → (thr s s.cur).replay.mode ≠ 2 →
    ∃ t, exec (.fsend a b cls tk) s = .next t ∧ Faulted 10 6 false (misuse (field h 0 2) off 0) 0 s t ∧ Stands s t ∧ InsideButFreeze s t ∧ LocalKeep s t ∧
      OuterKeep s t ∧ t.packets = s.packets

/-- R291, R311, R193: what FRECV and VRECV take from a receive queue. -/
def Obligations.PacketsReceived : Prop := ∀ (s : State) (q : Nat) (tk : Tok), occupied s s.cur = true → TokenFree s tk → (thr s s.cur).replay.mode = 0 →
  (look [] (thr s s.cur).rx q = [] → (∀ a b cls, (gOf (thr s s.cur) b).toNat % 8 = q → s.strm = 6 → Waits (.frecv a b cls tk) s) ∧ ∀ wb d, s.strm = 1 → Waits (.vrecv wb d q tk) s) ∧
  ∀ r rest, Arrived (thr s s.cur) q r rest →
    (∀ a b cls x, s.strm = 6 → (gOf (thr s s.cur) b).toNat % 8 = q → x = (gOf (thr s s.cur) a).toNat → x % 8 = 0 → r.arrived = r.pkt.len →
      Allocated (thr s s.cur) x (64 * (1 + r.pkt.len - r.taken)) → (tile s (tileOf s.cur)).poison = [] → (∀ f ∈ r.pkt.data, f.poison = false) →
      (r.pkt.err = false → ∃ t, exec (.frecv a b cls tk) s = .next t ∧ EngFrame 2 s t ∧ Tokens 6 tk (thr s s.cur) (thr t s.cur) ∧ NotQueues (thr s s.cur) (thr t s.cur) ∧
        (thr t s.cur).fly = (thr s s.cur).fly ∧ PacketWritten x q r rest s t) ∧
      (r.pkt.err = true → (thr s s.cur).frz = none → ∃ t, exec (.frecv a b cls tk) s = .next t ∧ Faulted 10 6 true (misuse r.pkt.flow 68 0) 0 s t ∧
        NotQueues (thr s s.cur) (thr t s.cur) ∧ Tokens 6 tk (thr s s.cur) (thr t s.cur) ∧ PacketWritten x q r rest s t)) ∧
    ∀ wb d n, s.strm = 1 → n = min 4 (r.pkt.len - r.taken) → r.taken + n ≤ r.arrived →
      ((∃ f ∈ (r.pkt.data.drop r.taken).take n, f.poison = true) → (thr s s.cur).frz = none →
        ∃ t, exec (.vrecv wb d q tk) s = .next t ∧ Faulted 6 1 false (BitVec.ofNat 64 q) 0 s t ∧ Stands s t ∧ InsideButFreeze s t ∧ LocalKeep s t ∧ OuterKeep s t) ∧
      ((∀ f ∈ (r.pkt.data.drop r.taken).take n, f.poison = false) →
        ∃ t y, exec (.vrecv wb d q tk) s = .next t ∧ EngFrame 2 s t ∧ Tokens 1 tk (thr s s.cur) (thr t s.cur) ∧ NotQueues (thr s s.cur) (thr t s.cur) ∧
          TileMemory s t ∧ (thr t s.cur).fly = (thr s s.cur).fly ++ [y] ∧ y.latch = some 7 ∧ y.reg = d ∧ y.wb = wb ∧ y.due = s.clock.now / 2 + 2 ∧
          (∀ k, k < 64 → lane y.row k = if k / 16 < n then BitVec.ofNat 32 (leNat (((r.pkt.data.getD (r.taken + k / 16) {}).bytes.drop (4 * (k % 16))).take 4)) else 0) ∧
          ∀ k, look [] (thr t s.cur).rx k = if k = q then (if r.pkt.len = r.taken + n then rest else { r with taken := r.taken + n } :: rest) else look [] (thr s s.cur).rx k)

/-- R312, R81: how a result queue is bound and its binding ends. The conditions of FBIND are the function bindFault. -/
def Obligations.QueueBindings : Prop := ∀ (s : State) (a b : Nat) (tk : Tok) (p : Nat), occupied s s.cur = true → s.strm = 6 → TokenFree s tk →
  (p = (gOf (thr s s.cur) a).toNat → bindFault s a b = none → ∃ t, exec (.fbind a b tk) s = .next t ∧ Stands s t ∧
    NextWord 2 (engOf (thr s s.cur) 6) (engOf (thr t s.cur) 6) ∧ Tokens 6 tk (thr s s.cur) (thr t s.cur) ∧ TileMemory s t ∧ OuterKeep s t ∧
    (thr t s.cur).mq = { (thr s s.cur).mq with bound := some { peer := p, flow := (gOf (thr s s.cur) b).toNat % 65536, credits := 16384, seq := 0 }
                                               boundBy := if p = s.cur then some s.cur else (thr s s.cur).mq.boundBy } ∧
    ∀ u, u ≠ s.cur → thr t u = if u = p then { thr s p with mq := { (thr s p).mq with boundBy := some s.cur } } else thr s u) ∧
  (∀ c, bindFault s a b = some c → (thr s s.cur).frz = none → (thr s s.cur).replay.mode ≠ 2 →
    ∃ t, exec (.fbind a b tk) s = .next t ∧ Faulted 10 6 false (misuse (gOf (thr s s.cur) b).toNat c 0) 0 s t ∧ Stands s t ∧ InsideButFreeze s t ∧ LocalKeep s t ∧ OuterKeep s t) ∧
  ((thr s s.cur).mq.bound = none → ∃ t, exec (.funbind tk) s = .next t ∧ EngFrame 2 s t ∧ Tokens 6 tk (thr s s.cur) (thr t s.cur) ∧ FlyOnly s t ∧ TileMemory s t) ∧
  (∀ x, (thr s s.cur).mq.bound = some x →
    ((thr s s.cur).mq.result = [] → (∀ k ∈ s.packets, k.dkind = 2 → k.src = tileOf s.cur → k.sctx ≠ ctxOf s.cur) →
      ∃ t, exec (.funbind tk) s = .next t ∧ Stands s t ∧ NextWord 2 (engOf (thr s s.cur) 6) (engOf (thr t s.cur) 6) ∧ Tokens 6 tk (thr s s.cur) (thr t s.cur) ∧
        TileMemory s t ∧ OuterKeep s t ∧ (thr t s.cur).mq.bound = none ∧ (thr t x.peer).mq.boundBy = none ∧ ∀ u, u ≠ s.cur → u ≠ x.peer → thr t u = thr s u) ∧
    ((thr s s.cur).mq.result ≠ [] ∨ (∃ k ∈ s.packets, k.dkind = 2 ∧ k.src = tileOf s.cur ∧ k.sctx = ctxOf s.cur) → Waits (.funbind tk) s)) ∧
  ∃ t, exec .fnop s = .next t ∧ EngFrame 1 s t ∧ FlyOnly s t ∧ TileMemory s t

/-- R292 to R294, R313 to R315: how flow entries are defined, deleted and read. The checks of a record are the function flowFault. -/
def Obligations.FlowTableWords : Prop := ∀ (s : State) (a b cls p : Nat) (tk : Tok), occupied s s.cur = true → s.strm = 6 → TokenFree s tk → p = (thr s s.cur).id.part → (find s.parts p).isSome = true →
  (∀ h, Readable s (gOf (thr s s.cur) a).toNat 64 → h = localBytes s (gOf (thr s s.cur) a).toNat 64 →
    (flowFault s p h = none → ∃ t, exec (.flowDef a cls tk) s = .next t ∧ EngFrame 2 s t ∧ Tokens 6 tk (thr s s.cur) (thr t s.cur) ∧ FlyOnly s t ∧ LocalKeep s t ∧
      ∀ k, find (part t p).flows k = if k % 65536 = field h 0 2 ∧ (if field h 3 1 = 0 then k / 65536 = field h 4 2 else k / 65536 < 576 ∧ inPart s p (k / 65536) = true)
        then some { frec := parseFRec h, inst := 0 } else find (part s p).flows k) ∧
    (∀ c, flowFault s p h = some c → (thr s s.cur).frz = none → (thr s s.cur).replay.mode ≠ 2 → ∃ t, exec (.flowDef a cls tk) s = .next t ∧
      Faulted 10 6 false (misuse (field h 0 2) c 0) 0 s t ∧ Stands s t ∧ InsideButFreeze s t ∧ LocalKeep s t ∧ (part t p).flows = (part s p).flows)) ∧
  (∀ f, f = (gOf (thr s s.cur) a).toNat % 65536 →
    (flowInRange s p f = true → ∃ t, exec (.flowDel a tk) s = .next t ∧ EngFrame 2 s t ∧
      Tokens 6 tk (thr s s.cur) (thr t s.cur) ∧ FlyOnly s t ∧ LocalKeep s t ∧
      (∀ k, (find (part t p).flows k).map FlowEntry.frec = if k % 65536 = f then none else (find (part s p).flows k).map FlowEntry.frec) ∧
      ((∀ e ∈ (part s p).flows, e.1 % 65536 = f → e.2.frec.action ≠ 3) → ∀ k, k % 65536 ≠ f → find (part t p).flows k = find (part s p).flows k) ∧
      ∀ r e g x, (r * 65536 + f, e) ∈ (part s p).flows → e.frec.action = 3 → find (part t p).flows (r * 65536 + g) = some x → g < 65536 → x.frec.id = g →
        x.frec.action = 6 → x.frec.hflow = f → x.wait = []) ∧
    (flowInRange s p f = false → ∃ t, exec (.flowDel a tk) s = .next t ∧ EngFrame 2 s t ∧ Tokens 6 tk (thr s s.cur) (thr t s.cur) ∧ FlyOnly s t ∧ TileMemory s t)) ∧
  ∀ x f r, x = (gOf (thr s s.cur) a).toNat → f = (gOf (thr s s.cur) b).toNat % 65536 → r = (gOf (thr s s.cur) b).toNat / 65536 % 1024 → x % 8 = 0 → Allocated (thr s s.cur) x 32 →
    (tile s (tileOf s.cur)).poison = [] →
    ∃ t, exec (.flowStat a b cls tk) s = .next t ∧ EngFrame 2 s t ∧ Tokens 6 tk (thr s s.cur) (thr t s.cur) ∧ FlyOnly s t ∧ LocalOutside (tileOf s.cur) x 32 s t ∧
      localNumber t x 2 = f ∧
      (flowInRange s p f = false ∨ inPart s p r = false ∨ find (part s p).flows (r * 65536 + f) = none → localNumber t (x + 2) 30 = 0) ∧
      ∀ e, flowInRange s p f = true → inPart s p r = true → find (part s p).flows (r * 65536 + f) = some e → localNumber t (x + 2) 1 = 1 ∧
        localNumber t (x + 3) 1 = e.frec.action % 256 ∧ localNumber t (x + 4) 4 = e.frec.gen.toNat ∧ localNumber t (x + 12) 4 = e.done.toNat ∧
        localNumber t (x + 16) 4 = e.late.toNat ∧ localNumber t (x + 20) 4 = e.error.toNat ∧ localNumber t (x + 24) 8 = 0

/-- R396 to R400: how collectives are loaded, run, waited for and aborted. The checks of a header and its tables are the functions headerFault
and tableFault, those of a run runFault. That
COLL.WAIT with an open run waits before its address is checked is the model choice of log entry 57. -/
def Obligations.CollectiveWords : Prop := ∀ (s : State) (a b cls p f x : Nat) (tk : Tok), occupied s s.cur = true → s.strm = 6 → TokenFree s tk → p = (thr s s.cur).id.part → f = (gOf (thr s s.cur) b).toNat →
  x = (gOf (thr s s.cur) a).toNat →
  ((65536 ≤ f ∨ find (part s p).colls f = none) → (thr s s.cur).frz = none → (thr s s.cur).replay.mode ≠ 2 →
    ∀ i ∈ [Instr.collRun a b cls tk, .collWait a b cls tk, .collAbort b tk],
      ∃ t, exec i s = .next t ∧ Faulted 10 6 false (misuse f (if 65536 ≤ f then 2 else 77) 0) 0 s t ∧ Stands s t ∧ InsideButFreeze s t ∧ LocalKeep s t ∧ OuterKeep s t) ∧
  (f < 65536 → find (part s p).colls f = none →
    (x = 0 → ∃ t, exec (.collLoad a b cls tk) s = .next t ∧ EngFrame 2 s t ∧ Tokens 6 tk (thr s s.cur) (thr t s.cur) ∧ FlyOnly s t ∧ TileMemory s t) ∧
    ∀ h nc no c0 c (cs os : List (List Byte)), x ≠ 0 → Readable s x 64 → h = localBytes s x 64 → nc = field h 2 1 → no = field h 0 2 → (find s.parts p).isSome = true →
      cs.length = nc → os.length = no → (∀ y ∈ cs, y.length = 8) → (∀ y ∈ os, y.length = 32) →
      (∀ i, i < nc → ∃ g, HubHome s p (thr s s.cur).id.pasid (field h 24 8 + 8 * i) 8 false g ∧ homeRead s g 8 = (cs.getD i [], false)) →
      (∀ i, i < no → ∃ g, HubHome s p (thr s s.cur).id.pasid (field h 16 8 + 32 * i) 32 false g ∧ homeRead s g 32 = (os.getD i [], false)) →
      c0 = parseColl h → c = { c0 with part := p, vf := (thr s s.cur).id.vf, pasid := (thr s s.cur).id.pasid, launch := (thr s s.cur).id.launch,
                                       team := (thr s s.cur).id.team, member := (thr s s.cur).id.member,
                                       chans := cs.map parseChan, ops := os.map parseOp } →
      headerFault s p f h = none → tableFault s c cs os = none →
      ∃ t, exec (.collLoad a b cls tk) s = .next t ∧ EngFrame 2 s t ∧ Tokens 6 tk (thr s s.cur) (thr t s.cur) ∧ FlyOnly s t ∧ LocalKeep s t ∧
        (∀ k, find (part t p).colls k = if k = f then some { c with units := granaryUnits c } else find (part s p).colls k) ∧
        c.gen = 0 ∧ c.open_ = false ∧ c.ran = false ∧ c.late = 0) ∧
  ∀ c, f < 65536 → find (part s p).colls f = some c →
    (c.open_ = false →
      (x = 0 → ∃ t, exec (.collLoad a b cls tk) s = .next t ∧ EngFrame 2 s t ∧ Tokens 6 tk (thr s s.cur) (thr t s.cur) ∧ FlyOnly s t ∧ LocalKeep s t ∧
        ∀ k, find (part t p).colls k = if k = f then none else find (part s p).colls k) ∧
      (runFault s f x c = none →
        ∃ t y, exec (.collRun a b cls tk) s = .next t ∧ EngFrame 2 s t ∧ Tokens 6 tk (thr s s.cur) (thr t s.cur) ∧ FlyOnly s t ∧ LocalKeep s t ∧
          find (part t p).colls f = some y ∧ y.open_ = decide ((c.gen + 1).toNat ∉ c.aborted) ∧ ((c.gen + 1).toNat ∈ c.aborted → y.status = 1) ∧ y.ran = true ∧
          y.gen = c.gen + 1 ∧ y.cls = cls ∧ y.team = (thr s s.cur).id.team ∧ y.member = (thr s s.cur).id.member ∧ y.ops = c.ops ∧ y.opst = [] ∧ y.bases = (upFrom 0 8).map fun i => localNumber s (x + 8 * i) 8) ∧
      (x % 8 = 0 → Allocated (thr s s.cur) x 16 → (tile s (tileOf s.cur)).poison = [] →
        ∃ t, exec (.collWait a b cls tk) s = .next t ∧ EngFrame 2 s t ∧ Tokens 6 tk (thr s s.cur) (thr t s.cur) ∧ FlyOnly s t ∧ LocalOutside (tileOf s.cur) x 16 s t ∧
          localNumber t x 4 = (if c.ran then c.status % 2 ^ 32 else 2) ∧ localNumber t (x + 4) 4 = c.gen.toNat ∧ localNumber t (x + 8) 4 = c.late.toNat ∧ localNumber t (x + 12) 4 = 0)) ∧
    (c.open_ = true → Waits (.collWait a b cls tk) s) ∧
    (c.open_ = false ∨ (c.gen.toNat * 256 + c.r) ∈ c.done → ∃ t, exec (.collAbort b tk) s = .next t ∧ EngFrame 2 s t ∧ Tokens 6 tk (thr s s.cur) (thr t s.cur) ∧ FlyOnly s t ∧ TileMemory s t) ∧
    (c.open_ = true → (c.gen.toNat * 256 + c.r) ∉ c.done → ∃ t y, exec (.collAbort b tk) s = .next t ∧ EngFrame 2 s t ∧ Tokens 6 tk (thr s s.cur) (thr t s.cur) ∧ FlyOnly s t ∧ LocalKeep s t ∧
      find (part t p).colls f = some y ∧ y.open_ = false ∧ y.status = 1 ∧ y.gen = c.gen ∧ ∀ m ∈ otherModules s c, Sent (.abortNotice m f c.gen c.r) m s t)

/-- R105, R108, R109, R173, R242 to R251, R263, R420 and R487: how the streams, engines and results of threads go on. The order of several
failing sub-arrays is the choice of log entry 28, and that a call with no iterations becomes the last served that of log entry 76. -/
def Obligations.StreamEvents : Prop := (∀ (s : State) w y rest, occupied s s.arg.a = true → wordsIn (thr s s.arg.a) s.arg.b = w :: rest → w.retired = true → w.push = some y → w.due ≤ s.clock.now →
    (∀ z, (thr s s.arg.a).frz = some z → z.closed = false ∧ s.clock.now ≤ z.cut) → s.arg.b < 7 → y < 7 → Runs .tokenRelease s fun t => OnlyThread s.arg.a s t ∧
      fifo (thr t s.arg.a) s.arg.b y = fifo (thr s s.arg.a) s.arg.b y + 1 ∧ rsvd (thr t s.arg.a) s.arg.b y = rsvd (thr s s.arg.a) s.arg.b y - 1 ∧
      (∀ u v, u < 7 → v < 7 → ¬(u = s.arg.b ∧ v = y) → fifo (thr t s.arg.a) u v = fifo (thr s s.arg.a) u v ∧ rsvd (thr t s.arg.a) u v = rsvd (thr s s.arg.a) u v) ∧
      (thr t s.arg.a).c = (thr s s.arg.a).c ∧ (thr t s.arg.a).e = (thr s s.arg.a).e ∧ (thr t s.arg.a).fly = (thr s s.arg.a).fly ∧
      (thr t s.arg.a).frz = (thr s s.arg.a).frz) ∧
  (∀ (s : State), callReady s s.arg.a s.arg.b = true → Served s →
    (∀ c, (engOf (thr s s.arg.a) s.arg.b).call = some c → Runs .blockCall s fun t => OtherThreads { s with cur := s.arg.a } t ∧ LocalKeep s t ∧
      engOf (thr t s.arg.a) s.arg.b = { engOf (thr s s.arg.a) s.arg.b with back := false } ∧ Holder s t ∧
      (∀ (j : Nat) r, (thr s s.arg.a).fly[j]? = some r → (thr t s.arg.a).fly[j]? = some (
        if r.stream = s.arg.b ∧ r.rel = true ∧ r.gone = false then { r with due := s.clock.now / 2 + r.due, rel := false } else r)) ∧
      (thr t s.arg.a).c = (thr s s.arg.a).c ∧ (thr t s.arg.a).e = (thr s s.arg.a).e ∧ (thr t s.arg.a).fifo = (thr s s.arg.a).fifo) ∧
    (∀ q rest, (engOf (thr s s.arg.a) s.arg.b).call = none → (engOf (thr s s.arg.a) s.arg.b).queue = q :: rest →
      (callFault s s.arg.a s.arg.b q = none → q.cnt ≠ 0 → Runs .blockCall s fun t => OtherThreads { s with cur := s.arg.a } t ∧ LocalKeep s t ∧
        (∃ c, (engOf (thr t s.arg.a) s.arg.b).call = some c ∧ c.entry = q ∧ c.iter = 0 ∧ c.mpc = (if q.one then 0 else 2) ∧ c.rep = (if q.one then 1 else q.cnt) ∧
          (q.one = false → ∀ h, headerAt s s.arg.a s.arg.b q.off = some h → c.len = hdrLen h)) ∧
        (engOf (thr t s.arg.a) s.arg.b).queue = q :: rest ∧ Holder s t ∧
        (thr t s.arg.a).c = (thr s s.arg.a).c ∧ (thr t s.arg.a).fifo = (thr s s.arg.a).fifo ∧ (∀ n, vOf (thr t s.arg.a) n = vOf (thr s s.arg.a) n) ∧
        ∀ n, bOf (thr t s.arg.a) n = if s.arg.b = 1 ∧ (look ({} : EngArb) (tile s (tileOf s.arg.a)).eng 1).ran ≠ some (memberOf s s.arg.a) then zeroRow
          else bOf (thr s s.arg.a) n) ∧
      (callFault s s.arg.a s.arg.b q = none → q.cnt = 0 → Runs .blockCall s fun t => OtherThreads { s with cur := s.arg.a } t ∧ LocalKeep s t ∧
        (engOf (thr t s.arg.a) s.arg.b).queue = rest ∧ (engOf (thr t s.arg.a) s.arg.b).call = none ∧
        (look ({} : EngArb) (tile t (tileOf s.arg.a)).eng s.arg.b).owner = (look ({} : EngArb) (tile s (tileOf s.arg.a)).eng s.arg.b).owner ∧
        (s.arg.b ∈ [1, 2, 5, 6] → (look ({} : EngArb) (tile t (tileOf s.arg.a)).eng s.arg.b).last = ctxOf s.arg.a) ∧
        (∀ (j : Nat) r, (thr s s.arg.a).fly[j]? = some r → (thr t s.arg.a).fly[j]? = some (
          if r.stream = s.arg.b ∧ r.rel = true ∧ r.gone = false then { r with due := s.clock.now / 2 + r.due, rel := false } else r)) ∧
        (thr t s.arg.a).c = (thr s s.arg.a).c ∧ (thr t s.arg.a).e = (thr s s.arg.a).e ∧ (thr t s.arg.a).fifo = (thr s s.arg.a).fifo) ∧
      (∀ r, callFault s s.arg.a s.arg.b q = some r → (thr s s.arg.a).frz = none → Runs .blockCall s fun t => OtherThreads { s with cur := s.arg.a } t ∧ LocalKeep s t ∧
        Faulted 4 s.arg.b false (BitVec.ofNat 64 r) 0 { s with cur := s.arg.a } { t with cur := s.arg.a } ∧
        (thr t s.arg.a).eng = (thr s s.arg.a).eng ∧ (thr t s.arg.a).c = (thr s s.arg.a).c ∧ (thr t s.arg.a).e = (thr s s.arg.a).e))) ∧
  (∀ (s : State) r, occupied s s.arg.a = true → (thr s s.arg.a).fly[s.arg.b]? = some r → r.rel = false → r.gone = false → r.due ≤ s.clock.now / 2 →
    (∀ z, (thr s s.arg.a).frz = some z → r.due < cutCycle z r.stream ∨ (r.wb = false ∧ r.latch = none ∧ r.pred = none)) →
    Runs .resultLanding s fun t => (r.pred = none → OnlyThread s.arg.a s t) ∧ OtherThreads { s with cur := s.arg.a } t ∧ LocalKeep s t ∧
      (r.wb = true → (r.stream = 1 ∨ look 0 (thr s s.arg.a).vAt r.reg ≠ s.clock.now / 2 + 1) → vOf (thr t s.arg.a) r.reg = r.row) ∧
      (r.wb = true → r.stream ≠ 1 → look 0 (thr s s.arg.a).vAt r.reg = s.clock.now / 2 + 1 → vOf (thr t s.arg.a) r.reg = vOf (thr s s.arg.a) r.reg) ∧
      (∀ n, (r.wb = false ∨ n ≠ r.reg) → vOf (thr t s.arg.a) n = vOf (thr s s.arg.a) n) ∧ (∀ l, r.latch = some l → bOf (thr t s.arg.a) l = r.row) ∧
      (∀ l, r.latch ≠ some l → bOf (thr t s.arg.a) l = bOf (thr s s.arg.a) l) ∧
      (∀ p, r.pred = some p → p ≠ 0 → ∀ m, m = bitsLeft (thr s s.arg.a) s.clock.now r.stream p (BitVec.allOnes 64) →
        pOf (thr t s.arg.a) p = (pOf (thr s s.arg.a) p &&& ~~~m) ||| (r.mask &&& m)) ∧
      (∀ n, (n = 0 ∨ r.pred ≠ some n) → pOf (thr t s.arg.a) n = pOf (thr s s.arg.a) n) ∧ (∀ n, gOf (thr t s.arg.a) n = gOf (thr s s.arg.a) n) ∧
      (thr t s.arg.a).fly = (thr s s.arg.a).fly.eraseIdx s.arg.b ∧ (thr t s.arg.a).c.pc = (thr s s.arg.a).c.pc) ∧
  (∀ (s : State), occupied s s.arg.a = true → Runs .twordRead s fun t => t.cur = s.arg.a ∧
      gOf (thr t s.arg.a) s.arg.b = (if s.arg.b = 0 then 0 else look 0 (tile s (tileOf s.arg.a)).trace.buf (tile s (tileOf s.arg.a)).trace.tidx) ∧
      (tile t (tileOf s.arg.a)).trace.tidx = ((tile s (tileOf s.arg.a)).trace.tidx + 1) % 8192 ∧ (thr t s.arg.a).c.pc = (thr s s.arg.a).c.pc + 2 ∧
      GKeep [s.arg.b] (thr s s.arg.a) (thr t s.arg.a) ∧ LocalKeep s t ∧ ∀ u, u ≠ s.arg.a → thr t u = thr s u) ∧
  (∀ (s : State) n tid, (tile s s.arg.a).arr.occupant = none → nextNest s s.arg.a = some tid → (thr s tid).nest = some n → Runs .nestStep s fun t =>
      thr t tid = { thr s tid with nest := some { n with phase := .start, due := s.clock.now / 2 + 12 } } ∧ (tile t s.arg.a).arr.occupant = some (tid % 6) ∧
      LocalKeep s t ∧ ∀ u, u ≠ tid → thr t u = thr s u) ∧
  (∀ (s : State) ctx n tid, (tile s s.arg.a).arr.occupant = some ctx → ctx < 6 → tid = s.arg.a * 6 + ctx → (thr s tid).nest = some n →
    ((thr s tid).frz ≠ none → n.phase ≠ .steps → n.phase ≠ .paused → Runs .nestStep s fun t => LocalKeep s t ∧ (∀ u, u ≠ tid → thr t u = thr s u) ∧
      thr t tid = { thr s tid with nest := some { n with phase := .paused } } ∧ (tile t s.arg.a).arr.occupant = none) ∧
    (n.due ≤ s.clock.now / 2 → (thr s tid).frz = none →
      (n.phase = .start → n.p = n.total → Runs .nestStep s fun t => OnlyThread tid s t ∧
        thr t tid = { thr s tid with nest := some { n with phase := .drain, due := s.clock.now / 2 + 6 } }) ∧
      (n.phase = .start → n.p ≠ n.total → stepReady (thr s tid) n.cfg = true → Runs .nestStep s fun t => OnlyThread tid s t ∧
        thr t tid = { thr s tid with nest := some { n with phase := .steps, due := s.clock.now / 2 + stepTime n.cfg (tile s s.arg.a).arr.fuse } }) ∧
      (∀ xs ys za zb, n.phase = .steps → nRows n.cfg ≤ 64 → nCols n.cfg ≤ 128 → stepA tid n s = (some (.ok xs), s) → stepB tid n s = (some (.ok ys), s) →
        stepZA tid n s = (some (.ok za), s) → stepZB tid n s = (some (.ok zb), s) → xs.length = nRows n.cfg → ys.length = nCols n.cfg →
        za.length = nRows n.cfg → zb.length = nCols n.cfg →
        Runs .nestStep s fun t => LocalKeep s t ∧ (∀ u, u ≠ tid → (thr s tid).mq.boundBy ≠ some u → thr t u = thr s u) ∧
          (∀ i j, i < nRows n.cfg → j < nCols n.cfg → accOf (thr t tid) (stepSet n.cfg n.set n.p) i j = BitVec.ofNat 32 (
            chunkElem n.cfg (accOf (thr s tid) (stepSet n.cfg n.set n.p) i j).toNat (xs.getD i []) (ys.getD j []) (za.getD i 0) (zb.getD j 0))) ∧
          (∀ set i j, i < 64 → j < 128 → (set ≠ stepSet n.cfg n.set n.p ∨ nRows n.cfg ≤ i ∨ nCols n.cfg ≤ j) → accOf (thr t tid) set i j = accOf (thr s tid) set i j) ∧
          (thr t tid).steps = n.p + 1 ∧ (∃ m, (thr t tid).nest = some m ∧ m.p = n.p + 1 ∧ m.cfg = n.cfg ∧ m.total = n.total ∧
            (n.p + 1 = n.total → m.phase = .drain ∧ m.due = s.clock.now / 2 + 6) ∧
            (n.p + 1 ≠ n.total → n.cfg.queue = false → m.phase = .steps ∧ m.due = s.clock.now / 2 + stepTime n.cfg (tile s s.arg.a).arr.fuse)) ∧
          (thr t tid).c = (thr s tid).c ∧ (thr t tid).frz = none ∧
          (n.cfg.queue = true → (thr s tid).mq.boundBy = none → (thr t tid).mq.operand = (thr s tid).mq.operand.drop (stepBytes_ n.cfg))) ∧
      (∀ f, n.phase = .steps → doStep tid n s = (some (.error f), s) → Runs .nestStep s fun t => LocalKeep s t ∧ (∀ u, u ≠ tid → thr t u = thr s u) ∧
        Faulted f.code f.engine f.defer f.lo f.addr { s with cur := tid } { t with cur := tid } ∧ (thr t tid).e = (thr s tid).e ∧ (thr t tid).c = (thr s tid).c ∧
        (thr t tid).nest = some { n with phase := .paused } ∧ (tile t s.arg.a).arr.occupant = none) ∧
      (n.phase = .drain → Runs .nestStep s fun t => OnlyThread tid s t ∧
        thr t tid = { thr s tid with nest := some { n with phase := .test, due := s.clock.now / 2 + 16 } }) ∧
      (∀ a1 r, n.phase = .test → selfTest s.arg.nums (tile s s.arg.a).arr = (a1, r) → Runs .selfTest s fun t => (thr t tid).nest = none ∧
        (tile t s.arg.a).arr = { a1 with occupant := none } ∧ ((tile s s.arg.a).arr.bad = [] → s.arg.nums = [] → r = none ∧
          (tile t s.arg.a).arr.tests = min 65535 ((tile s s.arg.a).arr.tests + 1) ∧ (tile t s.arg.a).arr.fenced = (tile s s.arg.a).arr.fenced) ∧
        (r = none → (thr t tid).frz = none) ∧
        (∀ sub tr, r = some (sub, tr) → Faulted 8 2 true (BitVec.ofNat 64 (sub + tr * 256 + n.mpc % 65536 * 65536 + n.cmd.toNat * 2 ^ 32)) 0
          { s with cur := tid } { t with cur := tid }) ∧
        (thr t tid).e = (thr s tid).e ∧ (thr t tid).c = (thr s tid).c ∧ LocalKeep s t ∧ ∀ u, u ≠ tid → thr t u = thr s u)))

/-- R112, R114, R418 to R428, R446 and R490: how a thread comes to rest, stops for the debugger, meets its team and is given up. -/
def Obligations.RestAndBarrierEvents : Prop := (∀ (s : State) z, AtRest s s.arg.a z →
    (z.fault = none → Runs .freeze s fun t => (∃ y, (thr t s.arg.a).frz = some y ∧ y.closed = true ∧ y.record.length = 16 ∧ y.record[0]? = some 0 ∧
        y.record[3]? = some (thr s s.arg.a).c.pc ∧ y.taken = z.taken) ∧ (thr t s.arg.a).c = (thr s s.arg.a).c ∧ (thr t s.arg.a).e = (thr s s.arg.a).e ∧
      LocalKeep s t ∧ ∀ u, u ≠ s.arg.a → thr t u = thr s u) ∧
    (∀ f, z.fault = some f → isTiller s.arg.a = false →
      (occupied s (tileOf s.arg.a * 6 + 4) = false → Unclaimed s s.arg.a → Runs .freeze s fun t =>
        (∃ y, (thr t s.arg.a).frz = some y ∧ y.closed = true ∧ y.tiller = some 4 ∧ y.record.length = 16 ∧ y.record[1]? = some f.lo ∧ y.record[2]? = some f.addr) ∧
        (thr t s.arg.a).c = (thr s s.arg.a).c ∧ (thr t s.arg.a).e = (thr s s.arg.a).e ∧
        (thr t (tileOf s.arg.a * 6 + 4)).tillerOf = some s.arg.a ∧ (thr t (tileOf s.arg.a * 6 + 4)).capValid = true ∧
        (thr t (tileOf s.arg.a * 6 + 4)).c.pc = BitVec.ofNat 64 (part s (thr s s.arg.a).id.part).cfg.hentry ∧ (thr t (tileOf s.arg.a * 6 + 4)).id = (thr s s.arg.a).id ∧
        LocalKeep s t ∧ ∀ u, u ≠ s.arg.a → u ≠ tileOf s.arg.a * 6 + 4 → thr t u = thr s u) ∧
      (occupied s (tileOf s.arg.a * 6 + 4) = true → occupied s (tileOf s.arg.a * 6 + 5) = true → Runs .freeze s fun t =>
        (∃ y, (thr t s.arg.a).frz = some y ∧ y.closed = true ∧ y.tiller = z.tiller ∧ y.record[1]? = some f.lo ∧ y.record[2]? = some f.addr) ∧
        s.arg.a ∈ (tile t (tileOf s.arg.a)).pendList ∧ (thr t s.arg.a).c = (thr s s.arg.a).c ∧ (thr t s.arg.a).e = (thr s s.arg.a).e ∧
        LocalKeep s t ∧ ∀ u, u ≠ s.arg.a → thr t u = thr s u)) ∧
    (∀ f g, z.fault = some f → isTiller s.arg.a = true → (tile s (tileOf s.arg.a)).pendList = [] → (thr s s.arg.a).tillerOf = some g → g ≠ s.arg.a →
      tileOf g = tileOf s.arg.a → occupied s g = true → isTiller g = false → (thr s g).dying = false →
      ((thr s s.arg.a).capValid = false → Runs .freeze s fun t => Msg.escalation s.arg.a ∈ t.out ∧ occupied t s.arg.a = false ∧
        (tile t (tileOf s.arg.a)).esc = min 65535 ((tile s (tileOf s.arg.a)).esc + 1) ∧ (thr t g).c = (thr s g).c ∧ (thr t g).e = (thr s g).e ∧ LocalKeep s t ∧
        ∀ u, u ≠ s.arg.a → u ≠ g → thr t u = thr s u) ∧
      ((thr s s.arg.a).capValid = true → (part s (thr s g).id.part).regs.escpol = false → fatalNode s g = false → Runs .freeze s fun t =>
        Msg.escalation s.arg.a ∈ t.out ∧ occupied t s.arg.a = false ∧ (tile t (tileOf s.arg.a)).esc = min 65535 ((tile s (tileOf s.arg.a)).esc + 1) ∧
        ((thr t g).dying = true ∨ occupied t g = false) ∧ (thr s g).id.member ∉ (team t (thr s g).id.team).live ∧ LocalKeep s t) ∧
      (∀ p, p = (thr s g).id.part → (thr s s.arg.a).id.part = p → (thr s s.arg.a).capValid = true → (part s p).regs.escpol = true → (find s.parts p).isSome = true →
        Runs .freeze s fun t => PartitionReset p s t ∧ Msg.escalation s.arg.a ∈ t.out))) ∧
  (∀ (s : State) k n, k = (thr s s.arg.a).id.team → occupied s s.arg.a = true → s.arg.b = 0 → (find s.teams k).isSome = true → (team s k).stops = some n → n ≤ s.clock.now →
    Runs .debugStop s fun t => (team t k).stops = none ∧ (∀ m ∈ liveOf s k, (thr s m).sr.dbg = true → (thr s m).frz = none → Interrupted 2 m s t) ∧
      (∀ m ∈ liveOf s k, (∀ z, (thr s m).sr.dbg = true → (thr s m).frz = some z → (thr t m).frz = some (stopRequested s z)) ∧
        (thr t m).c = (thr s m).c ∧ (thr t m).e = (thr s m).e) ∧
      ∀ u, (u ∉ liveOf s k ∨ (thr s u).sr.dbg = false) → thr t u = thr s u) ∧
  (∀ (s : State), canIssue s s.arg.a (s.arg.b - 1) = true → s.arg.b ≠ 0 → (thr s s.arg.a).frz = none → breaks s s.arg.a (s.arg.b - 1) = true →
    Runs .debugStop s fun t => Interrupted 2 s.arg.a s t ∧ (∀ k, k ∈ (thr t s.arg.a).noMatch ↔ k = s.arg.b - 1 ∨ k ∈ (thr s s.arg.a).noMatch) ∧
      (isTiller s.arg.a = false → (find s.teams (thr s s.arg.a).id.team).isSome = true → ∃ n, (team t (thr s s.arg.a).id.team).stops = some n ∧ n ≤ s.clock.now + 1) ∧ (thr t s.arg.a).c = (thr s s.arg.a).c ∧ LocalKeep s t ∧
      ∀ u, u ≠ s.arg.a → thr t u = thr s u) ∧
  (∀ (s : State), (find s.teams s.arg.a).isSome = true → phaseFull (team s s.arg.a) s.arg.b = true →
    Runs .phaseCompletion s fun t => (barOf (team t s.arg.a) s.arg.b).phase = (barOf (team s s.arg.a) s.arg.b).phase + 1 ∧ (barOf (team t s.arg.a) s.arg.b).arrived = [] ∧
      (∀ b, b ≠ s.arg.b → barOf (team t s.arg.a) b = barOf (team s s.arg.a) b) ∧ (team t s.arg.a).live = (team s s.arg.a).live ∧
      (∀ m ∈ (team s s.arg.a).members, (thr s m).id.team = s.arg.a → s.arg.b ∉ (thr t m).arrivals) ∧
      (∀ u, (thr t u).c = (thr s u).c ∧ (thr t u).e = (thr s u).e) ∧ LocalKeep s t ∧
      ∀ k, k ≠ s.arg.a → team t k = team s k) ∧
  (∀ (s : State) p, p = (thr s s.arg.a).id.part → s.arg.flag = false → occupied s s.arg.a = true → isTiller s.arg.a = false → (thr s s.arg.a).dying = false →
    (thr s s.arg.a).frz = none → (find s.parts p).isSome = true → (part s p).cfg.stall * 2000 ≤ (thr s s.arg.a).stallNs →
    Runs .stallWatchdog s fun t => PartitionReset p s t ∧ Msg.stallReport s.arg.a (stallWaits s s.arg.a) ∈ t.out) ∧
  (∀ (s : State), s.arg.flag = true → (find s.parts s.arg.a).isSome = true → Runs .stallWatchdog s fun t => PartitionReset s.arg.a s t)

/-- R223 to R228, R274 to R279, R282, R357, R382: how the copy streamer and the relayout engines go on. Elements of a conversion are taken one after another (log entry 85). -/
def Obligations.CopyAndRelayoutEvents : Prop := (∀ (s : State) c p bits fmt, (thr s s.arg.a).copies[s.arg.b]? = some c → p = (thr s s.arg.a).id.part → bits = copyBits s p c → fmt = copyFmt s p c →
    (c.issued = false → c.stopped = false → c.held ≠ 1 → heldBack (thr s s.arg.a) s.arg.b c = false →
      (c.kind = 2 →
        (c.slot + 1 < rowSlots bits c → Runs .transferSlot s fun t => OnlyThread s.arg.a s t ∧
          thr t s.arg.a = { thr s s.arg.a with copies := List.set (thr s s.arg.a).copies s.arg.b ({ c with slot := c.slot + 1 } : Copy) }) ∧
        (rowSlots bits c ≤ c.slot + 1 → ∀ d vals, vals = List.replicate (extOf c 0) (c.so.getD 0 0, false) → Placed s s.arg.a fmt c c.row vals.length d →
          Runs .transferSlot s fun t => Dispatched s.arg.a s.arg.b fmt c vals d
            (fun x => { x with row := c.row + 1, slot := 0, buf := {}, issued := decide (rowCount c ≤ c.row + 1) }) s t)) ∧
      (c.kind ≠ 2 → ∀ (vs : List ReadElem) x0 n w nr, x0 = min (c.slot * slotElems bits c) (extOf c 0) → n = min (slotElems bits c) (extOf c 0 - x0) →
        vs.length = n → (∀ (k : Nat) v, vs[k]? = some v → Source s s.arg.a fmt c (x0 + k) v) →
        w = ({ row := c.row, vals := c.buf.vals ++ vs.map (fun v => (v.1, v.2.1)),
               peers := c.buf.peers ++ ((vs.zip (upFrom x0 n)).filter fun e => e.1.2.2.2.1).map Prod.snd } : RowWait) →
        nr = (if vs.any (fun v => v.2.2.1) = true then addNat c.row c.nonres else c.nonres) →
        (c.slot + 1 < rowSlots bits c → Runs .transferSlot s fun t =>
          (thr t s.arg.a).copies = List.set (thr s s.arg.a).copies s.arg.b ({ c with slot := c.slot + 1, buf := w, nonres := nr } : Copy) ∧
          (thr t s.arg.a).c = (thr s s.arg.a).c ∧ (thr t s.arg.a).e = (thr s s.arg.a).e ∧ LocalKeep s t ∧ OuterKeep s t ∧ ∀ u, u ≠ s.arg.a → thr t u = thr s u) ∧
        (rowSlots bits c ≤ c.slot + 1 → (c.stream = 3 ∨ w.peers ≠ [] ∨ c.resp ≠ []) → Runs .transferSlot s fun t =>
          (thr t s.arg.a).copies = List.set (thr s s.arg.a).copies s.arg.b
            ({ c with row := c.row + 1, slot := 0, buf := {}, issued := decide (rowCount c ≤ c.row + 1), nonres := nr, resp := c.resp ++ [w] } : Copy) ∧
          (thr t s.arg.a).c = (thr s s.arg.a).c ∧ (thr t s.arg.a).e = (thr s s.arg.a).e ∧ LocalKeep s t ∧ OuterKeep s t ∧ ∀ u, u ≠ s.arg.a → thr t u = thr s u) ∧
        (∀ (k : Nat) a hi e m q, k < n → sideAt s s.arg.a (rawSrc c) c c.shnd (rawLin (extOf c) (boxCoord c c.row (x0 + k))) (shift c.so (boxCoord c c.row (x0 + k))) = some (none, a, hi) →
          rowForced c c.row ≠ some true → Sees (tile s (tileOf s.arg.a)).cache 256 (thr s s.arg.a).id.pasid a (elemBytes fmt) e → e.r = true →
          homeOf s p (e.target + (a - e.base)) (elemBytes fmt) = .ok (.peer m q) →
          Runs .transferSlot s fun t => Sent (.rowOut m s.arg.a s.arg.b q (elemBytes fmt) false [] [] 0) m s t) ∧
        (rowSlots bits c ≤ c.slot + 1 → c.stream ≠ 3 → w.peers = [] → c.resp = [] → ∀ d, Placed s s.arg.a fmt c c.row w.vals.length d →
          Runs .transferSlot s fun t => Dispatched s.arg.a s.arg.b fmt c w.vals d
            (fun x => { x with row := c.row + 1, slot := 0, buf := {}, issued := decide (rowCount c ≤ c.row + 1), nonres := nr }) s t))) ∧
    (s.arg.d = 1 → ∀ row va, c.acks[s.arg.e]? = some (row, va) →
      (s.arg.c = 0 → Runs .rowResponse s fun t => OnlyThread s.arg.a s t ∧
        thr t s.arg.a = { thr s s.arg.a with copies := List.set (thr s s.arg.a).copies s.arg.b ({ c with acks := c.acks.eraseIdx s.arg.e } : Copy) }) ∧
      (s.arg.c ≠ 0 → c.stopped = false → (thr s s.arg.a).dying = false → (thr s s.arg.a).frz = none →
        Runs .rowResponse s fun t => CopyStopped s.arg.a s.arg.b row s.arg.c va c s t)) ∧
    (s.arg.d ≠ 1 → s.arg.d ≠ 2 → s.arg.d ≠ 3 →
      (∀ l w rest d, s.arg.c = 0 → s.arg.nums = [] → s.arg.pairs = [] → c.held ≠ 1 → c.resp = l ++ w :: rest → (∀ y ∈ l, y.gone = true) → w.gone = false → w.peers = [] →
        Placed s s.arg.a fmt c w.row w.vals.length d →
        Runs .rowResponse s fun t => Dispatched s.arg.a s.arg.b fmt c w.vals d (fun x => { x with resp := l ++ rest }) s t) ∧
      (∀ l w rest, c.resp = l ++ w :: rest → (∀ y ∈ l, y.peers = []) → w.peers ≠ [] → (s.arg.c ≠ 0 ∨ s.arg.nums ≠ [] ∨ s.arg.pairs ≠ []) →
        (w.gone = true → Runs .rowResponse s fun t => OnlyThread s.arg.a s t ∧
          thr t s.arg.a = { thr s s.arg.a with copies := List.set (thr s s.arg.a).copies s.arg.b ({ c with resp := l ++ rest } : Copy) }) ∧
        (w.gone = false →
          (∀ vs, s.arg.c = 0 → vs = (if s.arg.pairs = [] then s.arg.nums.map (fun v => (v, false))
              else elemsOfBlocks (elemBytes fmt) (peerAddrs s s.arg.a c w) s.arg.pairs s.arg.bytes) → vs.length = w.peers.length → Runs .rowResponse s fun t => OnlyThread s.arg.a s t ∧
            ∃ vals, thr t s.arg.a = { thr s s.arg.a with copies := List.set (thr s s.arg.a).copies s.arg.b ({ c with resp := (l ++ ({ row := w.row, vals := vals } : RowWait) :: rest) } : Copy) } ∧
              vals.length = w.vals.length ∧ (∀ (x0 : Nat), x0 ∉ w.peers → vals[x0]? = w.vals[x0]?) ∧
              (w.peers.Nodup → ∀ (k x0 : Nat) old v, w.peers[k]? = some x0 → w.vals[x0]? = some old → vs[k]? = some v →
                vals[x0]? = some (elemFrom fmt (old.1 == 1) (toBytes (elemBytes fmt) v.1), s.arg.flag || v.2))) ∧
          (s.arg.c ≠ 0 → c.stopped = false → (thr s s.arg.a).dying = false → (thr s s.arg.a).frz = none →
            Runs .rowResponse s fun t => CopyStopped s.arg.a s.arg.b w.row s.arg.c ((peerAddrs s s.arg.a c w).headD 0) c s t)))) ∧
    (c.resp = [] → c.acks = [] →
      ((thr s s.arg.a).dying = true → c.stopped = true → Runs .copyCompletion s fun t => (thr t s.arg.a).copies = (thr s s.arg.a).copies.eraseIdx s.arg.b ∧
        (thr t s.arg.a).c = (thr s s.arg.a).c ∧ LocalKeep s t ∧ OuterKeep s t ∧ ∀ u, u ≠ s.arg.a → thr t u = thr s u) ∧
      (c.issued = true → c.stopped = false →
        (c.bar = 0xFF ∨ (thr s s.arg.a).dying = true ∨ arrivedAt (thr s s.arg.a) c.bar = false → Runs .copyCompletion s fun t =>
          kOf (thr t s.arg.a) c.k = .done ∧ KKeep [c.k] (thr s s.arg.a) (thr t s.arg.a) ∧
          (thr t s.arg.a).copies = (thr s s.arg.a).copies.eraseIdx s.arg.b ∧ (thr t s.arg.a).c.pc = (thr s s.arg.a).c.pc ∧
          (c.bar ≠ 0xFF → (thr s s.arg.a).dying = false → c.bar ∈ (thr t s.arg.a).arrivals) ∧
          (c.arrived = false → c.nr ≠ 0 → c.kind ≠ 2 → (thr s s.arg.a).dying = false → ∀ m, m = bitsLeft (thr s s.arg.a) s.clock.now 3 c.nr (maskOf fun n => decide (n < rowCount c)) →
            ∀ n, n < 64 → (pOf (thr t s.arg.a) c.nr).getLsbD n = if m.getLsbD n then decide (∃ r ∈ c.nonres, r % 64 = n) else (pOf (thr s s.arg.a) c.nr).getLsbD n) ∧
          (∀ n, (n ≠ c.nr ∨ c.kind = 2 ∨ c.arrived = true) → pOf (thr t s.arg.a) n = pOf (thr s s.arg.a) n) ∧
          GKeep [] (thr s s.arg.a) (thr t s.arg.a) ∧ LocalKeep s t ∧ ∀ u, u ≠ s.arg.a → thr t u = thr s u) ∧
        (c.bar ≠ 0xFF → (thr s s.arg.a).dying = false → arrivedAt (thr s s.arg.a) c.bar = true → c.arrived = false → Runs .copyCompletion s fun t =>
          (thr t s.arg.a).copies = List.set (thr s s.arg.a).copies s.arg.b ({ c with arrived := true, refs := [] } : Copy) ∧
          kOf (thr t s.arg.a) c.k = kOf (thr s s.arg.a) c.k ∧ LocalKeep s t ∧ ∀ u, u ≠ s.arg.a → thr t u = thr s u)))) ∧
  (∀ (s : State) x, s.arg.d = 3 → s.hub.wrote[s.arg.e]? = some x → x.cause = 0 → Runs .rowResponse s fun t =>
    t = { s with hub := { s.hub with wrote := if s.arg.c ≠ 0 ∧ unitLives s x = true then List.set s.hub.wrote s.arg.e ({ x with cause := s.arg.c } : HubAccess) else s.hub.wrote.eraseIdx s.arg.e } }) ∧
  (∀ (s : State) key, s.arg.d = 2 → s.hub.asked[s.arg.e]? = some key → (s.arg.c = 0 → s.arg.bytes.length = key.size) → Runs .rowResponse s fun t =>
    t = { s with hub := { s.hub with asked := s.hub.asked.eraseIdx s.arg.e, got := s.hub.got ++ [(key, s.arg.bytes, s.arg.flag, s.arg.c)] } }) ∧
  ∀ (s : State) e c, handleOf s s.arg.a s.arg.b = some e → e.conv = some c → e.failed = false → e.away = none → relayFirst s s.arg.a s.arg.b c = true →
    hubBusy s (.relay s.arg.b c.order) s.arg.a = false → c.sent = false →
    (BlockAtHand s s.arg.a e.hrec c →
      (c.c + 1 ≠ blockCount e.hrec → Runs .relayoutBlock s fun t => handleOf t s.arg.a s.arg.b = some { e with conv := some { c with c := c.c + 1, busy := false } } ∧
        (∀ u, thr t u = thr s u) ∧
        (Unpoisoned s → e.hrec.space = 1 → c.hrec.space = 1 → c.hrec.fmt = e.hrec.fmt → padCoords c.hrec c.c = [] →
          (∀ x ∈ blockCoords e.hrec c.c, ∀ y ∈ blockCoords e.hrec c.c,
            (c.hrec.tile ≠ e.hrec.tile ∨ c.hrec.base + (offsetOf c.hrec x).1 + elemBytes e.hrec.fmt ≤ e.hrec.base + (offsetOf e.hrec y).1 ∨
              e.hrec.base + (offsetOf e.hrec y).1 + elemBytes e.hrec.fmt ≤ c.hrec.base + (offsetOf c.hrec x).1) ∧
            (x ≠ y → (offsetOf c.hrec x).1 + elemBytes e.hrec.fmt ≤ (offsetOf c.hrec y).1 ∨ (offsetOf c.hrec y).1 + elemBytes e.hrec.fmt ≤ (offsetOf c.hrec x).1 ∨
              (e.hrec.fmt = 4 ∧ (offsetOf c.hrec x).1 = (offsetOf c.hrec y).1 ∧ (offsetOf c.hrec x).2 ≠ (offsetOf c.hrec y).2))) →
          ∀ x ∈ blockCoords e.hrec c.c,
            elemFrom e.hrec.fmt (offsetOf c.hrec x).2 (readBytes (tile t c.hrec.tile).mem (c.hrec.base + (offsetOf c.hrec x).1) (elemBytes e.hrec.fmt)) =
            elemFrom e.hrec.fmt (offsetOf e.hrec x).2 (readBytes (tile s e.hrec.tile).mem (e.hrec.base + (offsetOf e.hrec x).1) (elemBytes e.hrec.fmt)))) ∧
      (c.c + 1 = blockCount e.hrec → Runs .relayoutBlock s fun t => handleOf t s.arg.a s.arg.b = some { e with hrec := c.hrec, conv := none } ∧
        look 0 (part t s.arg.a).gens s.arg.b = look 0 (part s s.arg.a).gens s.arg.b + 1 ∧ TokenDone c s t)) ∧
    (∀ x rest y, blockCoords e.hrec c.c = x :: rest → e.hrec.space ≠ 1 →
      y = e.hrec.base + (offsetOf e.hrec x).1 → Refuses s c.pasid y → Runs .relayoutBlock s fun t =>
        handleOf t s.arg.a s.arg.b = some { e with failed := true, conv := some { c with busy := false } } ∧ TokenDone c s t)

/-- R353 to R371, R375 to R379 and 25 R497, R501, R502: what the host answers and does, and how the migration agent goes on. That an unaligned FRAMEPUSH
is ignored is the choice of log entry 37, the group index that of 111, which host memory rejects an access that of 115, and the bytes past a stored payload
that of 121; what opens and closes functions to the host that of 100. -/
def Obligations.ResidencyEvents : Prop := (∀ (s : State), FromHost s → (s.arg.b, s.arg.c) ∈ (die s s.arg.a).reqs → (s.arg.b, s.arg.c) ∉ (die s s.arg.a).stale → (∀ x ∈ (die s s.arg.a).queued, x.2 ≠ (s.arg.b, s.arg.c)) →
    (Answers s.arg.xlat s.arg.c ∨ s.arg.xlat.refused = true) →
    Runs .translationCompletion s fun t => t = { s with dies := t.dies, out := t.out } ∧ (s.arg.b, s.arg.c) ∉ (die t s.arg.a).reqs ∧ (∀ d, d ≠ s.arg.a → die t d = die s d) ∧
      (Answers s.arg.xlat s.arg.c → (s.arg.a ≠ 4 ∨ s.arg.xlat.r = true ∨ s.arg.xlat.w = true) → ∃ e ∈ (die t s.arg.a).agent, e.pasid = s.arg.b ∧ e.refused = false ∧
        e.r = s.arg.xlat.r ∧ e.w = s.arg.xlat.w ∧ e.size = min s.arg.xlat.size (2 ^ 30) ∧ e.base ≤ s.arg.c * 4096 ∧ s.arg.c * 4096 < e.base + e.size ∧
        e.target + s.arg.xlat.base = e.base + s.arg.xlat.target) ∧
      (s.arg.xlat.refused = true → s.arg.a ≠ 4 → ({ pasid := s.arg.b, base := s.arg.c * 4096, size := 4096, refused := true } : XEntry) ∈ (die t s.arg.a).agent)) ∧
  (∀ (s : State), FromHost s → (s.arg.b, s.arg.c) ∈ (die s s.arg.a).reqs → (s.arg.b, s.arg.c) ∈ (die s s.arg.a).stale →
    Runs .translationCompletion s fun t => t.out = s.out ++ [onStream s s.arg.d (.atsRequest s.arg.a s.arg.d s.arg.b s.arg.c)] ∧ (die t s.arg.a).reqs = (die s s.arg.a).reqs ∧ (s.arg.b, s.arg.c) ∉ (die t s.arg.a).stale) ∧
  (∀ (s : State), FromHost s → (∀ e ∈ s.dies, e.2.invals.length < 32) → Runs .atsInvalidation s fun t => LocalKeep s t ∧ OuterKeep s t ∧ (∀ u, (thr t u).c = (thr s u).c ∧ (thr t u).e = (thr s u).e) ∧
    (∀ d, d < 4 → (die t d).invals.length = (die s d).invals.length + 1) ∧
    (∀ x, (s.arg.flag = true ∨ x.pasid = s.arg.a) → meets s.arg.b s.arg.c x.base x.size = true → (∀ n, x ∉ (tile t n).cache) ∧ ∀ d, x ∉ (die t d).agent) ∧
    (∀ d x, d < 5 → x ∈ (die s d).reqs → Covers s x.1 x.2 → x ∈ (die t d).stale) ∧
    (∀ (u i : Nat) (r : FarReq), (thr s u).far[i]? = some r → r.held = 1 → dieOf (tileOf u) < 4 → Covers s (thr s u).id.pasid (r.va / 4096) →
      (thr t u).far[i]? = some { r with held := 2 }) ∧
    ∀ q m, m ∈ (part t q).migs → ¬(m.stage = 6 ∧ Covers s m.pasid (m.va / 4096))) ∧
  (∀ (s : State) i rest, (die s s.arg.a).invals = i :: rest → (∀ x ∈ i.waits, stillUnder s x = false) → (∀ n ∈ i.hub, hubUnder s n = false) →
    Runs .invalidationCompletion s fun t => (die t s.arg.a).invals = rest ∧ t.out = s.out ++ [.invalidationDone s.arg.a i.va i.size] ∧ t = { s with dies := t.dies, out := t.out }) ∧
  (∀ (s : State) q rest, (die s s.arg.a).batch = q :: rest → (die s s.arg.a).closed = [] → (die s s.arg.a).ready = [] → (die s s.arg.a).batchNs + (part s q.part).regs.prtimer ≤ s.clock.halfNs / 2 →
    Runs .batchTimer s fun t => (die t s.arg.a).batch = [] ∧ t.threads = s.threads ∧ t.tiles = s.tiles ∧ t.hbm = s.hbm ∧
      (∀ x ∈ (die s s.arg.a).batch, pagePending (die t s.arg.a) x.pasid x.page = true) ∧
      ∀ i, rest = [] → prgFree s q.vf = some i → flqRoomFor s q.part 1 = true → prgPages s q.vf + 1 ≤ prgAllocOf s q.vf →
        onStream s q.vf (.pageRequest q.vf i q.pasid q.page q.w true) ∈ t.out ∧ ({ vf := q.vf, idx := i, pages := [q] } : PrgGroup) ∈ (die t s.arg.a).groups) ∧
  (∀ (s : State) d g, FromHost s → d < 4 → g ∈ (die s d).groups → g.vf = s.arg.a → g.idx = s.arg.b → (∀ e x, e < d → x ∈ (die s e).groups → ¬(x.vf = s.arg.a ∧ x.idx = s.arg.b)) →
    Runs .prgResponse s fun t => LocalKeep s t ∧ (∀ (u i : Nat) (r : FarReq), (thr s u).far[i]? = some r → r.held = 1 → dieOf (tileOf u) = d →
      (∃ q ∈ g.pages, q.pasid = (thr s u).id.pasid ∧ q.page = r.va / 4096) → (thr t u).far[i]? = some { r with held := 3 }) ∧
      (s.arg.code = .failure → s.arg.a ∈ t.refusedVf)) ∧
  (∀ (s : State), s.sec.life = .recovery → exec .pageRequestEnable s = .next s) ∧
  (∀ (s : State), s.sec.life ≠ .recovery → s.arg.badIde = true → Runs .pageRequestEnable s fun t => t = { s with sec := t.sec } ∧
    tdispOf t s.arg.a = (if tdispOf s s.arg.a = .run then .error else tdispOf s s.arg.a) ∧ ∀ u, u ≠ s.arg.a → tdispOf t u = tdispOf s u) ∧
  (∀ (s : State), FromHost s → (s.arg.flag = false → Runs .pageRequestEnable s fun t => t = { s with refusedVf := t.refusedVf } ∧ s.arg.a ∉ t.refusedVf ∧
      ∀ v, v ≠ s.arg.a → (v ∈ t.refusedVf ↔ v ∈ s.refusedVf)) ∧
    (s.arg.flag = true → Runs .pageRequestEnable s fun t => prgAllocOf t s.arg.a = s.arg.b ∧ (∀ v, v ≠ s.arg.a → prgAllocOf t v = prgAllocOf s v) ∧ t.threads = s.threads)) ∧
  (∀ (s : State) m, (find s.parts s.arg.a).isSome = true → nextCommand (part s s.arg.a) = some m →
    (∀ f rest, m.stage = 0 → (part s s.arg.a).frames = f :: rest → Runs .migrationCommand s fun t => OnlyPart s.arg.a s t ∧ (part t s.arg.a).frames = rest ∧
      (part t s.arg.a).migs = (part s s.arg.a).migs.map fun x => if x.num = m.num then { x with stage := 1, frame := f } else x) ∧
    ((m.stage = 1 ∨ m.stage = 2) → m.sent = false → (∃ h, HubHome s s.arg.a m.pasid m.va 4096 false h) → Runs .migrationCommand s fun t => t.threads = s.threads ∧ LocalKeep s t ∧ OuterKeep s t ∧
      (∀ q, q ≠ s.arg.a → part t q = part s q) ∧ ∀ x ∈ (part t s.arg.a).migs, x.num = m.num → x.stage = 3 ∧
        ∀ e, Sees (die s 4).agent 4096 m.pasid m.va 4096 e → x.target = e.target + (m.va - e.base)) ∧
    (0 < m.stage → m.stage < 4 → m.sent = false → Refuses s m.pasid m.va → Runs .migrationCommand s fun t => LocalKeep s t ∧ OuterKeep s t ∧
      (∀ x ∈ (part t s.arg.a).migs, x.num = m.num → x.stage = 7 ∧ x.flags = 2) ∧ (part t s.arg.a).stats.aband = min 65535 ((part s s.arg.a).stats.aband + 1)) ∧
    (∀ h g, m.stage = 3 → m.sent = false → HubHome s s.arg.a m.pasid m.va 4096 false h → homeOf s s.arg.a m.frame 4096 = .ok g → (∀ w q, g ≠ .peer w q) →
      hostRejects s h 4096 = true ∨ hostRejects s g 4096 = true → Runs .migrationCommand s fun t => LocalKeep s t ∧ OuterKeep s t ∧
      (∀ x ∈ (part t s.arg.a).migs, x.num = m.num → x.stage = 7 ∧ x.flags = 2) ∧ (part t s.arg.a).stats.aband = min 65535 ((part s s.arg.a).stats.aband + 1)) ∧
    (∀ h g, m.stage = 3 → m.sent = false → hubBusy s (.mig m.num) s.arg.a = false → HubHome s s.arg.a m.pasid m.va 4096 false h → homeOf s s.arg.a m.frame 4096 = .ok g →
      (∀ w q, g ≠ .peer w q) → hostRejects s h 4096 = false → hostRejects s g 4096 = false → Unpoisoned s → Runs .migrationCommand s fun t =>
      t.threads = s.threads ∧ LocalKeep s t ∧ (∀ q, q ≠ s.arg.a → part t q = part s q) ∧ (∀ x ∈ (part t s.arg.a).migs, x.num = m.num → x.stage = 4) ∧
      (∀ o, g = .hbm o → readBytes t.hbm.mem o 4096 = (homeRead s h 4096).1 ∧ (∀ x, x < o ∨ o + 4096 ≤ x → readByte t.hbm.mem x = readByte s.hbm.mem x) ∧
        ∀ x, readByte t.host x = readByte s.host x) ∧
      (∀ o, g = .host o → readBytes t.host o 4096 = (homeRead s h 4096).1 ∧ (∀ x, x < o ∨ o + 4096 ≤ x → readByte t.host x = readByte s.host x) ∧
        ∀ x, readByte t.hbm.mem x = readByte s.hbm.mem x)) ∧
    ((m.stage = 4 ∨ m.stage = 7) → flqRoomFor s s.arg.a 1 = true → Runs .migrationCommand s fun t => t.threads = s.threads ∧ LocalKeep s t ∧
      (part t s.arg.a).regs.flqtail = (part s s.arg.a).regs.flqtail + 1 ∧ ∀ x ∈ (part t s.arg.a).migs, x.num = m.num → m.stage = 4 ∧ x.stage = 5)) ∧
  (∀ (s : State), (find s.parts s.arg.a).isSome = true →
    (∀ m, (part s s.arg.a).migs.find? (fun m => m.stage = 5 && m.num.toNat = s.arg.b) = some m →
      (s.arg.flag = false → Runs .migack s fun t => OnlyPart s.arg.a s t ∧ (∀ x ∈ (part t s.arg.a).migs, x.num = m.num → x.stage = 6) ∧
        (part t s.arg.a).stats.slip = (if m.deadline < s.clock.halfNs / 2 / (part s s.arg.a).cfg.tickns then min (2 ^ 32 - 1) ((part s s.arg.a).stats.slip + 1) else (part s s.arg.a).stats.slip)) ∧
      (s.arg.flag = true → Runs .migack s fun t => (∀ x ∈ (part t s.arg.a).migs, x.num ≠ m.num) ∧ (part t s.arg.a).stats.aband = min 65535 ((part s s.arg.a).stats.aband + 1))) ∧
    ((part s s.arg.a).migs.find? (fun m => m.stage = 5 && m.num.toNat = s.arg.b) = none → exec .migack s = .next s)) ∧
  (∀ (s : State), (find s.parts s.arg.a).isSome = true → Runs .framepush s fun t => OnlyPart s.arg.a s t ∧
    (part t s.arg.a).frames = if (part s s.arg.a).frames.length < 256 ∧ s.arg.b % 4096 = 0 then (part s s.arg.a).frames ++ [s.arg.b] else (part s s.arg.a).frames) ∧
  (∀ (s : State) c, (find s.parts s.arg.a).isSome = true → c = (part s s.arg.a).cfg →
    (c.hbmBase * 2 ^ 30 ≤ s.arg.b * 4096 → s.arg.b * 4096 < (c.hbmBase + c.hbmSize) * 2 ^ 30 → Runs .ppatwr s fun t => t = { s with hbm := t.hbm } ∧ t.hbm.mem = s.hbm.mem ∧
      ∀ k, look 0 t.hbm.attr k = if k = s.arg.b then s.arg.flag.toNat else look 0 s.hbm.attr k) ∧
    (s.arg.b * 4096 < c.hbmBase * 2 ^ 30 ∨ (c.hbmBase + c.hbmSize) * 2 ^ 30 ≤ s.arg.b * 4096 → exec .ppatwr s = .next s)) ∧
  ∀ (s : State) n, 0 < n →
    (s.sec.life = .recovery → s.arg.a + n ≤ 768 * 2 ^ 30 → n = (if s.arg.flag = true then s.arg.bytes.length else s.arg.b) → exec .hostWindowAccess s = .next s) ∧
    (∀ b k, s.sec.life ≠ .recovery → s.arg.flag = false → s.arg.a = 256 * b → s.arg.b = 256 → s.arg.a + 256 ≤ 768 * 2 ^ 30 - 192 * 2 ^ 20 → deadKey s.hbm b = some k →
      Runs .hostWindowAccess s fun t => t.out = s.out ++ [.windowData (storedBlock s.hbm k b) (poisonedIn s.hbm.poison s.arg.a 256)]) ∧
    (s.sec.life ≠ .recovery → s.hbm.dead = [] → s.arg.a + n ≤ 768 * 2 ^ 30 - 192 * 2 ^ 20 →
      (s.arg.flag = true → s.arg.bytes.length = n → s.hbm.poison = [] → s.arg.c = 0 → Runs .hostWindowAccess s fun t =>
        (∀ k, k < n → readByte t.hbm.mem (s.arg.a + k) = s.arg.bytes.getD k 0) ∧ ∀ x, x < s.arg.a ∨ s.arg.a + n ≤ x → readByte t.hbm.mem x = readByte s.hbm.mem x) ∧
      (s.arg.flag = false → s.arg.b = n → Runs .hostWindowAccess s fun t => t.threads = s.threads ∧ LocalKeep s t ∧ OuterKeep s t ∧
        t.out = s.out ++ [.windowData (readBytes s.hbm.mem s.arg.a n) (poisonedIn s.hbm.poison s.arg.a n)])) ∧
    (s.sec.life ≠ .recovery → 768 * 2 ^ 30 - 192 * 2 ^ 20 < s.arg.a + n → s.arg.a + n ≤ 768 * 2 ^ 30 →
      (s.arg.flag = true → s.arg.bytes.length = n → exec .hostWindowAccess s = .next s) ∧
      (s.arg.flag = false → s.arg.b = n → Runs .hostWindowAccess s fun t => ∃ bs, bs.length = n ∧ t = { s with out := s.out ++ [.windowData bs false] }))

/-- R383, R386 to R404 and R412: how an open run of a collective goes on. What an op computes is the function opResult; which generations
have passed is the function passed. That the timer stands still for tmo µs after a completion is log entry 117 (DEDUCED). -/
def Obligations.CollectiveEvents : Prop := (∀ (s : State) (c : Coll) (p f : Nat), p = s.arg.a → f = s.arg.b → find (part s p).colls f = some c →
  (∀ x r, x = s.arg.chunk → r = chanOf c s.arg.c →
    (accepts s p ({ s.arg.beat with smod := x.smod } : Beat) = false → exec .chunk s = .next s) ∧
    (accepts s p ({ s.arg.beat with smod := x.smod } : Beat) = true →
      (c.open_ = false ∨ (if x.head then x.gen ≠ c.gen.toNat else x.gen % 256 ≠ c.gen.toNat % 256) ∨ r.dir ≠ 1 ∨ r.peer ≠ x.smod ∨ r.pch ≠ x.pch →
        Runs .chunk s fun t => OnlyPart p s t ∧ find (part t p).colls f = some { c with late := c.late + 1 }) ∧
      (c.open_ = true → (if x.head then x.gen = c.gen.toNat else x.gen % 256 = c.gen.toNat % 256) → r.dir = 1 → r.peer = x.smod → r.pch = x.pch →
        ((chst c s.arg.c).consumed + r.depth ≤ x.seq → exec .chunk s = .next { s with inputs := s.inputs ++ [{ at_ := s.clock.now + 1, what := .chunk, arg := { a := p, b := f, c := s.arg.c, chunk := x, beat := { smod := x.smod, spart := s.arg.beat.spart, lone := s.arg.beat.lone, group := s.arg.beat.group } } }] }) ∧
        (x.seq < (chst c s.arg.c).consumed + r.depth →
          (x.head = true → headBad c s.arg.c x.seq x.lo x.hi = false → Runs .chunk s fun t => OnlyPart p s t ∧
            ∃ y, find (part t p).colls f = some y ∧ (look ({} : SlotSt) (chst y s.arg.c).slots x.seq).head = some (x.lo, x.hi) ∧ y.opst = c.opst ∧ y.gen = c.gen ∧ y.late = c.late) ∧
          (x.head = true → headBad c s.arg.c x.seq x.lo x.hi = true → ∀ tid, Takes s c tid → Runs .chunk s fun t =>
            (∃ y, find (part t p).colls f = some y ∧ y.open_ = false ∧ y.status = 1 ∧ y.gen = c.gen) ∧
            (∀ m ∈ otherModules s c, Sent (.abortNotice m f c.gen c.r) m s t) ∧ Faulted 10 6 true (misuse f 74 0) 0 { s with cur := tid } { t with cur := tid }) ∧
          (x.head = false → x.line < 64 → x.bytes.length = 64 → Runs .chunk s fun t => OnlyPart p s t ∧
            ∃ y, find (part t p).colls f = some y ∧ find (look ({} : SlotSt) (chst y s.arg.c).slots x.seq).lines x.line = some { bytes := x.bytes, poison := x.poison } ∧ y.opst = c.opst ∧ y.late = c.late))))) ∧
  (∀ g, g = BitVec.ofNat 32 s.arg.d → fromMember s p = true →
    (passed c g = false ∨ (c.open_ = true ∧ g = c.gen) → Runs .ringLimit s fun t => OnlyPart p s t ∧ ∃ y, find (part t p).colls f = some y ∧ (chst y s.arg.c).limGen = g ∧
      (chst y s.arg.c).limit = if (chst c s.arg.c).limGen = g then max (chst c s.arg.c).limit s.arg.e else s.arg.e) ∧
    (passed c g = true → ¬(c.open_ = true ∧ g = c.gen) → exec .ringLimit s = .next s)) ∧
  (∀ i o, i = s.arg.c → o = opOf c i → c.open_ = true → i < c.ops.length →
    ((opSt c i).started = false → (opSt c i).deps = 0 → present c i o.a = true → present c i o.b = true →
      Runs .opStart s fun t => OnlyPart p s t ∧ ∃ y, find (part t p).colls f = some y ∧ (opSt y i).started = true ∧ (opSt y i).complete = (opSt c i).complete ∧ ∀ j, j ≠ i → opSt y j = opSt c j) ∧
    (c.part = p → (opSt c i).started = true → (opSt c i).complete = false → (opSt c i).sent = false → hubBusy s (.run f c.gen i) p = false →
      (o.o.kind ≠ 2 ∨ ((chst c o.o.index).limGen = c.gen ∧ chunkNo (writesChan o.o.index) c i < (chst c o.o.index).limit)) →
      (∀ ha hb ho a b m v ws, OperandFound s c o.a false ha →
        (if o.kind = 4 then LinesFound s c (masterVa c o) (chunkElems c.wf / 16) false hb ∧ LinesFound s c (masterVa c o) (chunkElems c.wf / 16) true hb else OperandFound s c o.b false hb) →
        OperandFound s c o.o true ho → a = operandVal s c i o.a ha → m = (if o.kind = 4 then readLines s hb else []) → b = (if o.kind = 4 then {} else operandVal s c i o.b hb) →
        (v, ws) = opResult c o a b m →
        (spanBad c o false a = false → (o.kind = 4 ∨ spanBad c o true b = false) → Runs .opCompletion s fun t => ∃ y, find (part t p).colls f = some y ∧ y.gen = c.gen ∧
          (∀ j, j < c.ops.length → j ≠ i → (opSt c j).complete = false →
            y.open_ = true ∧ (opSt y i).complete = true ∧ (opSt y j).complete = false ∧ y.quiet = c.tmo * 2000 ∧ y.timerNs = c.timerNs) ∧
          (o.o.kind = 2 → ∀ q, q = (chanOf c o.o.index).peer →
            Sent (.beats 0 (chunkBeats (beatFor s p q (some c.launch)) f c.gen (chunkNo (writesChan o.o.index) c i) (sourceNo o) v.lo v.hi o.o.index v.lines)) q s t) ∧
          (Unpoisoned s → HomesApart ((if o.kind = 4 then hb else []) ++ ho) → (∀ l ∈ ws ++ v.lines, l.bytes.length = 64 ∧ l.poison = false) →
            (∀ (k : Nat) h l, o.o.kind = 1 → ho[k]? = some h → v.lines[k]? = some l → (homeRead t h 64).1 = l.bytes) ∧
            ∀ (k : Nat) h l, o.kind = 4 → hb[k]? = some h → ws[k]? = some l → (homeRead t h 64).1 = l.bytes)) ∧
        (spanBad c o false a = true ∨ (o.kind ≠ 4 ∧ spanBad c o true b = true) → ∀ tid, Takes s c tid → Runs .opCompletion s fun t =>
          (∃ y, find (part t p).colls f = some y ∧ y.open_ = false ∧ y.status = 1 ∧ y.gen = c.gen) ∧ (∀ q ∈ otherModules s c, Sent (.abortNotice q f c.gen c.r) q s t) ∧
          Faulted 10 6 true (misuse f 74 0) 0 { s with cur := tid } { t with cur := tid })) ∧
      (o.a.kind = 1 → Refuses s c.pasid (chunkVa c o.a) → ∀ tid, Takes s c tid → Runs .opCompletion s fun t =>
        (∃ y, find (part t p).colls f = some y ∧ y.open_ = false ∧ y.status = 1 ∧ y.gen = c.gen) ∧ (∀ q ∈ otherModules s c, Sent (.abortNotice q f c.gen c.r) q s t) ∧
        Faulted 1 6 true (BitVec.ofNat 64 (2 + c.mpc % 65536 * 65536 + c.cmd.toNat * 2 ^ 32)) (BitVec.ofNat 64 (chunkVa c o.a)) { s with cur := tid } { t with cur := tid }))) ∧
  (∀ r g, r = s.arg.d → g = BitVec.ofNat 32 s.arg.c → fromMember s p = true →
    ((passed c g = false ∨ (c.open_ = true ∧ g = c.gen)) → Runs .done s fun t => OnlyPart p s t ∧ ∃ y, find (part t p).colls f = some y ∧ noticeKey g r ∈ y.done ∧ y.gen = c.gen ∧
      (c.open_ = true → g = c.gen → (∀ q, q < c.n → q = r ∨ noticeKey c.gen q ∈ c.done) → y.open_ = false ∧ y.status = 0) ∧
      (c.open_ = true → g = c.gen → ∀ q, q < c.n → q ≠ r → noticeKey c.gen q ∉ c.done → y.open_ = true)) ∧
    (passed c g = true → ¬(c.open_ = true ∧ g = c.gen) → exec .done s = .next s) ∧
    (c.open_ = true → g = c.gen → noticeKey c.gen c.r ∉ c.done → Runs .abortNotice s fun t => OnlyPart p s t ∧ ∃ y, find (part t p).colls f = some y ∧ y.open_ = false ∧ y.status = 1 ∧ y.gen = c.gen ∧ y.opst = []) ∧
    (passed c g = true → ¬(c.open_ = true ∧ g = c.gen ∧ noticeKey c.gen c.r ∉ c.done) → exec .abortNotice s = .next s) ∧
    (passed c g = false → Runs .abortNotice s fun t => OnlyPart p s t ∧ ∃ y, find (part t p).colls f = some y ∧ g.toNat ∈ y.aborted ∧ y.open_ = c.open_ ∧ y.gen = c.gen) ∧
    (Runs .absent s fun t => OnlyPart p s t ∧ ∃ y, find (part t p).colls f = some y ∧ noticeKey g r ∈ y.absent ∧ ∀ k, k ≠ noticeKey g r → (k ∈ y.absent ↔ k ∈ c.absent)) ∧
    (Runs .present s fun t => OnlyPart p s t ∧ ∃ y, find (part t p).colls f = some y ∧ noticeKey g r ∉ y.absent ∧ ∀ k, k ≠ noticeKey g r → (k ∈ y.absent ↔ k ∈ c.absent))) ∧
  (timerRuns c = true → c.tmo * 2000 ≤ c.timerNs →
    (∀ tid, Takes s c tid → Runs .collectiveTimeout s fun t => (∃ z g, (thr t tid).frz = some z ∧ z.fault = some g ∧ g.code = 9 ∧ g.engine = 6 ∧ g.defer = true ∧ g.async = true ∧
        g.lo = BitVec.ofNat 64 (f + c.gen.toNat * 65536)) ∧ (thr t tid).c = (thr s tid).c ∧
      ∃ y, find (part t p).colls f = some y ∧ y.timerOff = true ∧ y.timerNs = 0 ∧ y.open_ = c.open_) ∧
    ((∃ tid, liveAs s c.team c.member = some tid ∧ (thr s tid).dying = false ∧ (thr s tid).frz ≠ none) ∨ (liveAs s c.team c.member = none ∧ isSaved s p c.team c.member = true) → Runs .collectiveTimeout s fun t => OnlyPart p s t ∧ ∃ y g, find (part t p).colls f = some y ∧ y.timerOff = true ∧ y.timerNs = 0 ∧ y.open_ = c.open_ ∧
      y.heldFault = some g ∧ g.code = 9 ∧ g.lo = BitVec.ofNat 64 (f + c.gen.toNat * 65536)))) ∧
∀ (s : State), fromMember s s.arg.a = false → ∀ i ∈ [Instr.ringLimit, .done, .abortNotice, .absent, .present], exec i s = .next s

/-- R289, R291, R295 to R307, R310, R312, R316, R382: how packets are looked up, moved and delivered. Where a packet goes next is the function moveOn;
how a COMBINE evaluates its nodes is evalNodes, the prefix of a SCAN scanValue, and an updated master updateElem_. The copies of a multicast at the
hub are the choice of log entry 22, a packet without the translations of its FSEND that of 23, delivery at a peer in pieces that of 91, the class of
a COMBINE output that of 107, the counts of a drain those of 108, the count of a broken binding that of 110, and when a TRANSPOSE output leaves that
of 116. -/
def Obligations.PacketEvents : Prop := (∀ (s : State) i p, i = s.arg.a → Next s i p →
    (∀ tl c, p.loc = .router tl → c = countAt (tile s tl) p.part →
      ((part s p.part).draining ≠ none → Runs .packetLookup s fun t => t.packets = s.packets.eraseIdx i ∧ OnlyCounted s t tl p.part { c with bound := min 65535 (c.bound + 1) }) ∧
      ((part s p.part).draining = none →
        (∀ l n, (p.fresh = true ∨ ∀ x, entryAt s p.part tl p.flow = some x → spanOutside x.frec p = true) → moveOn s p tl = (l, n) → canGo s i (l.map (following p)) = true → Runs .packetLookup s fun t =>
          t.packets = s.packets.eraseIdx i ++ l.map (following p) ∧ OnlyCounted s t tl p.part { c with transit := (if p.fresh then c.transit else (c.transit + 1) % 2 ^ 64), bound := (if n = 0 then c.bound else min 65535 (c.bound + n)) }) ∧
        (∀ x e, p.fresh = false → entryAt s p.part tl p.flow = some x → e = x.frec → e.id = p.flow → spanOutside e p = false →
          (e.gen ≠ p.gen → Runs .packetLookup s fun t => t.packets = s.packets.eraseIdx i ∧ countAt (tile t tl) p.part = { c with late := min 65535 (c.late + 1) } ∧
            entryAt t p.part tl p.flow = some { x with late := x.late + 1 } ∧ LocalKeep s t ∧ t.threads = s.threads) ∧
          (e.gen = p.gen → stopped s (.router tl) actionLink = false →
            (e.action = 2 → Runs .packetLookup s fun t => entryAt t p.part tl p.flow = some { x with done := x.done + 1 } ∧ t.tiles = s.tiles ∧ t.threads = s.threads ∧
              ∃ q, t.packets = s.packets.eraseIdx i ++ [q] ∧ q.flow = e.id ∧ q.gen = e.gen ∧ q.seq = p.seq ∧ q.len = p.len ∧ q.part = p.part ∧ q.src = tl ∧ q.sctx = 0xFF ∧ q.dkind = e.okind % 4 ∧
                q.dtile = e.otile ∧ q.dctx = e.octx ∧ q.q = e.oq ∧ q.addr = e.oaddr ∧ q.dv = e.odv ∧ q.flag = e.oflag ∧ q.rlo = p.rlo ∧ q.rhi = p.rhi ∧ q.data = p.data ∧
                q.loc = .router tl ∧ q.fresh = true ∧ q.err = false ∧ q.cls = p.cls ∧ q.due = s.clock.now) ∧
            (e.action = 3 → p.len = e.len → followers s p.part tl e.id = [] → Runs .packetLookup s fun t =>
              (∃ y, entryAt t p.part tl p.flow = some y ∧ y.hold = some (p.seq, p.data)) ∧ (e.otile = 0xFFFF → t.packets = s.packets.eraseIdx i) ∧ t.tiles = s.tiles ∧ t.threads = s.threads) ∧
            (∀ vs k, e.action = 1 → isNode e.n p.rlo p.rhi = true → p.len = e.len → overlaps (valsOf x p.seq) p.rlo p.rhi = false → mustWait x p.seq = false →
              evalNodes e.op e.wf e.n 4096 (valueOf p (leafOp e.op e.wf) e.wf :: valsOf x p.seq) = (vs, k) →
              ((∀ v ∈ vs, ¬(v.lo = e.slo ∧ v.hi = e.shi)) → Runs .packetLookup s fun t => t.packets = s.packets.eraseIdx i ∧
                entryAt t p.part tl p.flow = some { x with vals := vs ++ x.vals.filter fun v => v.seq != p.seq }) ∧
              (∀ v, vs.find? (fun v => v.lo = e.slo && v.hi = e.shi) = some v → Runs .packetLookup s fun t =>
                entryAt t p.part tl p.flow = some { x with vals := x.vals.filter fun v => v.seq != p.seq, done := x.done + 1 } ∧
                ∃ q, t.packets = s.packets.eraseIdx i ++ [q] ∧ q.flow = e.id ∧ q.seq = p.seq ∧ q.rlo = e.slo ∧ q.rhi = e.shi ∧ q.data = v.flits ∧ q.dkind = e.okind % 4 ∧ q.dtile = e.otile ∧ q.cls = p.cls ∧
                  q.due = s.clock.now + nodeTime e.wf e.len k)) ∧
            (∀ vs, e.action = 4 → p.rhi = p.rlo + 1 → p.len = e.len → overlaps (valsOf x p.seq) p.rlo p.rhi = false → mustWait x p.seq = false →
              vs = insertRank (valueOf p (fun y => y) e.wf) (valsOf x p.seq) →
              (vs.length ≠ e.shi - e.slo → Runs .packetLookup s fun t => t.packets = s.packets.eraseIdx i ∧ t.tiles = s.tiles ∧ t.threads = s.threads ∧
                entryAt t p.part tl p.flow = some { x with vals := vs ++ x.vals.filter fun v => v.seq != p.seq }) ∧
              (vs.length = e.shi - e.slo → Runs .packetLookup s fun t => ∃ l, t.packets = s.packets.eraseIdx i ++ l ∧ l.length = (vs.filter fun v => v.sctx != 0xFF).length ∧
                entryAt t p.part tl p.flow = some { x with vals := x.vals.filter fun v => v.seq != p.seq, done := x.done + BitVec.ofNat 32 l.length } ∧ t.threads = s.threads ∧
                countAt (tile t tl) p.part = (if (vs.filter fun v => v.sctx == 0xFF) = [] then c else { c with undeliv := min 65535 (c.undeliv + (vs.filter fun v => v.sctx == 0xFF).length) }) ∧
                ∀ (k : Nat) v, vs[k]? = some v → v.sctx ≠ 0xFF → ∃ q ∈ l, q.flow = e.id ∧ q.seq = p.seq ∧ q.dkind = 0 ∧ q.dtile = v.src ∧ q.dctx = v.sctx ∧ q.q = e.oq ∧
                  q.rlo = e.slo ∧ q.rhi = v.lo + 1 ∧ q.data = scanValue e (vs.take (k + 1)) ∧ q.err = false)) ∧
            (e.action = 5 → x.busy ≤ s.clock.now → p.len = e.len → Runs .packetLookup s fun t => t.tiles = s.tiles ∧ t.threads = s.threads ∧
              entryAt t p.part tl p.flow = some { x with busy := s.clock.now + p.len, done := x.done + 1 } ∧
              ∃ q, t.packets = s.packets.eraseIdx i ++ [q] ∧ q.flow = e.id ∧ q.seq = p.seq ∧ q.dkind = e.okind % 4 ∧ q.dtile = e.otile ∧ q.rlo = 0 ∧ q.rhi = 0 ∧
                q.due = s.clock.now + 7 ∧ q.data.length = (cut 8 8 p.data).length * 8 ∧
                ((∀ f ∈ p.data, f.bytes.length = 64) → ∀ g a b j, g < 8 → a < 8 → b < 8 → j < 8 → 8 * g + 8 ≤ p.data.length →
                  (q.data.getD (8 * g + a) {}).bytes.getD (8 * b + j) 0 = (p.data.getD (8 * g + b) {}).bytes.getD (8 * a + j) 0)) ∧
            (∀ y, e.action = 6 → entryAt s p.part tl e.hflow = some y → y.frec.action = 3 → p.len = e.len →
              (∀ held xs hs (n : Bool), y.hold = some (p.seq, held) → n = bitOf e.param.toNat 0 → xs = p.data.flatMap (fun f => elemsOf e.wf f.bytes) →
                hs = held.flatMap (fun f => elemsOf e.wf f.bytes) → (n = false ∨ xs.length ≤ y.frec.len * 64 / wireBytes e.wf) → Runs .packetLookup s fun t =>
                  t.tiles = s.tiles ∧ t.threads = s.threads ∧ entryAt t p.part tl p.flow = some { x with done := x.done + 1 } ∧
                  ∃ q vs, t.packets = s.packets.eraseIdx i ++ [q] ∧ q.flow = e.id ∧ q.seq = p.seq ∧ q.rlo = p.rlo ∧ q.rhi = p.rhi ∧ q.dkind = e.okind % 4 ∧ q.dtile = e.otile ∧
                    q.data = reflit e.wf vs (carry (fun k => (held.getD (if n = true then k else 0) {}).poison) p.data) ∧ vs.length = xs.length ∧
                    ∀ (k : Nat) v, xs[k]? = some v → ∀ a b, a = classify fp32 (widen (wireFmt e.wf) v) → b = classify fp32 (widen (wireFmt e.wf) (hs.getD (if n = true then k else 0) 0)) →
                      vs[k]? = some (narrow (wireFmt e.wf) (roundTo fp32 (if e.op = 0 then exactSum [a, negF b] else quot a b)))) ∧
              (∀ k held, y.hold = some (k, held) → p.seq.ult k = true → Runs .packetLookup s fun t => t.packets = s.packets.eraseIdx i ∧
                countAt (tile t tl) p.part = { c with late := min 65535 (c.late + 1) } ∧ entryAt t p.part tl p.flow = some { x with late := x.late + 1 }) ∧
              ((y.hold = none ∨ ∃ k held, y.hold = some (k, held) ∧ k ≠ p.seq ∧ p.seq.ult k = false) → x.wait.length < 64 → Runs .packetLookup s fun t =>
                t.packets = s.packets.eraseIdx i ∧ entryAt t p.part tl p.flow = some { x with wait := x.wait ++ [p] } ∧ t.tiles = s.tiles ∧ t.threads = s.threads)) ∧
            (∀ xs, e.action = 7 → p.len = e.len → p.rlo = 0 → p.rhi = e.n → xs = p.data.flatMap (fun f => elemsOf e.wf f.bytes) →
              (ownerOf s p.part tl e.oaddr (4 * xs.length)).isSome = true → (tile s tl).poison = [] → (∀ f ∈ p.data, f.poison = false) → Runs .packetLookup s fun t =>
                t.threads = s.threads ∧ LocalOutside tl e.oaddr (4 * xs.length) s t ∧ entryAt t p.part tl p.flow = some { x with done := x.done + 1 } ∧
                (∀ (k : Nat) v, xs[k]? = some v → readBytes (tile t tl).mem (e.oaddr + 4 * k) 4 =
                  toBytes 4 (updateElem_ e (leNat (readBytes (tile s tl).mem (e.oaddr + 4 * k) 4)) v).1) ∧
                ∃ q vs, t.packets = s.packets.eraseIdx i ++ [q] ∧ q.flow = e.hflow ∧ q.seq = p.seq ∧ q.rlo = 0 ∧ q.rhi = e.n ∧ q.dkind = e.okind % 4 ∧ q.dtile = e.otile ∧
                  q.data = reflit e.wf vs p.data ∧ vs.length = xs.length ∧
                  ∀ (k : Nat) v, xs[k]? = some v → vs[k]? = some (updateElem_ e (leNat (readBytes (tile s tl).mem (e.oaddr + 4 * k) 4)) v).2) ∧
            (Erring s tl x p → Runs .packetLookup s fun t => t.threads = s.threads ∧ LocalKeep s t ∧ entryAt t p.part tl p.flow = some { x with error := x.error + 1 } ∧
              ((e.action = 4 ∧ p.sctx = 0xFF) ∨ (e.action = 3 ∧ e.otile = 0xFFFF) → t.packets = s.packets.eraseIdx i ∧
                countAt (tile t tl) p.part = { c with error := min 65535 (c.error + 1), undeliv := min 65535 (c.undeliv + 1) }) ∧
              (¬((e.action = 4 ∧ p.sctx = 0xFF) ∨ (e.action = 3 ∧ e.otile = 0xFFFF)) → countAt (tile t tl) p.part = { c with error := min 65535 (c.error + 1) } ∧
                ∃ q, t.packets = s.packets.eraseIdx i ++ [q] ∧ q.err = true ∧ q.flow = p.flow ∧ q.gen = p.gen ∧ q.src = p.src ∧ q.sctx = p.sctx ∧ q.seq = p.seq ∧ q.rlo = p.rlo ∧ q.rhi = p.rhi ∧
                  q.data = List.replicate p.len ({ bytes := List.replicate 64 0 } : Flit) ∧
                  (e.action = 4 → q.dkind = 0 ∧ q.dtile = p.src ∧ q.dctx = p.sctx ∧ q.q = e.oq) ∧
                  (e.action ≠ 4 → q.dkind = e.okind % 4 ∧ q.dtile = e.otile ∧ q.dctx = e.octx ∧ q.q = e.oq))))))) ∧
    (p.loc = .hub →
      ((part s p.part).draining ≠ none → Runs .packetLookup s fun t => HubDiscards i p s t) ∧
      ((part s p.part).draining = none →
        (p.dkind = 3 → Runs .packetLookup s fun t => t = { s with packets := List.set s.packets i (following p ({ p with loc := .home, due := s.clock.now + p.len } : Packet)) }) ∧
        (p.dkind ≠ 3 → (∀ l, canGo s i l = true) →
          (p.mcast = false → ∀ r, r = dieOf p.dtile * 144 + 132 + edgeCol s [dieOf p.link, dieOf p.dtile] (colNo p.dtile) → Runs .packetLookup s fun t =>
            t = { s with packets := (s.packets.eraseIdx i ++ [following p ({ p with loc := .router r, link := hubLink, org := r, due := s.clock.now + 3 } : Packet)]) }) ∧
          (p.mcast = true → Runs .packetLookup s fun t => t = { s with packets := t.packets } ∧ ∃ l, t.packets = s.packets.eraseIdx i ++ l ∧
            ∀ n d, n ∈ mcastBits p → d = windowTile p.dtile n → ∃ q ∈ l, bitOf q.dv n = true ∧ q.data = p.data ∧
              q.loc = .router (dieOf d * 144 + 132 + edgeCol s [dieOf p.link, dieOf d] (colNo d)))))) ∧
    (∀ tl c x, s.arg.d ≠ 1 → p.loc = .tile tl → (p.dkind = 0 ∨ p.behind = []) → c = countAt (tile s tl) p.part → x = thr s (tl * 6 + p.dctx) →
      ((part s p.part).draining ≠ none ∨ (occupied s (tl * 6 + p.dctx) = true ∧ x.dying = false ∧ x.id.part ≠ p.part) → Runs .delivery s fun t =>
        t.packets = s.packets.eraseIdx i ∧ OnlyCounted s t tl p.part { c with bound := min 65535 (c.bound + 1) }) ∧
      ((part s p.part).draining = none →
        (occupied s (tl * 6 + p.dctx) = false ∨ x.dying = true ∨ (x.id.part = p.part ∧ ((p.dkind = 1 ∧ (inAlloc x p.addr (64 * p.len) = false ∨ (p.flag ≠ 0 ∧ inAlloc x p.flag 8 = false))) ∨
            (p.dkind = 2 ∧ x.mq.boundBy ≠ some (p.src * 6 + p.sctx)))) → Runs .delivery s fun t =>
          t.packets = s.packets.eraseIdx i ∧ OnlyCounted s t tl p.part { c with undeliv := min 65535 (c.undeliv + 1) }) ∧
        (occupied s (tl * 6 + p.dctx) = true → x.dying = false → x.id.part = p.part →
          (∀ n, p.dkind = 0 → p.entered = 0 → n = min (hereCount p) (queueFree s x p.q) → 0 < n → Runs .delivery s fun t => t = { s with threads := t.threads, packets := t.packets } ∧
            t.packets = (if n = p.len + 1 then s.packets.eraseIdx i else List.set s.packets i ({ p with entered := n } : Packet)) ∧
            (∀ q, look [] (thr t (tl * 6 + p.dctx)).rx q = if q = p.q then look [] x.rx q ++ [{ pkt := { p with behind := [] }, arrived := n - 1 }] else look [] x.rx q) ∧
            (thr t (tl * 6 + p.dctx)).c = x.c ∧ ∀ u, u ≠ tl * 6 + p.dctx → thr t u = thr s u) ∧
          (∀ n l (r : RxPkt), p.dkind = 0 → 0 < p.entered → n = min (hereCount p) (queueFree s x p.q) → 0 < n → look [] x.rx p.q = l ++ [r] → Runs .delivery s fun t =>
            t.packets = (if p.entered + n = p.len + 1 then s.packets.eraseIdx i else List.set s.packets i ({ p with entered := p.entered + n } : Packet)) ∧
            (∀ q, look [] (thr t (tl * 6 + p.dctx)).rx q = if q = p.q then l ++ [{ r with arrived := r.arrived + n }] else look [] x.rx q) ∧ ∀ u, u ≠ tl * 6 + p.dctx → thr t u = thr s u) ∧
          (p.dkind = 1 → Allocated x p.addr (64 * p.len) → (tile s tl).poison = [] → p.data.length = p.len → (∀ g ∈ p.data, g.poison = false ∧ g.bytes.length = 64) →
            (p.flag = 0 → Runs .delivery s fun t => t = { s with tiles := t.tiles, packets := s.packets.eraseIdx i } ∧ LocalOutside tl p.addr (64 * p.len) s t ∧
              ∀ k j, k < p.len → j < 64 → readByte (tile t tl).mem (p.addr + 64 * k + j) = (p.data.getD k {}).bytes.getD j 0) ∧
            (p.flag ≠ 0 → Allocated x p.flag 8 → Runs .delivery s fun t => t = { s with tiles := t.tiles, packets := s.packets.eraseIdx i } ∧
              leNat (readBytes (tile t tl).mem p.flag 4) = p.seq.toNat ∧ leNat (readBytes (tile t tl).mem (p.flag + 4) 4) = p.gen.toNat)) ∧
          (p.dkind = 2 → x.mq.boundBy = some (p.src * 6 + p.sctx) → x.mq.operand.length + 64 * p.len ≤ 16384 → Runs .delivery s fun t =>
            t = { s with threads := t.threads, packets := s.packets.eraseIdx i } ∧ thr t (tl * 6 + p.dctx) = { x with mq := { x.mq with operand := x.mq.operand ++ p.data.flatMap Flit.bytes } } ∧
            ∀ u, u ≠ tl * 6 + p.dctx → thr t u = thr s u))))) ∧
  (∀ (s : State) i p, i = s.arg.a → s.arg.d ≠ 1 → s.packets[i]? = some p → p.due ≤ s.clock.now → p.loc = .home → p.held ≠ 1 → p.sent = false → p.behind = [] → sendOrder s i p = false →
    ((part s p.part).draining ≠ none → Runs .delivery s fun t => HubDiscards i p s t) ∧
    ((part s p.part).draining = none → p.data.length = p.len → (∀ g ∈ p.data, g.bytes.length = 64) →
      (∀ h va n, p.entered < p.len → va = p.addr + 64 * p.entered → n = flitsOfBlock p va → PieceAt s p va (64 * n) h →
        ((∀ m a, h ≠ .peer m a) → Runs .delivery s fun t => FlitsGone i n p s t ∧ t.threads = s.threads ∧
          (Unpoisoned s → (∀ g ∈ p.data, g.poison = false) → WrittenAt h (((p.data.drop p.entered).take n).flatMap Flit.bytes) s t)) ∧
        (∀ m a k l, h = .peer m a → k = min (p.len - p.entered) ((4096 - va % 4096) / 64) → 0 < k → l = (if p.byRouter = true then none else some p.launch) →
          (p.entered + k < p.len ∨ p.flag = 0 → Runs .delivery s fun t =>
            Left (.beats 0 (packetBeats (beatFor s p.part m l) (peerPart p k a 0))) m s t ∧ AwaitsPeer i k va p s t) ∧
          (∀ g, p.len ≤ p.entered + k → p.flag ≠ 0 → PieceAt s p p.flag 8 g →
            (∀ fa, g = .peer m fa → Runs .delivery s fun t => Left (.beats 0 (packetBeats (beatFor s p.part m l) (peerPart p k a fa))) m s t ∧ AwaitsPeer i (k + 1) va p s t) ∧
            ((∀ fa, g ≠ .peer m fa) → Runs .delivery s fun t => Left (.beats 0 (packetBeats (beatFor s p.part m l) (peerPart p k a 0))) m s t ∧ AwaitsPeer i k va p s t)))) ∧
      (∀ h, p.len ≤ p.entered → PieceAt s p p.flag 8 h →
        ((∀ m a, h ≠ .peer m a) → Runs .delivery s fun t => t.packets = s.packets.eraseIdx i ∧ t.threads = s.threads ∧
          (Unpoisoned s → WrittenAt h (toBytes 4 p.seq.toNat ++ toBytes 4 p.gen.toNat) s t)) ∧
        (∀ m a, h = .peer m a → Runs .delivery s fun t =>
          Left (.rowOut m (p.src * 6 + p.sctx) 0 a 8 true (toBytes 4 p.seq.toNat ++ toBytes 4 p.gen.toNat) [] 0) m s t ∧ AwaitsPeer i 1 p.flag p s t)) ∧
      (∀ va e cause, va = (if p.len ≤ p.entered then p.flag else p.addr + 64 * p.entered) → p.tr.find? (fun e => e.1 = va / 4096) = some e →
        homeOf s p.part (e.2 + va % 4096) (if p.len ≤ p.entered then 8 else 64 * flitsOfBlock p va) = .error cause → cause = 4 → Runs .delivery s fun t =>
          t.packets = s.packets.eraseIdx i ∧ LocalKeep s t ∧
          SenderFaults cause va p s t))) ∧
  (∀ (s : State) i p, s.arg.d = 1 → s.packets[i]? = some p → p.sent = true → packetNo p = s.arg.b → p.seq.toNat = s.arg.c →
    (∀ (j : Nat) q, j < i → s.packets[j]? = some q → ¬(q.sent = true ∧ packetNo q = s.arg.b ∧ q.seq.toNat = s.arg.c)) →
    (s.arg.e = 0 → Runs .delivery s fun t => t = { s with packets := if p.len + (if p.flag = 0 then 0 else 1) = p.entered then s.packets.eraseIdx i else List.set s.packets i ({ p with sent := false } : Packet) }) ∧
    (s.arg.e ≠ 0 → Runs .delivery s fun t => t.packets = s.packets.eraseIdx i ∧ LocalKeep s t ∧ SenderFaults s.arg.e p.peerVa p s t)) ∧
  ∀ (s : State), s.arg.d = 1 → (∀ q ∈ s.packets, ¬(q.sent = true ∧ packetNo q = s.arg.b ∧ q.seq.toNat = s.arg.c)) → exec .delivery s = .next s

/-- R465 to R468, R470, R475, R479 and R480; 02 R59; 17 R405 to R408: how queues, launches and nodes go on. The checks of an entry, a record and a
table are the functions entryGood, headerGood, nodeRecGood, predsGood, parseGroup and install. That QCTL brings the address-space number is the choice
of log entry 15, that a stopped queue keeps its head that of 101, and which registers of a queue a reset keeps that of 102. -/
def Obligations.QueueAndLaunchEvents : Prop := (∀ (s : State), s.sec.life = .recovery → exec .qtail s = .next s ∧ exec .qctl s = .next s) ∧
  (∀ (s : State) x, FromHost s → x = queueOf s s.arg.a s.arg.b → Runs .qtail s fun t => OnlyQueue s.arg.a s.arg.b s t ∧ (queueOf t s.arg.a s.arg.b).tail = s.arg.v.setWidth 32 ∧
      (queueOf t s.arg.a s.arg.b).head = x.head ∧ (x.size.toNat < (s.arg.v.setWidth 32 - x.head).toNat → (queueOf t s.arg.a s.arg.b).ovr = true ∧ (queueOf t s.arg.a s.arg.b).enable = false) ∧
      ((s.arg.v.setWidth 32 - x.head).toNat ≤ x.size.toNat → (queueOf t s.arg.a s.arg.b).ovr = x.ovr ∧ (queueOf t s.arg.a s.arg.b).enable = x.enable)) ∧
  (∀ (s : State) x o c, FromHost s → x = queueOf s s.arg.a s.arg.b → o = decide (x.ovrAt = s.clock.now + 1) → c = decide (x.cplAt = s.clock.now + 1) →
    Runs .qctl s fun t => OnlyQueue s.arg.a s.arg.b s t ∧ queueOf t s.arg.a s.arg.b = { x with
      enable := s.arg.v.getLsbD 0 && !o, prio := s.arg.v.toNat / 2 % 8, ovr := x.ovr && (o || !s.arg.v.getLsbD 8), cplerr := x.cplerr && (c || !s.arg.v.getLsbD 9), pasid := s.arg.c }) ∧
  (∀ (s : State) vf q k x e cpl seq, vf = s.arg.a → q = s.arg.b → k = s.arg.c → x = queueOf s vf q → takable s vf q k = true → EntryIs s vf q k e → entryGood e = true →
    cpl = field e 16 8 → seq = field e 8 4 →
    (field e 0 1 = 2 → k = x.head.toNat → CanComplete s vf q cpl → Runs .queueFence s fun t => QueueFrame vf q s t ∧ Completed vf q cpl seq 0 s t ∧ (queueOf t vf q).fence = BitVec.ofNat 32 seq ∧
      (queueOf t vf q).fenced = true ∧ (queueOf t vf q).restart = BitVec.ofNat 32 k + 1 ∧ (queueOf t vf q).resets = 0 ∧ (x.ended = [] → (queueOf t vf q).head = x.head + 1)) ∧
    (∀ st, settled x k = some st → Passed s vf q k → CanComplete s vf q cpl →
      (field e 0 1 = 3 → Runs .wait s fun t => QueueFrame vf q s t ∧ Completed vf q cpl seq 0 s t ∧ queueOf t vf q = entryEnds k { x with lastTick := 0 }) ∧
      (field e 0 1 = 1 → Runs .launch s fun t => QueueFrame vf q s t ∧ Completed vf q cpl seq st s t ∧ queueOf t vf q = entryEnds k x)) ∧
    (∀ b, field e 0 1 = 3 → settled x k = none → Passed s vf q k → x.lastTick ≤ tickOf s (vf / 4) → b.length = 8 → HubBytes s (vf / 4) x.pasid (field e 24 8) b →
      (waitHolds e (leNat b) = false → Runs .wait s fun t => QueueFrame vf q s t ∧ OuterKeep s t ∧ queueOf t vf q = { x with lastTick := tickOf s (vf / 4) + 1, begun := put k (e, none) x.begun }) ∧
      (waitHolds e (leNat b) = true → CanComplete s vf q cpl → Runs .wait s fun t => QueueFrame vf q s t ∧ Completed vf q cpl seq 0 s t ∧ queueOf t vf q = entryEnds k { x with lastTick := 0 } ∧
        (k = x.head.toNat → x.ended = [] → (queueOf t vf q).head = x.head + 1))) ∧
    (∀ h nb bs (ns : List NodeRec) hb fb p a, field e 0 1 = 1 → settled x k = none → Passed s vf q k → p = vf / 4 → a = field e 24 8 → h.length = 64 → RecordBytes s vf q k a 0 64 h →
      (headerGood s p h = false → CanComplete s vf q cpl → Runs .launch s fun t => QueueFrame vf q s t ∧ Completed vf q cpl seq 2 s t ∧ queueOf t vf q = entryEnds k x) ∧
      (headerGood s p h = true → nb.length = 64 * field h 0 2 → RecordBytes s vf q k a 64 (64 * field h 0 2) nb → bs = cut 64 (field h 0 2) nb → (∀ b ∈ bs, nodeRecGood b = true) →
        ns.length = bs.length → (∀ (i : Nat) b, bs[i]? = some b → ∃ ps, ps.length = 2 * field b 20 2 ∧ HubBytes s p x.pasid (field b 24 8) ps ∧
          ns[i]? = some { parseNode b with preds := (cut 2 (field b 20 2) ps).map leNat }) →
        (predsGood ns = false → CanComplete s vf q cpl → Runs .launch s fun t => QueueFrame vf q s t ∧ Completed vf q cpl seq 2 s t ∧ queueOf t vf q = entryEnds k x) ∧
        (predsGood ns = true → hb.length = 64 * field h 32 2 → HubBytes s p x.pasid (field h 24 8) hb → fb.length = 64 * field h 34 2 → HubBytes s p x.pasid (field h 40 8) fb →
          (field e 1 1 = 1 → find x.sent k = none → HubBytes s p x.pasid (a + 64) nb) →
          ∀ s1, install p (launchInst s.nextLaunch) (cut 64 (field h 32 2) hb) (cut 64 (field h 34 2) fb) s = some s1 →
            (field h 3 1 = 1 → Runs .launch s fun t => t.nextLaunch = s.nextLaunch + 1 ∧ k ∈ (queueOf t vf q).started ∧ Begun s.nextLaunch vf q k e h ns t ∧ (launch t s.nextLaunch).group = none) ∧
            (∀ gb g, field h 3 1 ≠ 1 → gb.length = 16 + 8 * field h 3 1 → HubBytes s p x.pasid (field h 8 8) gb →
              (parseGroup s (field h 3 1) gb = none → CanComplete s vf q cpl → Runs .launch s fun t => QueueFrame vf q s t ∧ Completed vf q cpl seq 4 s t ∧ queueOf t vf q = entryEnds k x) ∧
              (parseGroup s (field h 3 1) gb = some g → (∀ y ∈ (part s p).early, y.1 ≠ g.gen.toNat) → Runs .launch s fun t => t.nextLaunch = s.nextLaunch + 1 ∧ k ∈ (queueOf t vf q).started ∧
                Begun s.nextLaunch vf q k e h ns t ∧ (∃ y, (launch t s.nextLaunch).group = some y ∧ y.gen = g.gen ∧ y.members = g.members ∧ g.rank ∈ y.arrived) ∧
                (∀ m ∈ g.members, m.1 ≠ s.hub.module → Sent (.arrive m.1 g.gen) m.1 s t) ∧
                (field e 1 1 = 1 → find x.sent k = none → ∀ y ∈ g.members.zip g.queues, y.1.1 ≠ s.hub.module → Sent (.replicate y.1.1 y.2.1 y.2.2 e (h ++ nb)) y.1.1 s t))))))) ∧
  (∀ (s : State) vf q k e, vf = s.arg.a → q = s.arg.b → k = s.arg.c → takable s vf q k = true → EntryIs s vf q k e → settled (queueOf s vf q) k = none → Passed s vf q k → entryGood e = false → CanComplete s vf q (field e 16 8) →
    Runs .launch s fun t => QueueFrame vf q s t ∧ Completed vf q (field e 16 8) (field e 8 4) 2 s t ∧ queueOf t vf q = entryEnds k (queueOf s vf q)) ∧
  (∀ (s : State) x, find s.launches s.arg.a = some x → launchOver x = true → launchQuiet s s.arg.a x = true → installQuiet s x.part (launchInst s.arg.a) = true →
    (CanComplete s x.vf x.queue x.cpl → x.part = x.vf / 4 → (∀ g, x.group = some g → g.failed = false) → Runs .launchCompletion s fun t => find t.launches s.arg.a = none ∧
      (∀ k, k ≠ s.arg.a → find t.launches k = find s.launches k) ∧ x.idx ∉ (queueOf t x.vf x.queue).started ∧ Completed x.vf x.queue x.cpl x.seq.toNat (endStatus x) s t ∧
      (∀ k e, find (part t x.part).handles k = some e → e.inst ≠ launchInst s.arg.a) ∧ (∀ k c, (k, c) ∈ (part t x.part).colls → c.launch ≠ s.arg.a) ∧
      t.threads = s.threads ∧ LocalKeep s t) ∧
    (∀ g h, x.group = some g → g.failed = true → x.cpl = 0 → HubHome s x.part (queueOf s x.vf x.queue).pasid x.pgt 4 true h → Unpoisoned s → Runs .launchCompletion s fun t =>
      find t.launches s.arg.a = none ∧ WrittenAt h (toBytes 4 (g.gen + 1).toNat) s t ∧ t.threads = s.threads)) ∧
  (∀ (s : State) n ts, poolMove s s.arg.a = some (.place n ts) → n.team = none → Runs .placement s fun t => t.nextTeam = s.nextTeam + 1 ∧
      (team t s.nextTeam).node = n.node ∧ (team t s.nextTeam).launch = n.launch ∧ (team t s.nextTeam).live = upFrom 0 ts.length ∧ (team t s.nextTeam).members.length = ts.length ∧
      (∀ m ∈ (team t s.nextTeam).members, occupied t m = true ∧ (thr t m).id.team = s.nextTeam ∧ (thr t m).id.part = n.part ∧ (thr t m).id.node = n.node ∧ (thr t m).c.pc = BitVec.ofNat 64 (recOf s n).entry ∧
        (thr t m).frz = none) ∧
      ∀ k, k ≠ s.nextTeam → team t k = team s k) ∧
  (∀ (s : State) n ts k, poolMove s s.arg.a = some (.place n ts) → n.team = some k → Runs .placement s fun t => t.threads = s.threads ∧ t.teams = s.teams ∧ LocalKeep s t ∧
      ∀ sv ∈ (part s n.part).saved, sv.team = k → ({ sv with placed := ts.map fun x => (x, (freeCtx s x).getD 0) } : SavedTeam) ∈ (part t n.part).saved) ∧
  (∀ (s : State) n ts, poolMove s s.arg.a = some (.reserve n ts) → Runs .placement s fun t => t = { s with dies := t.dies } ∧
      (die t s.arg.a).regions = (die s s.arg.a).regions ++ [{ launch := n.launch, node := n.node, part := n.part, tiles := ts }] ∧ ∀ d, d ≠ s.arg.a → die t d = die s d) ∧
  (∀ (s : State) due, (part s s.arg.a).draining = some due → due ≤ s.clock.halfNs → (queuesOf s s.arg.a).Nodup → (∀ k ∈ s.packets, k.part ≠ s.arg.a) →
    (∀ k ∈ queuesOf s s.arg.a, (queueOf s k.1 k.2).resets ≤ 1 ∨ (queueOf s k.1 k.2).head = (queueOf s k.1 k.2).tail ∨
      ∃ e, EntryIs s k.1 k.2 (queueOf s k.1 k.2).head.toNat e ∧ field e 16 8 = 0) →
    Runs .drainEnd s fun t => (part t s.arg.a).draining = none ∧ (∀ k ∈ queuesOf s s.arg.a, (queueOf t k.1 k.2).head = (if (queueOf s k.1 k.2).resets ≤ 1 then (queueOf s k.1 k.2).restart else (queueOf s k.1 k.2).head) ∧
        (queueOf t k.1 k.2).enable = ((queueOf s k.1 k.2).enable && decide ((queueOf s k.1 k.2).resets ≤ 1)) ∧ (queueOf t k.1 k.2).started = []) ∧
      (∀ im ∈ (part s s.arg.a).images, ∀ h ∈ im.2.handles, ∃ e, find (part t s.arg.a).handles h.1 = some e) ∧
      t.threads = s.threads ∧ LocalKeep s t ∧ OuterKeep s t ∧ ∀ q, q ≠ s.arg.a → part t q = part s q)

/-- R405 to R409: how the modules of a launch start together, keep each other alive and fail together. Keep-alives of a group whose launch has
ended go on by log entry 74. -/
def Obligations.GroupEvents : Prop := (∀ (s : State), groupLaunch s s.arg.a s.arg.c = none → (find s.parts s.arg.a).isSome = true →
    (Runs .arrive s fun t => OnlyPart s.arg.a s t ∧ (part t s.arg.a).early = (part s s.arg.a).early ++ [(s.arg.c, s.arg.b, false)]) ∧
    (Runs .fail s fun t => OnlyPart s.arg.a s t ∧ (part t s.arg.a).early = (part s s.arg.a).early ++ [(s.arg.c, s.arg.b, true)]) ∧ (Runs .keepAlive s fun t => t = s) ∧
    (s.arg.flag = true → Runs .memberLost s fun t => t = s)) ∧
  (∀ (s : State) l x g, groupLaunch s s.arg.a s.arg.c = some l → find s.launches l = some x → x.group = some g →
    (Runs .arrive s fun t => ∃ h, (launch t l).group = some h ∧ rankOf g s.arg.b ∈ h.arrived ∧ (∀ r ∈ g.arrived, r ∈ h.arrived) ∧ h.failed = g.failed ∧
      (g.failed = false → (∀ r, r < g.n → r ∈ h.arrived) → h.released = true)) ∧
    (g.failed = false → Runs .fail s fun t => (∃ h, (launch t l).group = some h ∧ h.failed = true) ∧ (launch t l).status = (if x.status = 0 then 3 else x.status) ∧
      ∀ k n, find (launch t l).nodes k = some n → n.st ≠ .waiting ∧ n.st ≠ .ready) ∧
    (g.failed = true → Runs .fail s fun t => t = s) ∧
    (Runs .keepAlive s fun t => OnlyLaunch l s t ∧ ∃ h, (launch t l).group = some h ∧ look 0 h.seen (rankOf g s.arg.b) = s.clock.halfNs / 2 ∧ h.arrived = g.arrived) ∧
    (s.arg.flag = true → (g.released = false → Runs .memberLost s fun t => t = s) ∧
      (g.released = true → (find s.parts x.part).isSome = true → Runs .memberLost s fun t => PartitionReset x.part s t))) ∧
  (∀ (s : State) x g, find s.launches s.arg.a = some x → x.group = some g →
    (g.released = false → g.failed = false → g.startNs + (part s x.part).regs.ltimeout ≤ s.clock.halfNs / 2 → Runs .launchTimeout s fun t =>
      (∃ h, (launch t s.arg.a).group = some h ∧ h.failed = true) ∧ (launch t s.arg.a).status = (if x.status = 0 then 3 else x.status) ∧
      ∀ m ∈ g.members, m.1 ≠ s.hub.module → Sent (.failNotice m.1 g.gen) m.1 s t) ∧
    (s.arg.c ≠ 1 → g.sentNs + 1000 ≤ s.clock.halfNs / 2 → Runs .keepAliveInterval s fun t => (∃ h, (launch t s.arg.a).group = some h ∧ h.sentNs = s.clock.halfNs / 2 ∧ h.arrived = g.arrived) ∧
      (∀ m ∈ g.members, m.1 ≠ s.hub.module → Sent (.keepAlive m.1) m.1 s t) ∧ t = { s with launches := t.launches, out := t.out, hub := t.hub }) ∧
    (s.arg.flag = false → g.released = true → s.arg.b < g.n → s.arg.b ≠ g.rank → look 0 g.seen s.arg.b + (part s x.part).regs.kalive ≤ s.clock.halfNs / 2 →
      (find s.parts x.part).isSome = true → Runs .memberLost s fun t => PartitionReset x.part s t)) ∧
  (∀ (s : State) g, s.arg.c = 1 → (part s s.arg.a).kept[s.arg.b]? = some g → g.sentNs + 1000 ≤ s.clock.halfNs / 2 → Runs .keepAliveInterval s fun t =>
    (part t s.arg.a).kept[s.arg.b]? = some { g with sentNs := s.clock.halfNs / 2 } ∧ (∀ m ∈ g.members, m.1 ≠ s.hub.module → Sent (.keepAlive m.1) m.1 s t) ∧
    t = { s with parts := t.parts, out := t.out, hub := t.hub }) ∧
  ∀ (s : State) x, x = queueOf s s.arg.b s.arg.c →
    (s.arg.flag = true → x.enable = true → x.ovr = false → (x.tail - x.head).toNat < x.size.toNat → Runs .replicate s fun t => OnlyQueue s.arg.b s.arg.c s t ∧
      (queueOf t s.arg.b s.arg.c).tail = x.tail + 1 ∧ find (queueOf t s.arg.b s.arg.c).sent x.tail.toNat = some (s.arg.bytes, s.arg.more)) ∧
    (s.arg.flag = false ∨ x.enable = false ∨ x.ovr = true ∨ x.size.toNat ≤ (x.tail - x.head).toNat → Runs .replicate s fun t => t = s)

/-- R55 to R59, R440 to R444, R464, R472, R477, R502 and R506, R507: partitions, images, sensors, and teams that are pre-empted, saved and restored.
The checks of a file and its installation are the functions imageGood, wellPlaced and install (log entries 45, 94 to 96), the queues
of a partition just created stand at their reset values by log entry 62; what a failing memory
or block does is asked for by the checks of log entry 77; the layout of an area is the device's own (log entry 21). -/
def Obligations.PartitionEvents : Prop := (∀ (s : State) p c, p = s.arg.a → c = s.arg.cfg → s.sec.life = .ready → p < 24 → find s.parts p = none → cfgGood c = true → cfgApart s c = true → Runs .partitionCreate s fun t =>
    find t.parts p = some { cfg := c, key := s.sec.keys + 1, saveKey := s.sec.keys + 2 } ∧ (∀ q, q ≠ p → find t.parts q = find s.parts q) ∧ t.sec.keys = s.sec.keys + 2 ∧
    (∀ x, c.hbmBase * 2 ^ 30 ≤ x → x < (c.hbmBase + c.hbmSize) * 2 ^ 30 → readByte t.hbm.mem x = 0) ∧
    (∀ w ∈ t.hbm.poison, w ∈ s.hbm.poison ∧ ¬(c.hbmBase * 2 ^ 30 ≤ w ∧ w < (c.hbmBase + c.hbmSize) * 2 ^ 30)) ∧
    (∀ x, x < c.hbmBase * 2 ^ 30 ∨ (c.hbmBase + c.hbmSize) * 2 ^ 30 ≤ x → readByte t.hbm.mem x = readByte s.hbm.mem x) ∧
    (∀ k, find t.queues k = if k / 32 = p then none else find s.queues k) ∧ t.threads = s.threads ∧ t.host = s.host) ∧
  (∀ (s : State) p, p = s.arg.a → (find s.parts p).isSome = true → Runs .partitionDestroy s fun t => find t.parts p = none ∧ (∀ q, q ≠ p → find t.parts q = find s.parts q) ∧
    (∀ u, occupied t u = true → (thr t u).id.part ≠ p) ∧ (∀ u, (thr s u).id.part ≠ p → thr t u = thr s u) ∧ (∀ k ∈ t.packets, k.part ≠ p) ∧ (∀ vf, vf / 4 = p → tdispOf t vf = .unlocked ∧ find t.sec.ide vf = none) ∧
    (∀ k, find t.queues k = if k / 32 = p then none else find s.queues k) ∧ t.hbm = { s.hbm with dead := t.hbm.dead } ∧ t.host = s.host ∧
    ∀ g, find t.hbm.dead g = if (part s p).cfg.hbmBase ≤ g ∧ g < (part s p).cfg.hbmBase + (part s p).cfg.hbmSize then some (part s p).key else find s.hbm.dead g) ∧
  (∀ (s : State) p num hs fs, p = s.arg.a → num = s.arg.b → (find s.parts p).isSome = true → (part s p).draining = none →
    hs = (sectionsOf s.arg.bytes s.arg.nums 3).flatMap (fun x => cut 64 (x.2.1.length / 64) x.2.1) → fs = (sectionsOf s.arg.bytes s.arg.nums 4).flatMap (fun x => cut 64 (x.2.1.length / 64) x.2.1) →
    (∀ s1 im, imageGood s.arg.bytes = true → wellPlaced s.arg.bytes s.arg.nums = true → find (part s p).images num = none → install p (imageInst num) hs fs s = some s1 →
      im = imageFrom s.arg.c num s.arg.bytes s.arg.nums → Runs .imageLoad s fun t =>
        find (part t p).images num = some { im with handles := hs.map (fun r => (field r 36 2, parseHRec r)), flows := fs.map parseFRec } ∧ im.pasid = s.arg.c ∧ im.deflaunch = field s.arg.bytes 24 4 ∧
        (∀ k, k ≠ num → find (part t p).images k = find (part s p).images k) ∧ (part t p).handles = (part s1 p).handles ∧ (part t p).flows = (part s1 p).flows ∧
        Msg.loadResult p num true im.deflaunch ∈ t.out ∧ t.threads = s.threads) ∧
    ((imageGood s.arg.bytes = false ∨ (wellPlaced s.arg.bytes s.arg.nums = true ∧ ((find (part s p).images num).isSome = true ∨ install p (imageInst num) hs fs s = none))) →
      Runs .imageLoad s fun t => t = { s with out := s.out ++ [.loadResult p num false 0] })) ∧
  (∀ (s : State) im, find (part s s.arg.a).images s.arg.b = some im → (∀ e ∈ s.launches, ¬(e.2.part = s.arg.a ∧ e.2.image = s.arg.b)) →
    installQuiet s s.arg.a (imageInst s.arg.b) = true → Runs .imageUnload s fun t => find (part t s.arg.a).images s.arg.b = none ∧
      (∀ k, k ≠ s.arg.b → find (part t s.arg.a).images k = find (part s s.arg.a).images k) ∧ (∀ h e, find (part t s.arg.a).handles h = some e → e.inst ≠ imageInst s.arg.b) ∧
      (∀ x ∈ (part t s.arg.a).flows, x.2.inst ≠ imageInst s.arg.b) ∧ t.threads = s.threads) ∧
  (∀ (s : State) x, x = look ({} : Sensor) s.sensors s.arg.a → Runs .sensorReading s fun t =>
    look ({} : Sensor) t.sensors s.arg.a = { milliwatt := s.arg.b, placed := 0, celsius := s.arg.offset, readAt := s.clock.now + 1, oldRoom := if 105 ≤ x.celsius then 0 else 18000 - x.milliwatt - x.placed, hotNs := if 115 ≤ s.arg.offset then some (x.hotNs.getD (s.clock.halfNs / 2)) else none } ∧ (∀ k, k ≠ s.arg.a → look ({} : Sensor) t.sensors k = look {} s.sensors k) ∧
    t = { s with sensors := t.sensors, sec := { s.sec with hotHold := t.sec.hotHold } } ∧ (t.sec.hotHold = true ↔ s.sec.hotHold = true ∧ ∃ e ∈ t.sensors, 95 ≤ e.2.celsius)) ∧
  (∀ (s : State), s.sec.hotHold = false → (∃ e ∈ s.sensors, ∃ n, e.2.hotNs = some n ∧ n + 1000000 ≤ s.clock.halfNs / 2) → Runs .temperatureLimit s fun t => t.sec.hotHold = true ∧
    (∀ p, (find s.parts p).isSome = true → ∀ u, occupied t u = true → (thr t u).id.part ≠ p) ∧ t.hbm = s.hbm ∧ t.host = s.host) ∧
  (∀ (s : State),
    (s.arg.c ∉ [1, 2, 3, 4, 5] → enabled s s.arg.a = true → s.arg.a ∉ s.sec.lost → (∀ c, c < 4 → occupied s (s.arg.a * 6 + c) = true → (find s.parts (thr s (s.arg.a * 6 + c)).id.part).isSome = true) → Runs .tileCheck s fun t => s.arg.a ∈ t.sec.lost ∧ (∀ n ∈ s.sec.lost, n ∈ t.sec.lost) ∧
      (∀ c, c < 4 → occupied t (s.arg.a * 6 + c) = true → (thr t (s.arg.a * 6 + c)).dying = true) ∧
      (s.arg.flag = true → s.arg.a ∈ t.sec.badRouters) ∧ (s.hub.ready = true → s.sec.repl = false → (enabledTiles s).length - t.sec.lost.length < 544 → t.sec.repl = true ∧ t.sec.reason = 1)) ∧
    (s.arg.c = 1 → Runs .tileCheck s fun t => t = { s with tiles := t.tiles } ∧ (∀ n, n ≠ s.arg.a → tile t n = tile s n) ∧
      tile t s.arg.a = if s.arg.b < 2 ^ 24 then { tile s s.arg.a with spcorr := min 65535 ((tile s s.arg.a).spcorr + 1) } else { tile s s.arg.a with sbcorr := min 65535 ((tile s s.arg.a).sbcorr + 1) }) ∧
    (s.arg.c = 2 → s.arg.b / 8 * 8 ∉ (tile s s.arg.a).poison → Runs .tileCheck s fun t => t = { s with tiles := t.tiles } ∧ (∀ n, n ≠ s.arg.a → tile t n = tile s n) ∧
      (tile t s.arg.a).uncorr = min 65535 ((tile s s.arg.a).uncorr + 1) ∧ (tile t s.arg.a).mem = (tile s s.arg.a).mem ∧
      ∀ w, w ∈ (tile t s.arg.a).poison ↔ w = s.arg.b / 8 * 8 ∨ w ∈ (tile s s.arg.a).poison) ∧
    (s.arg.c = 2 → s.arg.b / 8 * 8 ∈ (tile s s.arg.a).poison → Runs .tileCheck s fun t => ∀ n, tile t n = tile s n) ∧
    (s.arg.c = 3 → Runs .tileCheck s fun t => t = { s with tiles := t.tiles } ∧ (∀ n, n ≠ s.arg.a → tile t n = tile s n) ∧
      tile t s.arg.a = { tile s s.arg.a with arr := { (tile s s.arg.a).arr with bad := s.arg.nums } }) ∧
    (s.arg.c = 4 → (s.arg.e = 1 ∨ decodeBlock s.arg.d s.arg.bytes = none) → Runs .tileCheck s fun t => t = { s with hbm := t.hbm, sec := t.sec } ∧ t.hbm.mem = s.hbm.mem ∧ t.hbm.uncorr = s.hbm.uncorr + 1 ∧
      (∀ w, w ∈ t.hbm.poison ↔ w ∈ s.hbm.poison ∨ (w % 8 = 0 ∧ w / 256 = s.arg.b / 256)) ∧ (t.sec.recur = true ↔ s.sec.recur = true ∨ s.arg.flag = true) ∧
      (s.arg.flag = true → s.hub.ready = true → s.sec.repl = false → t.sec.repl = true ∧ t.sec.reason ∈ [1, 2, 3, 4])) ∧
    (s.arg.c = 4 → s.arg.e ≠ 1 → (decodeBlock s.arg.d s.arg.bytes).isSome = true → Runs .tileCheck s fun t => t = s) ∧
    (s.arg.c ∉ [1, 2, 3, 4, 5] → enabled s s.arg.a = true → s.arg.a ∈ s.sec.lost → s.arg.flag = true → Runs .tileCheck s fun t => t = { s with sec := t.sec } ∧
      (∀ n, n ∈ t.sec.badRouters ↔ n = s.arg.a ∨ n ∈ s.sec.badRouters) ∧ t.sec.lost = s.sec.lost ∧
      (s.hub.ready = true → s.sec.repl = false → t.sec.repl = true ∧ t.sec.reason ∈ [1, 2, 3, 4, 5])) ∧
    (s.arg.c = 5 → Runs .tileCheck s fun t => t = { s with sec := t.sec } ∧ t.sec.hrows = min 65535 (s.sec.hrows + 1) ∧
      (∀ (k : Nat), t.sec.rows[k]? = (s.sec.rows[k]?).map fun x => if k = s.arg.b then (x.1 + 1, x.2) else x) ∧
      (s.hub.ready = true → s.sec.repl = false → (∃ x ∈ t.sec.rows, 0 < x.2 ∧ 3 * x.2 ≤ 4 * x.1) → t.sec.repl = true ∧ t.sec.reason ∈ [1, 2, 3]))) ∧
  (∀ (s : State), s.arg.flag = false → namedTeam s s.arg.a s.arg.v = none → Runs .preempt s fun t => t = s) ∧
  (∀ (s : State) k, s.arg.flag = false → namedTeam s s.arg.a s.arg.v = some k → Runs .preempt s fun t => Asked k s t ∧
    (s.arg.v.getLsbD 38 = true → t.out = s.out) ∧
    (s.arg.v.getLsbD 38 = false → ∀ e ∈ (part s (team s k).part).colls, e.2.open_ = true → e.2.team = k → (liveAs s k e.2.member).isSome = true → ∀ m ∈ otherModules s e.2, Sent (.gangPreempt m e.1 e.2.gen) m s t)) ∧
  (∀ (s : State) c, s.arg.flag = true → find (part s s.arg.a).colls s.arg.b = some c → c.open_ = true → fromMember s s.arg.a = true → (liveAs s c.team c.member).isSome = true → (find s.teams c.team).isSome = true →
    Runs .preempt s fun t => Asked c.team s t ∧ t.out = s.out) ∧
  (∀ (s : State), s.arg.flag = true → (∀ c, find (part s s.arg.a).colls s.arg.b = some c → c.open_ = false ∨ fromMember s s.arg.a = false ∨ liveAs s c.team c.member = none) → Runs .preempt s fun t => t = s) ∧
  (∀ (s : State) k p id n ms, k = s.arg.a → p = (team s k).part → (find s.teams k).isSome = true → (find s.parts p).isSome = true → (team s k).preempt = true → (team s k).savedAt = none →
    ms = liveOf s k → ms ≠ [] → (∀ m ∈ ms, savable s m = true) → id = (thr s (ms.headD 0)).id → n = teamNeed (ms.map (thr s)) →
    (∀ d rest w, d = dieOf (tileOf (ms.headD 0)) → (part s p).areas = w :: rest → n ≤ w.toNat % 4096 * 2 ^ 20 →
      (∀ ts hs, (∀ m ∈ ms, boundOutside ms (thr s m) = false) → PagesFound s d id.pasid true (w.toNat / 4096 * 4096) (ceilDiv n 4096) ts → AreaAt s p ts hs →
        Runs .contextSave s fun t => (team t k).savedAt = some k ∧ (∀ m ∈ ms, occupied t m = false) ∧ (part t p).areas = rest ∧
          Recorded p (flqRec 5 0 p (launchVf (launch s (team s k).launch)) (launch s (team s k).launch).pasid (w.toNat / 4096 * 4096) (team s k).node 0 (BitVec.ofNat 64 n)) s t ∧
          ∃ sv ∈ (part t p).saved, sv.team = k ∧ sv.area = w.toNat ∧ sv.bytes = n ∧ sv.members = ms.map (fun m => (m, thr s m)) ∧ sv.mems = ms.map (memberMem s) ∧ sv.mons = ms.map (memberMons s)) ∧
      (∀ j ts, j < ceilDiv n 4096 → PagesFound s d id.pasid true (w.toNat / 4096 * 4096) j ts → PageRefused s d id.pasid true (w.toNat / 4096 * 4096 + 4096 * j) →
        Runs .contextSave s (SaveRefused k ms 3 (w.toNat / 4096 * 4096 + 4096 * j) s)) ∧
      (∀ ts, (∃ m ∈ ms, boundOutside ms (thr s m) = true) → PagesFound s d id.pasid true (w.toNat / 4096 * 4096) (ceilDiv n 4096) ts → Runs .contextSave s (SaveRefused k ms 4 (w.toNat / 4096 * 4096) s))) ∧
    (∀ rest w, (part s p).areas = w :: rest → w.toNat % 4096 * 2 ^ 20 < n → Runs .contextSave s (SaveRefused k ms 2 (w.toNat / 4096 * 4096) s)) ∧
    ((part s p).areas = [] → Runs .contextSave s (SaveRefused k ms 1 0 s))) ∧
  (∀ (s : State) p k (sv : SavedTeam) l d va mem, p = s.arg.a → k = s.arg.b → savedTeam s p k = some sv → (find s.teams k).isSome = true → (find s.parts p).isSome = true →
    (part s p).draining = none → sv.placed ≠ [] → l = launch s (team s k).launch → d = dieOf (sv.placed.headD (0, 0)).1 → va = sv.area % 2 ^ 64 / 4096 * 4096 →
    mem = (sv.members.zip sv.mems).flatMap (fun x => (allocs x.1.2).flatMap fun r => readBytes x.2.1 r.1 r.2) →
    (∀ ts hs, PagesFound s d l.pasid false va (ceilDiv sv.bytes 4096) ts → AreaAt s p ts hs →
      (areaRead s sv.bytes hs = (sealedBytes (part s p).saveKey sv.no sv.bytes mem, false) →
        (sv.placed.map Prod.fst).Nodup → (∀ x ∈ sv.placed, x.2 < 6) → (sv.members.map fun x => x.2.id.member).Nodup →
        sv.placed.length = sv.members.length → sv.mems.length = sv.members.length → sv.mons.length = sv.members.length →
        Runs .restore s fun t => (team t k).savedAt = none ∧ (team t k).preempt = false ∧ (team t k).members.length = (team s k).members.length ∧
          (∀ x ∈ (part t p).saved, x.team ≠ k) ∧ (part t p).areas = (part s p).areas ++ [BitVec.ofNat 64 sv.area] ∧
          ∀ (i : Nat) x m tl c, sv.members[i]? = some x → sv.mems[i]? = some m → sv.placed[i]? = some (tl, c) → occupied t (tl * 6 + c) = true ∧
            (thr t (tl * 6 + c)).c = x.2.c ∧ (thr t (tl * 6 + c)).sr = x.2.sr ∧ (thr t (tl * 6 + c)).id = x.2.id ∧
            (x.2.id.member < (team s k).members.length → (team t k).members[x.2.id.member]? = some (tl * 6 + c)) ∧
            (Memory.wf m.1 = true → ∀ a, (∃ r ∈ allocs x.2, r.1 ≤ a ∧ a < r.1 + r.2) → readByte (tile t tl).mem a = readByte m.1 a)) ∧
      (areaRead s sv.bytes hs ≠ (sealedBytes (part s p).saveKey sv.no sv.bytes mem, false) → Runs .restore s fun t => PartitionReset p s t)) ∧
    ∀ j ts, j < ceilDiv sv.bytes 4096 → PagesFound s d l.pasid false va j ts → PageRefused s d l.pasid false (va + 4096 * j) → Runs .restore s fun t => PartitionReset p s t) ∧
  ∀ (s : State), (find s.parts s.arg.a).isSome = true → Runs .savepush s fun t => OnlyPart s.arg.a s t ∧
    (part t s.arg.a).areas = if (part s s.arg.a).areas.length < 64 ∧ s.arg.v.toNat % 4096 ≠ 0 then (part s s.arg.a).areas ++ [s.arg.v] else (part s s.arg.a).areas

/-- R361, R379, R385, R441, R465, R490, R492, R493, R501, R505 and R509: what the writes and reads of the host do. Values outside a limit are the choice of log entry 47,
what locks an interface that of log entry 48, that a debug stop stays pending at a thread that is frozen that of log entry 38, what DBGDATA is where DBGSEL
names no stopped thread that of log entry 63, and how a transaction fails its integrity check that of log entry 100. A far reply of the same network cycle stands over a write (R447). -/
def Obligations.RegisterEvents : Prop := (∀ (s : State), s.sec.life = .recovery → (Runs .registerWrite s fun t => t = s) ∧ Runs .dbgdataRead s fun t => t = s) ∧
  (∀ (s : State) p g, p = s.arg.a → p < 24 → s.sec.life ≠ .recovery → s.arg.flag = false → (find s.parts p).isSome = true → ownEvent s.arg.b = false → g = (part s p).regs →
    (s.sec.tdisp = [] → (s.arg.b = 0x008 → (part s p).logWait = [] ∧ NoBatch s) → Runs .registerWrite s fun t => OnlyPart p s t ∧ (part t p) = { part s p with regs := (part t p).regs } ∧
      (s.arg.b = 0x000 → (part t p).regs = { g with flqbase := s.arg.v &&& ~~~(0xFFF : Word) }) ∧
      (s.arg.b = 0x008 → (part t p).regs = if s.arg.v = 0 ∨ (64 ≤ s.arg.v.toNat ∧ s.arg.v.toNat ≤ 65536 ∧ ∃ k, k < 25 ∧ s.arg.v.toNat = 2 ^ k) then { g with flqsize := s.arg.v } else g) ∧
      (s.arg.b = 0x030 → (part t p).regs = { g with prtimer := max 250 (min 64000 s.arg.v.toNat) }) ∧
      (s.arg.b = 0x048 → (part t p).regs = { g with ltimeout := max 1000 s.arg.v.toNat }) ∧
      (s.arg.b = 0x050 → (part t p).regs = { g with kalive := max 2000 s.arg.v.toNat }) ∧
      (s.arg.b = 0x068 → (part t p).regs = { g with escpol := s.arg.v.getLsbD 0 }) ∧
      (s.arg.b = 0x090 → (part t p).regs = { g with dbgsel := BitVec.ofNat 64 (s.arg.v.toNat % 2 ^ 45) }) ∧
      (s.arg.b = 0x0A8 → s.arg.v.toNat < 3 → (part t p).regs = { g with recctl := s.arg.v.toNat, rectaken := [] }) ∧
      (s.arg.b = 0x0B0 → (part t p).regs = { g with recbase := s.arg.v &&& ~~~(0xFFF : Word) }) ∧
      (s.arg.b = 0x0B8 → (part t p).regs = if s.arg.v = 0 ∨ (1024 ≤ s.arg.v.toNat ∧ s.arg.v.toNat ≤ 2 ^ 24 ∧ ∃ k, k < 25 ∧ s.arg.v.toNat = 2 ^ k) then { g with recsize := s.arg.v } else g) ∧
      (s.arg.b = 0x0C8 → (part t p).regs = if g.recctl = 2 then { g with rectail := s.arg.v } else g) ∧
      (s.arg.b ∉ [0x000, 0x008, 0x030, 0x048, 0x050, 0x068, 0x090, 0x0A8, 0x0B0, 0x0B8, 0x0C8] → (part t p).regs = g)) ∧
    (∀ bs, s.sec.tdisp = [] → s.arg.b = 0x008 → (part s p).logWait = [bs] → NoBatch s → 64 ≤ s.arg.v.toNat → s.arg.v.toNat ≤ 65536 → (∃ k, k < 25 ∧ s.arg.v.toNat = 2 ^ k) → (g.flqtail - g.flqhead).toNat < s.arg.v.toNat →
      Runs .registerWrite s fun t => (part t p).logWait = [] ∧ (part t p).regs = { g with flqsize := s.arg.v, flqtail := g.flqtail + 1 } ∧
        readBytes t.host (g.flqbase.toNat + g.flqtail.toNat % s.arg.v.toNat * 32) bs.length = bs) ∧
    (s.arg.b = 0x000 → g.flqbase ≠ s.arg.v &&& ~~~(0xFFF : Word) → (∃ vf, vf / 4 = p ∧ (tdispOf s vf = .locked ∨ tdispOf s vf = .run)) → Runs .registerWrite s fun t => PartitionReset p s t ∧
      ∀ vf, vf / 4 = p → (tdispOf s vf = .locked ∨ tdispOf s vf = .run) → tdispOf t vf = .error)) ∧
  (∀ (s : State) vf q, s.arg.a = 24 + vf → vf < 96 → q < 8 → s.arg.flag = false → FromHost s →
    (s.sec.tdisp = [] → (queueOf s vf q).enable = false →
      (s.arg.b = 256 * q → Runs .registerWrite s fun t => OnlyQueue vf q s t ∧ queueOf t vf q = { queueOf s vf q with base := s.arg.v &&& ~~~(0xFFF : Word) }) ∧
      (s.arg.b = 256 * q + 8 → Runs .registerWrite s fun t => OnlyQueue vf q s t ∧ queueOf t vf q =
        if s.arg.v = 0 ∨ (16 ≤ s.arg.v.toNat ∧ s.arg.v.toNat ≤ 4096 ∧ ∃ k, k < 25 ∧ s.arg.v.toNat = 2 ^ k) then { queueOf s vf q with size := s.arg.v } else queueOf s vf q)) ∧
    ((queueOf s vf q).enable = true → s.arg.b = 256 * q ∨ s.arg.b = 256 * q + 8 → Runs .registerWrite s fun t => t = s) ∧
    (∀ o, o < 256 → o ∉ [0x00, 0x08, 0x10, 0x20] → s.arg.b = 256 * q + o → Runs .registerWrite s fun t => t = s)) ∧
  (∀ (s : State), 24 ≤ s.arg.a → s.arg.flag = false → (s.arg.a < 120 ∧ 2048 ≤ s.arg.b ∧ FromHost s) ∨ 120 ≤ s.arg.a → Runs .registerWrite s fun t => t = s) ∧
  (∀ (s : State) p g, p = s.arg.a → p < 24 → s.sec.life ≠ .recovery → s.arg.flag = true → s.arg.b ≠ 0x098 → g = (part s p).regs → Runs .registerWrite s fun t => ∃ v, t = { s with out := s.out ++ [.hostData v] } ∧
    (∀ n w, (n, w) ∈ [(0x000, g.flqbase), (0x008, g.flqsize), (0x010, g.flqhead), (0x018, g.flqtail), (0x020, BitVec.ofNat 64 (part s p).frames.length), (0x030, BitVec.ofNat 64 g.prtimer),
      (0x040, BitVec.ofNat 64 (part s p).cfg.granary), (0x048, BitVec.ofNat 64 g.ltimeout), (0x050, BitVec.ofNat 64 g.kalive), (0x058, (262144 : Word)), (0x060, BitVec.ofNat 64 (part s p).areas.length),
      (0x068, if g.escpol = true then 1 else 0), (0x078, if g.dbgatt = true then 1 else 0), (0x090, g.dbgsel), (0x0A0, g.dbgstat), (0x0A8, BitVec.ofNat 64 g.recctl), (0x0B0, g.recbase), (0x0B8, g.recsize),
      (0x0C0, g.rechead), (0x0C8, g.rectail)] → s.arg.b = n → v = w) ∧
    (s.arg.b = 0x0D0 → (part s p).cfg.hbmBase < 2 ^ 10 → (part s p).cfg.hbmSize < 2 ^ 10 → v = BitVec.ofNat 64 ((part s p).cfg.hbmBase + 65536 * (part s p).cfg.hbmSize)) ∧
    (s.arg.b ∉ [0x000, 0x008, 0x010, 0x018, 0x020, 0x030, 0x040, 0x048, 0x050, 0x058, 0x060, 0x068, 0x078, 0x090, 0x0A0, 0x0A8, 0x0B0, 0x0B8, 0x0C0, 0x0C8, 0x0D0] → v = 0)) ∧
  (∀ (s : State) vf, s.arg.a = 24 + vf → vf < 96 → s.sec.life ≠ .recovery → s.arg.badIde = true → Runs .registerWrite s fun t =>
    t = { s with sec := { s.sec with tdisp := t.sec.tdisp, ide := t.sec.ide } } ∧ (tdispOf s vf = .run → find t.sec.ide vf = none) ∧ tdispOf t vf = (if tdispOf s vf = .run then .error else tdispOf s vf) ∧
    ∀ u, u ≠ vf → tdispOf t u = tdispOf s u) ∧
  (∀ (s : State), s.arg.a = 120 → s.sec.life ≠ .recovery → s.arg.flag = true → Runs .registerWrite s fun t => t = { s with out := s.out ++ [.hostData (if s.arg.b = 0x0F0000 then hstat s else 0)] }) ∧
  (∀ (s : State) vf q o x, s.arg.a = 24 + vf → vf < 96 → FromHost s → q < 8 → o < 256 → s.arg.flag = true → s.arg.b = 256 * q + o → x = queueOf s vf q → Runs .registerWrite s fun t => ∃ v : Word, t = { s with out := s.out ++ [onStream s vf (.hostData v)] } ∧
    (o = 0x00 → v = x.base) ∧ (o = 0x08 → v = x.size) ∧ (o = 0x10 → v = BitVec.ofNat 64 x.tail.toNat) ∧ (o = 0x18 → v = BitVec.ofNat 64 x.head.toNat) ∧ (o = 0x28 → v = BitVec.ofNat 64 x.fence.toNat) ∧
    (o = 0x20 → x.prio < 128 → v = BitVec.ofNat 64 ((if x.enable = true then 1 else 0) + 2 * x.prio + (if x.ovr = true then 256 else 0) + (if x.cplerr = true then 512 else 0))) ∧
    (o ∉ [0x00, 0x08, 0x10, 0x18, 0x20, 0x28] → v = 0)) ∧
  (∀ (s : State) p g, p = s.arg.a → (find s.parts p).isSome = true → g = (part s p).regs → (Runs .flqhead s fun t => (part t p).regs.flqhead = s.arg.v ∧ t.threads = s.threads ∧ LocalKeep s t ∧ t.hbm = s.hbm ∧
      ∀ bs, (part s p).logWait = [bs] → NoBatch s → (g.flqtail - s.arg.v).toNat < g.flqsize.toNat →
        (part t p).logWait = [] ∧ (part t p).regs.flqtail = g.flqtail + 1 ∧ readBytes t.host (g.flqbase.toNat + g.flqtail.toNat % g.flqsize.toNat * 32) bs.length = bs) ∧
    (g.recctl = 2 → Runs .rechead s fun t => t = s) ∧
    (g.recctl ≠ 2 → Runs .rechead s fun t => OnlyPart p s t ∧ (part t p).regs = { g with rechead := s.arg.v, rectaken := [] }) ∧
    Runs .dbgatt s fun t => (part t p).regs = { g with dbgatt := s.arg.v.getLsbD 0 } ∧ (∀ q, q ≠ p → part t q = part s q) ∧
      t = { s with parts := t.parts, threads := t.threads } ∧ (∀ v ∈ (part t p).saved, ∀ m ∈ v.members, m.2.id.part = p → m.2.sr.dbg = s.arg.v.getLsbD 0) ∧
      ∀ u, occupied s u = true → thr t u = { thr s u with sr := { (thr s u).sr with dbg := if (thr s u).id.part = p then s.arg.v.getLsbD 0 else (thr s u).sr.dbg } }) ∧
  (∀ (s : State), namedTeam s s.arg.a s.arg.v = none → (Runs .dbgstop s fun t => t = s) ∧ Runs .dbgres s fun t => t = s) ∧
  (∀ (s : State) k, namedTeam s s.arg.a s.arg.v = some k →
    (Runs .dbgstop s fun t => t = { s with threads := t.threads } ∧ (∀ m ∈ liveOf s k, (thr s m).sr.dbg = true → ((thr s m).frz = none → Interrupted 2 m s t) ∧
      ∀ z, (thr s m).frz = some z → (thr t m).frz = some (stopRequested s z)) ∧ ∀ u, u ∉ liveOf s k ∨ (thr s u).sr.dbg = false → thr t u = thr s u) ∧
    Runs .dbgres s fun t => LocalKeep s t ∧ ∀ m ∈ liveOf s k ++ tillersOf s k, ∀ z, (thr s m).frz = some z → dbgStopped (thr s m) = true → (thr s m).held = [] → heldRuns s m = [] → z.pending = 0 →
      (thr t m).frz = none ∧ (thr t m).c = (thr s m).c) ∧
  (∀ (s : State) p, p = s.arg.a → s.sec.life ≠ .recovery → (find s.parts p).isSome = true →
    (dbgThread s p = none → (Runs .dbgdataRead s fun t => (part t p).regs = { (part s p).regs with dbgstat := BitVec.allOnes 64, dbgdata := BitVec.allOnes 64 } ∧
        t.out = s.out ++ [.hostData (BitVec.allOnes 64)] ∧ t.threads = s.threads) ∧
      Runs .dbgdataWrite s fun t => OnlyPart p s t ∧ (part t p).regs = { (part s p).regs with dbgstat := BitVec.allOnes 64, dbgdata := s.arg.v }) ∧
    ∀ f, dbgThread s p = some f →
      (∀ v, (selector (dbgSelector s p)).bind (frozenItem s f) = some v → Runs .dbgdataRead s fun t => (part t p).regs = { (part s p).regs with dbgstat := 0, dbgdata := v } ∧
        t.out = s.out ++ [.hostData v] ∧ t.threads = s.threads) ∧
      ((selector (dbgSelector s p)).bind (frozenItem s f) = none →
        (Runs .dbgdataRead s fun t => (part t p).regs = { (part s p).regs with dbgstat := status 2, dbgdata := status 2 } ∧ t.out = s.out ++ [.hostData (status 2)] ∧ t.threads = s.threads) ∧
        Runs .dbgdataWrite s fun t => OnlyPart p s t ∧ (part t p).regs = { (part s p).regs with dbgstat := status 2, dbgdata := s.arg.v }) ∧
      ∀ i, (part s p).regs.dbgsel.toNat % 2 ^ 32 = 0x1000 + i → 0 < i → i < 64 →
        (Runs .dbgdataRead s fun t => (part t p).regs = { (part s p).regs with dbgstat := 0, dbgdata := gOf (thr s f) i } ∧ t.out = s.out ++ [.hostData (gOf (thr s f) i)] ∧ t.threads = s.threads) ∧
        Runs .dbgdataWrite s fun t => (part t p).regs = { (part s p).regs with dbgstat := 0, dbgdata := s.arg.v } ∧
          gOf (thr t f) i = (if look 0 (thr s f).replied i = s.clock.now + 1 then gOf (thr s f) i else s.arg.v) ∧ GKeep [i] (thr s f) (thr t f) ∧ (∀ u, u ≠ f → thr t u = thr s u) ∧ LocalKeep s t)

/-- R380 to R383, R410, R497, R498, R500, R501, R503, R504: module reset, attestation, interfaces, ports and time. The slew at every Sync and the lock at
5 ns are the choice of log entry 14, what waits at the hub that of log entry 90, how a request reaches the model that of log entry 44, that a stage that
fails is not measured that of log entry 99, what survives a module reset that of log entry 46 (with 77 for the failed routers and 115 for the host), that both
directions of a port wait once either count is at its limit that of log entry 58, that LOCK and START leave an interface in another state that of log entry 64,
and where the key of a stream is drawn, the digest of a neighbour, and the channels and stops of beats those of log entries 122, 21 and 119. -/
def Obligations.ModuleEvents : Prop := (∀ (s : State) b, b = s.arg.boot → Runs .moduleReset s fun t => t.threads = [] ∧ t.packets = [] ∧ t.launches = [] ∧ t.clock = {} ∧ t.host = s.host ∧ t.hostUr = s.hostUr ∧ t.sec.badRouters = s.sec.badRouters ∧
    (∀ n, n ≤ 4 → (∀ i x, i < n → b.stages[i]? = some x → stageGood x = true) → n ≤ b.stages.length → t.sec.slots.length = 5 ∧
      (∀ i x, i < n → b.stages[i]? = some x → t.sec.slots[i]? = some (sha3 (List.replicate 32 0 ++ sha3 x.image))) ∧
      (n < 4 → (b.stages.length = n ∨ ∃ x, b.stages[n]? = some x ∧ stageGood x = false) → t.sec.life = .recovery ∧ t.hub.ready = false ∧ t.parts = [] ∧
        ∀ i, n ≤ i → i < 5 → t.sec.slots[i]? = some (List.replicate 32 0)) ∧
      (n = 4 → t.hub.module = b.module ∧ t.hub.window = b.window ∧
        ∀ up, up = ((upFrom 0 576).filter fun n => !(b.offTiles.contains n) && !(b.offQuads.contains (quadOf n))).length →
          ((b.stacksTrained = false ∨ up < 544 ∨ s.sec.badRouters ≠ [] ∨ b.stages.length = 4 ∨ ∃ x, b.stages[4]? = some x ∧ stageGood x = false) →
            t.sec.life = .recovery ∧ t.hub.ready = false ∧ t.parts = [] ∧ t.sec.slots[4]? = some (List.replicate 32 0)) ∧
          (∀ x, b.stacksTrained = true → 544 ≤ up → s.sec.badRouters = [] → b.stages[4]? = some x → stageGood x = true →
            t.sec.slots[4]? = some (sha3 (List.replicate 32 0 ++ sha3 x.image)) ∧ t.sec.plan = x.image ∧ t.sec.rows = b.repair ∧
            (planIn x.image = [] → t.sec.life = .ready ∧ t.hub.ready = true ∧ t.hub.time = { master := b.master } ∧ Routed b.routes t ∧ t.parts = []) ∧
            ∀ p c, planIn x.image = [(p, c)] →
              (p < 24 → cfgGood c = true → t.sec.life = .ready ∧ t.hub.ready = true ∧ (find t.parts p).isSome = true ∧ (part t p).cfg = c ∧ ∀ q, q ≠ p → find t.parts q = none) ∧
              (24 ≤ p ∨ cfgGood c = false → t.sec.life = .recovery ∧ t.hub.ready = false ∧ t.parts = []))))) ∧
  (∀ (s : State), s.sec.life = .ready →
    (Runs .getVersion s fun t => t = { s with out := s.out ++ [.spdm s.arg.a 0x04 [0x13]], sec := { s.sec with version := true, caps := false, algs := false } }) ∧
    (Runs .getCapabilities s fun t => t = { s with out := s.out ++ [.spdm s.arg.a 0x61 (Config.spdmBody 0x61 s.arg.bytes)], sec := { s.sec with caps := true } }) ∧
    (Runs .negotiateAlgorithms s fun t => t = { s with out := s.out ++ [.spdm s.arg.a 0x63 (Config.spdmBody 0x63 s.arg.bytes)], sec := { s.sec with algs := true } }) ∧
    (Runs .getDigests s fun t => t = { s with out := s.out ++ [.spdm s.arg.a 0x01 (sha3 (certificate s))] }) ∧
    (Runs .getCertificate s fun t => t = { s with out := s.out ++ [.spdm s.arg.a 0x02 (certificate s)] }) ∧
    (Runs .challenge s fun t => t = { s with out := s.out ++ [.spdm s.arg.a 0x03 (Config.sign (identity s) s.arg.bytes)], hub := t.hub } ∧ Shown s t) ∧
    (s.arg.a = 24 ∨ (find s.parts s.arg.a).isSome = true ∨ s.arg.flag = true → Runs .getMeasurements s fun t => ∃ b,
      t = { s with out := s.out ++ [.spdm s.arg.a 0x60 (b ++ Config.sign (identity s) b)], hub := t.hub } ∧ Shown s t ∧ b = reportBody s s.arg.a s.arg.bytes ∧
      (s.sec.slots.length = 5 → s.clock.halfNs < 2 ^ 64 → b.length = 328 ∧ field b 0 4 = 1 ∧ field b 232 8 = s.sec.health.toNat ∧ field b 240 8 = s.clock.halfNs / 2)) ∧
    (∀ b, b = Config.spdmBody 0x64 s.arg.bytes → Runs .keyExchange s fun t =>
      t = { s with out := s.out ++ [.spdm s.arg.a 0x64 (b ++ Config.sign (identity s) b)], sec := { s.sec with keys := s.sec.keys + 2 }, hub := t.hub } ∧
      (s.arg.flag = true → s.arg.c = 1 → (portOf s s.arg.b).shown = true → (∀ n, n ≠ s.arg.b → portOf t n = portOf s n) ∧
        portOf t s.arg.b = { portOf s s.arg.b with txKey := s.sec.keys + 1, rxKey := s.sec.keys + 2, txBeats := 0, rxBeats := 0 }) ∧
      (s.arg.flag = false ∨ s.arg.c ≠ 1 ∨ (portOf s s.arg.b).shown = false → t.hub = s.hub))) ∧
  (∀ (s : State) i, i ∈ [Instr.lockInterface, .startInterface, .stopInterface] → (s.sec.life = .recovery → Runs i s fun t => t = s) ∧
    (s.sec.life ≠ .recovery → s.arg.badIde = true → Runs i s fun t => t = { s with sec := { s.sec with tdisp := t.sec.tdisp, ide := t.sec.ide } } ∧
      tdispOf t s.arg.a = if tdispOf s s.arg.a = .run then .error else tdispOf s s.arg.a)) ∧
  (∀ (s : State), FromHost s → (Runs .lockInterface s fun t => t = { s with sec := t.sec } ∧ tdispOf t s.arg.a = if tdispOf s s.arg.a = .unlocked then .locked else tdispOf s s.arg.a) ∧
    (Runs .startInterface s fun t => t = { s with sec := t.sec } ∧ (tdispOf t s.arg.a = if tdispOf s s.arg.a = .locked then .run else tdispOf s s.arg.a) ∧
      (tdispOf s s.arg.a = .locked → find t.sec.ide s.arg.a = some (s.sec.keys + 1))) ∧
    ((find s.parts (s.arg.a / 4)).isSome = true → Runs .stopInterface s fun t => tdispOf t s.arg.a = .unlocked ∧ PartitionReset (s.arg.a / 4) s t)) ∧
  (∀ (s : State), (portOf s s.arg.a).up = true → s.arg.flag = true → Runs .beat s fun t => t = { s with hub := t.hub, out := t.out } ∧ (portOf t s.arg.a).stop = s.arg.nums ∧
    (∀ n, n ≠ s.arg.a → (portOf t n).stop = (portOf s n).stop) ∧ (∀ n, (portOf t n).up = (portOf s n).up ∧ (portOf t n).txKey = (portOf s n).txKey ∧ (portOf t n).rxKey = (portOf s n).rxKey) ∧
    (s.hub.held = [] → t.out = s.out) ∧ Resent (fun n => (portOf s n).txBeats) s t) ∧
  (∀ (s : State) b, b = s.arg.beat → s.arg.flag = false → (portOf s s.arg.a).up = true → (portOf s s.arg.a).rxBeats < 2 ^ 48 - 1 → beatGood b = true →
    (b.authentic = false → Runs .beat s fun t => t = { s with hub := t.hub } ∧ (∀ n, n ≠ s.arg.a → portOf t n = portOf s n) ∧
      portOf t s.arg.a = { portOf s s.arg.a with up := false, txKey := 0, rxKey := 0, shown := false, stop := [], rxBeats := (portOf s s.arg.a).rxBeats + 1 }) ∧
    (b.authentic = true → b.dmod ≠ s.hub.module →
      (∀ q, find s.hub.routes b.dmod = some q → (portOf s q).up = true → (portOf s q).txBeats < 2 ^ 48 - 1 → (portOf s q).rxBeats + (if q = s.arg.a then 1 else 0) < 2 ^ 48 - 1 →
        b.vc ∉ (portOf s q).stop → (∀ m ∈ s.hub.held, fabricTo m ≠ some b.dmod) → Runs .beat s fun t => t = { s with hub := t.hub, out := s.out ++ [.beats q [b]] } ∧ t.hub.held = s.hub.held ∧
        ∀ n, (portOf t n).rxBeats = (portOf s n).rxBeats + (if n = s.arg.a then 1 else 0) ∧ (portOf t n).txBeats = (portOf s n).txBeats + if n = q then 1 else 0) ∧
      (∀ q, find s.hub.routes b.dmod = some q → (portOf s q).up = true → 2 ^ 48 - 1 ≤ (portOf s q).txBeats ∨ b.vc ∈ (portOf s q).stop → Runs .beat s fun t => t = { s with hub := t.hub } ∧
        t.hub.held = s.hub.held ++ [.beats 0 [b]]) ∧
      ((∀ q, find s.hub.routes b.dmod = some q → (portOf s q).up = false) → Runs .beat s fun t => t = { s with hub := t.hub } ∧ t.hub.held = s.hub.held ∧
        ∀ n, (portOf t n).rxBeats = (portOf s n).rxBeats + if n = s.arg.a then 1 else 0)) ∧
    (b.authentic = true → b.dmod = s.hub.module → b.kind = 5 → Runs .beat s fun t => t = { s with hub := t.hub } ∧ (∀ n, n ≠ s.arg.a → portOf t n = portOf s n) ∧
      portOf t s.arg.a = { portOf s s.arg.a with rxBeats := (portOf s s.arg.a).rxBeats + 1 }) ∧
    (b.authentic = true → b.dmod = s.hub.module → b.kind = 0 → b.vc = 0 →
      (accepts s b.dpart b = false → (find s.parts b.dpart).isSome = true → Runs .beat s fun t => (portOf t s.arg.a).pkt = none ∧
        (part t b.dpart).stats.hubBound = min 65535 ((part s b.dpart).stats.hubBound + 1) ∧ LocalKeep s t ∧ OuterKeep s t) ∧
      (accepts s b.dpart b = true → Runs .beat s fun t => t = { s with hub := t.hub } ∧
        (portOf t s.arg.a).pkt = if field b.payload 3 1 % 4 = 3 ∧ 1 ≤ field b.payload 16 1 then some (headPacket b.payload) else none)) ∧
    (∀ p, b.authentic = true → b.dmod = s.hub.module → b.kind = 1 → b.vc = 0 → (portOf s s.arg.a).pkt = some p →
      (p.data.length + 1 < p.len → Runs .beat s fun t => t = { s with hub := t.hub } ∧
        (portOf t s.arg.a).pkt = some { p with data := p.data ++ [{ bytes := b.payload, poison := b.poison }] }) ∧
      (∀ o, p.data.length + 1 = p.len → b.poison = false → (∀ x ∈ p.data, x.bytes.length = 64 ∧ x.poison = false) → homeOf s b.dpart p.addr (64 * p.len) = .ok (.hbm o) →
        (p.flag = 0 → Runs .beat s fun t => (portOf t s.arg.a).pkt = none ∧ Sent (.peerReply b.smod [] [] false false) b.smod s t ∧
          (Unpoisoned s → WrittenAt (.hbm o) ((p.data.flatMap fun x => x.bytes) ++ b.payload) s t)) ∧
        (∀ f, p.flag ≠ 0 → homeOf s b.dpart p.flag 8 = .ok (.hbm f) → Runs .beat s fun t => (portOf t s.arg.a).pkt = none ∧ Sent (.peerReply b.smod [] [] false false) b.smod s t ∧
          (Unpoisoned s → readBytes t.hbm.mem f 8 = flagBytes p ∧
            (f + 8 ≤ o ∨ o + 64 * p.len ≤ f → readBytes t.hbm.mem o (64 * p.len) = (p.data.flatMap fun x => x.bytes) ++ b.payload)))) ∧
      (p.data.length + 1 = p.len → (∀ o, homeOf s b.dpart p.addr (64 * p.len) ≠ .ok (.hbm o)) → Runs .beat s fun t => (portOf t s.arg.a).pkt = none ∧
        Sent (.peerReply b.smod [] [] false true) b.smod s t ∧ LocalKeep s t ∧ OuterKeep s t)) ∧
    (b.authentic = true → b.dmod = s.hub.module → b.kind = 2 → ∀ c, collOf s b.dpart (field b.payload 0 2) = some c → accepts s b.dpart b = true →
      (c.open_ = false ∨ field b.payload 4 4 ≠ c.gen.toNat ∨ ∀ r ∈ c.chans, ¬(r.dir = 1 ∧ r.peer = b.smod ∧ r.pch = field b.payload 16 1)) → Runs .beat s fun t =>
        collOf t b.dpart (field b.payload 0 2) = some { c with late := c.late + 1 } ∧ LocalKeep s t ∧ OuterKeep s t) ∧
    (b.authentic = true → b.dmod = s.hub.module → b.kind = 4 → b.vc = 0 → ∀ f ch g lim c y, s.arg.nums = [f, ch, g, lim] → g < 2 ^ 32 → collOf s b.dpart f = some c → c.open_ = true → c.gen = BitVec.ofNat 32 g →
      accepts s b.dpart b = true → find c.chst ch = some y → Runs .beat s fun t => ∃ x, collOf t b.dpart f = some x ∧
        (find x.chst ch).map LimitOf = some (c.gen, if y.limGen = c.gen then max y.limit lim else lim) ∧ LocalKeep s t ∧ OuterKeep s t) ∧
    (b.authentic = true → b.dmod = s.hub.module → b.kind = 0 → b.vc = 1 →
      (accepts s b.dpart b = false → Runs .beat s fun t => Sent (.peerReply b.smod [] [] false true) b.smod s t ∧ LocalKeep s t ∧ OuterKeep s t) ∧
      (accepts s b.dpart b = true →
        (∀ o, s.arg.c = 1 → homeOf s b.dpart s.arg.d s.arg.e = .ok (.hbm o) → Runs .beat s fun t =>
          Sent (.peerReply b.smod [] (homeRead s (.hbm o) s.arg.e).1 (homeRead s (.hbm o) s.arg.e).2 false) b.smod s t ∧ LocalKeep s t ∧ OuterKeep s t) ∧
        (∀ o x, s.arg.c = 4 → homeOf s b.dpart s.arg.d s.arg.e = .ok (.hbm o) → x = storedReply s o s.arg.e → Runs .beat s fun t =>
          Sent (.peerReply b.smod x.1 x.2 (homeRead s (.hbm o) s.arg.e).2 false) b.smod s t ∧ LocalKeep s t ∧ OuterKeep s t) ∧
        (∀ o, s.arg.c = 2 → b.poison = false → homeOf s b.dpart s.arg.d s.arg.bytes.length = .ok (.hbm o) → Runs .beat s fun t =>
          Sent (.peerReply b.smod [] [] false false) b.smod s t ∧ (Unpoisoned s → WrittenAt (.hbm o) s.arg.bytes s t)) ∧
        (∀ o (op : FOp) k x y, s.arg.c = 3 → s.arg.nums = [k, x, y] → [FOp.add, .swap, .cas, .band, .bor, .bxor, .min, .max][k]? = some op →
          homeOf s b.dpart s.arg.d s.arg.e = .ok (.hbm o) → Unpoisoned s → Runs .beat s fun t =>
            Sent (.peerReply b.smod [] (homeRead s (.hbm o) s.arg.e).1 false false) b.smod s t ∧
            WrittenAt (.hbm o) (toBytes s.arg.e (famoNew op s.arg.e (leNat (homeRead s (.hbm o) s.arg.e).1) x y)) s t) ∧
        (∀ o, s.arg.c = 3 → homeOf s b.dpart s.arg.d s.arg.e = .ok (.hbm o) → (homeRead s (.hbm o) s.arg.e).2 = true → Runs .beat s fun t =>
          Sent (.peerReply b.smod [] (homeRead s (.hbm o) s.arg.e).1 true false) b.smod s t ∧ LocalKeep s t ∧ OuterKeep s t) ∧
        (s.arg.c ∈ [1, 2, 3, 4] → (∀ o, homeOf s b.dpart s.arg.d (if s.arg.c = 2 then s.arg.bytes.length else s.arg.e) ≠ .ok (.hbm o)) → Runs .beat s fun t =>
          Sent (.peerReply b.smod [] [] false true) b.smod s t ∧ LocalKeep s t ∧ OuterKeep s t)))) ∧
  (∀ (s : State), s.arg.a < 32 → (portOf s s.arg.a).txKey ≠ 0 → (portOf s s.arg.a).up = false → Runs .trainingComplete s fun t => t = { s with hub := t.hub, out := t.out } ∧
    (portOf t s.arg.a).up = true ∧ (∀ n, n ≠ s.arg.a → (portOf t n).up = (portOf s n).up) ∧ (∀ n, (portOf t n).txKey = (portOf s n).txKey ∧ (portOf t n).rxKey = (portOf s n).rxKey) ∧ Routed s.arg.pairs t ∧
    (s.hub.held = [] → t.out = s.out ∧ portOf t s.arg.a = { portOf s s.arg.a with up := true, txBeats := 0, rxBeats := 0 } ∧ ∀ n, n ≠ s.arg.a → portOf t n = portOf s n) ∧
    Resent (fun n => if n = s.arg.a then 0 else (portOf s n).txBeats) s t) ∧
  (∀ (s : State), Runs .portLost s fun t => t = { s with hub := t.hub, out := t.out } ∧ (portOf t s.arg.a).up = false ∧ (portOf t s.arg.a).txKey = 0 ∧ (portOf t s.arg.a).rxKey = 0 ∧ (portOf t s.arg.a).shown = false ∧
    (∀ n, n ≠ s.arg.a → (portOf t n).up = (portOf s n).up ∧ (portOf t n).txKey = (portOf s n).txKey ∧ (portOf t n).rxKey = (portOf s n).rxKey) ∧ Routed s.arg.pairs t ∧
    (s.hub.held = [] → t.out = s.out ∧ ∀ n, n ≠ s.arg.a → portOf t n = portOf s n) ∧ Resent (fun n => (portOf s n).txBeats) s t) ∧
  (∀ (s : State), (portOf s s.arg.a).up = true → 2 ^ 48 - 1 ≤ (portOf s s.arg.a).txBeats ∨ 2 ^ 48 - 1 ≤ (portOf s s.arg.a).rxBeats → Runs .newKeyPair s fun t =>
    (portOf t s.arg.a).txKey = s.sec.keys + 1 ∧ (portOf t s.arg.a).rxKey = s.sec.keys + 2 ∧ t.sec = { s.sec with keys := s.sec.keys + 2 } ∧ (∀ n, (portOf t n).up = (portOf s n).up) ∧
    (∀ n, n ≠ s.arg.a → (portOf t n).txKey = (portOf s n).txKey ∧ (portOf t n).rxKey = (portOf s n).rxKey) ∧ t.threads = s.threads ∧ t.hub.routes = s.hub.routes ∧
    (s.hub.held = [] → t.out = s.out ∧ (portOf t s.arg.a).txBeats = 0 ∧ (portOf t s.arg.a).rxBeats = 0 ∧ ∀ n, n ≠ s.arg.a → portOf t n = portOf s n) ∧
    Resent (fun n => if n = s.arg.a then 0 else (portOf s n).txBeats) s t) ∧
  (∀ (s : State), ((portOf s s.arg.a).up = true → s.hub.time.master ≠ some s.arg.a → Runs .sync s fun t => t = s) ∧
    (∀ ahead : Int, (portOf s s.arg.a).up = true → s.hub.time.master = some s.arg.a → ahead = (s.clock.halfNs / 2 : Nat) - (s.arg.v.toNat + look 0 s.hub.time.delay s.arg.a : Nat) → Runs .sync s fun t =>
      t = { s with hub := { s.hub with time := { s.hub.time with lock := decide (ahead.natAbs ≤ 5), hops := s.arg.b % 256, offset := min 65535 ahead.natAbs, corr := -2 * ahead } } }) ∧
    ((portOf s s.arg.a).up = true → Runs .pdelayReq s fun t => t = { s with out := s.out ++ [.ptp 3 s.arg.a (s.clock.halfNs / 2)] }) ∧
    ((portOf s s.arg.a).up = true → Runs .pdelayResp s fun t => t = { s with hub := { s.hub with time := { s.hub.time with delay := put s.arg.a ((s.clock.halfNs / 2 - s.hub.time.askedNs - s.arg.b) / 2) s.hub.time.delay } } }) ∧
    (s.hub.time.lastPtp + 1953125 ≤ s.clock.halfNs → Runs .ptpInterval s fun t => t = { s with hub := { s.hub with time := { s.hub.time with lastPtp := s.clock.halfNs, askedNs := s.clock.halfNs / 2 } }, out := t.out } ∧
      ∀ n ∈ upPorts s, Msg.ptp 2 n (s.clock.halfNs / 2) ∈ t.out ∧ (s.hub.time.master ≠ some n → Msg.ptp 0 n (s.clock.halfNs / 2) ∈ t.out)))

/-- R234: HND.DROP frees an entry that nothing uses, and its scale entry loses a reference; a failed entry may be dropped. The hypotheses
are those of R229 (a handle word waits for the far requests of its classes). -/
def Obligations.HandleDrop : Prop := ∀ (s : State) (d a p : Nat), occupied s s.cur = true → Clear s → p = (thr s s.cur).id.part → (find s.parts p).isSome = true →
  ((4095 < (gOf (thr s s.cur) a).toNat ∨ find (part s p).handles (gOf (thr s s.cur) a).toNat = none) → WritesG (.hndDrop d a) 2 d (status 1) s) ∧
  ∀ e, (gOf (thr s s.cur) a).toNat ≤ 4095 → find (part s p).handles (gOf (thr s s.cur) a).toNat = some e →
    ((0 < e.refs ∨ (e.conv ≠ none ∧ e.failed = false)) → WritesG (.hndDrop d a) 2 d (status 8) s) ∧
    (e.refs = 0 → (e.conv = none ∨ e.failed = true) →
      (0 < e.scalerefs → WritesG (.hndDrop d a) 2 d (status 9) s) ∧
      (e.scalerefs = 0 →
        ∃ t, exec (.hndDrop d a) s = .next t ∧ PcBy 2 s t ∧ GWritten d 0 s t ∧ HandleFrame d p s t ∧ (part t p).gens = (part s p).gens ∧
          ∀ h, find (part t p).handles h = if h = (gOf (thr s s.cur) a).toNat then none
            else if e.hrec.group ≠ 0 ∧ h = e.hrec.scale then (find (part s p).handles h).map (fun x => { x with scalerefs := x.scalerefs - 1 })
            else find (part s p).handles h))

/-- R60, R76, R77, R79: no bit of an encoding is dropped: every well-formed instruction is read back from its encoding, with every
operand. -/
def Obligations.EncodeDecode : Prop := ∀ (st : Stream) (i : Instr) (rest : List Half), wellFormed st i = true →
  decodeAt st (encode i ++ rest) = .ok (i, encodeLen i)

/-- R60, R76, R77, R79, R89: a word that is accepted is the encoding of the instruction it is read as, so every bit of it is read and
no illegal value passes. -/
def Obligations.DecodeEncode : Prop := ∀ (st : Stream) (l : List Half) (i : Instr) (n : Nat), decodeAt st l = .ok (i, n) →
  wellFormed st i = true ∧ n = encodeLen i ∧ encode i = l.take n

/-- The worked encodings of 03, 08, 10, 11, 12: each word decodes to what the manual writes beside it. -/
def Obligations.DecodedWords : Prop := decodeBits .C 0x02518445 = .ok (.ldW 4 6 5 2) ∧ decodeBits .C 0x0CF2CA63 = .ok (.fldD 10 11 15 (.acq .module) 0) ∧
  decodeBits .C 0x17A6 = .ok (.addiCompact 5 29) ∧ decodeBits .C 0x1D02 = .ok (.br 7 1) ∧ decodeBits .C 0x2C02C209 = .ok (.sel 11 2 0 11) ∧
  decodeBits .V 0x8411C003 = .ok (.vadd .f32 true 3 1 33) ∧ decodeBits .V 0x86B00009 = .ok (.vfmaF32 false 0 0 43 33) ∧
  decodeBits .V 0x20986D31 = .ok (.vld true 4 2 1 3 { chan := 3, push := false, pop := true }) ∧
  decodeBits .M 0x00002009 = .ok (.mgo 0 1 { chan := 0, push := false, pop := false }) ∧
  decodeBits .L 0x01000209 = .ok (.kwait 1 { chan := 0, push := true, pop := false }) ∧
  decodeBits .A 0x28002103 = .ok (.aopen 10 .add .f32 1 { chan := 0, push := false, pop := true }) ∧
  decodeBits .F 0x28B02005 = .ok (.frecv 10 11 1 { chan := 0, push := false, pop := false })

/-- R61, R63, R67, R88: a step runs the word that the stream at issue decodes; a word that does not decode is illegal. What the step
adds around exec (the phases of a network cycle) is log entry 10. -/
def Obligations.StepRuns : Prop := ∀ (s r : State) (x : Slot) (rest : List Slot),
  (s.clock.phase = .issue (x :: rest) → r = setPhase (.issue rest) s →
    (∀ tl ctx, x = .ctl tl ctx → canIssue r (tl * 6 + ctx) 0 = true → heldC r (tl * 6 + ctx) = false →
      (tile r tl).coreAt ≠ some r.clock.now → Unbroken r (tl * 6 + ctx) 0 → RunsWord (tl * 6 + ctx) 0 s (readyFor (tl * 6 + ctx) r)) ∧
    (∀ tl ctx, x = .ctl tl ctx → (∀ n, decodeAt .C (halvesAt r (tl * 6 + ctx) 0) ≠ .ok (.yield, n)) → readyFor (tl * 6 + ctx) r = r) ∧
    (∀ tl st c, x = .word tl st → (look ({} : EngArb) (tile r tl).eng st).owner = some c → canIssue r (tl * 6 + c) st = true →
      Unbroken r (tl * 6 + c) st → RunsWord (tl * 6 + c) st s r) ∧
    ∀ tid st, x = .wordQ tid st → canIssue r tid st = true → inCall r tid st = true → Unbroken r tid st → RunsWord tid st s r) ∧
  ∀ i y, s.clock.phase = .land → placeOf (fun (z : Input) => z.at_ ≤ s.clock.now) 0 s.inputs = some i → s.inputs[i]? = some y →
    encodeLen y.what = 0 → step s = exec y.what { s with inputs := dropAt i s.inputs, arg := y.arg }

/-- The memories of the tiles, of the device and of the host keep their canonical form over every step, so that equal memories are
equal data (log entry 1). -/
def Obligations.StepKeepsMemories : Prop := ∀ (s t : State), MemoryCanonical s → step s = .next t → MemoryCanonical t

/-- R498: the state after reset: nothing runs, nothing is listed, and the slots are zero. -/
def Obligations.ResetState : Prop := MemoryCanonical State.reset ∧ (∀ n, occupied State.reset n = false) ∧ (∀ n a, readByte (tile State.reset n).mem a = 0) ∧
  State.reset.parts = [] ∧ State.reset.packets = [] ∧ State.reset.launches = [] ∧ State.reset.queues = [] ∧
  State.reset.clock.now = 0 ∧ State.reset.sec.slots = List.replicate 5 (List.replicate 32 0)
end

