-- ==== Sys2Proof/Laws/State.lean ====
section
/-!
SUPPORT. What each update of the state leaves alone: one lemma per field per update, so that no proof unfolds a record
update.
-/
namespace Sys2Proof.Laws

open Sys2Proof.Machine

variable (s : State) (n a b c : Nat)

/-! ## modThr -/

@[simp] theorem modThr_clock (f : Thread → Thread) : (modThr n f s).clock = s.clock := rfl
@[simp] theorem modThr_arg (f : Thread → Thread) : (modThr n f s).arg = s.arg := rfl
@[simp] theorem modThr_cur (f : Thread → Thread) : (modThr n f s).cur = s.cur := rfl
@[simp] theorem modThr_strm (f : Thread → Thread) : (modThr n f s).strm = s.strm := rfl
@[simp] theorem modThr_offTiles (f : Thread → Thread) : (modThr n f s).offTiles = s.offTiles := rfl
@[simp] theorem modThr_prgAlloc (f : Thread → Thread) : (modThr n f s).prgAlloc = s.prgAlloc := rfl
@[simp] theorem modThr_ready (f : Thread → Thread) : (modThr n f s).ready = s.ready := rfl
@[simp] theorem modThr_offQuads (f : Thread → Thread) : (modThr n f s).offQuads = s.offQuads := rfl
@[simp] theorem modThr_tiles (f : Thread → Thread) : (modThr n f s).tiles = s.tiles := rfl
@[simp] theorem modThr_quads (f : Thread → Thread) : (modThr n f s).quads = s.quads := rfl
@[simp] theorem modThr_sensors (f : Thread → Thread) : (modThr n f s).sensors = s.sensors := rfl
@[simp] theorem modThr_dies (f : Thread → Thread) : (modThr n f s).dies = s.dies := rfl
@[simp] theorem modThr_refusedVf (f : Thread → Thread) : (modThr n f s).refusedVf = s.refusedVf := rfl
@[simp] theorem modThr_packets (f : Thread → Thread) : (modThr n f s).packets = s.packets := rfl
@[simp] theorem modThr_hub (f : Thread → Thread) : (modThr n f s).hub = s.hub := rfl
@[simp] theorem modThr_hbm (f : Thread → Thread) : (modThr n f s).hbm = s.hbm := rfl
@[simp] theorem modThr_host (f : Thread → Thread) : (modThr n f s).host = s.host := rfl
@[simp] theorem modThr_hostPoison (f : Thread → Thread) : (modThr n f s).hostPoison = s.hostPoison := rfl
@[simp] theorem modThr_hostUr (f : Thread → Thread) : (modThr n f s).hostUr = s.hostUr := rfl
@[simp] theorem modThr_old (f : Thread → Thread) : (modThr n f s).old = s.old := rfl
@[simp] theorem modThr_parts (f : Thread → Thread) : (modThr n f s).parts = s.parts := rfl
@[simp] theorem modThr_teams (f : Thread → Thread) : (modThr n f s).teams = s.teams := rfl
@[simp] theorem modThr_nextTeam (f : Thread → Thread) : (modThr n f s).nextTeam = s.nextTeam := rfl
@[simp] theorem modThr_launches (f : Thread → Thread) : (modThr n f s).launches = s.launches := rfl
@[simp] theorem modThr_nextLaunch (f : Thread → Thread) : (modThr n f s).nextLaunch = s.nextLaunch := rfl
@[simp] theorem modThr_queues (f : Thread → Thread) : (modThr n f s).queues = s.queues := rfl
@[simp] theorem modThr_sec (f : Thread → Thread) : (modThr n f s).sec = s.sec := rfl
@[simp] theorem modThr_inputs (f : Thread → Thread) : (modThr n f s).inputs = s.inputs := rfl
@[simp] theorem modThr_out (f : Thread → Thread) : (modThr n f s).out = s.out := rfl
@[simp] theorem modThr_freeCount (f : Thread → Thread) : (modThr n f s).freeCount = s.freeCount := rfl

/-! ## modMe -/

@[simp] theorem modMe_clock (f : Thread → Thread) : (modMe f s).clock = s.clock := rfl
@[simp] theorem modMe_arg (f : Thread → Thread) : (modMe f s).arg = s.arg := rfl
@[simp] theorem modMe_cur (f : Thread → Thread) : (modMe f s).cur = s.cur := rfl
@[simp] theorem modMe_strm (f : Thread → Thread) : (modMe f s).strm = s.strm := rfl
@[simp] theorem modMe_offTiles (f : Thread → Thread) : (modMe f s).offTiles = s.offTiles := rfl
@[simp] theorem modMe_prgAlloc (f : Thread → Thread) : (modMe f s).prgAlloc = s.prgAlloc := rfl
@[simp] theorem modMe_ready (f : Thread → Thread) : (modMe f s).ready = s.ready := rfl
@[simp] theorem modMe_offQuads (f : Thread → Thread) : (modMe f s).offQuads = s.offQuads := rfl
@[simp] theorem modMe_tiles (f : Thread → Thread) : (modMe f s).tiles = s.tiles := rfl
@[simp] theorem modMe_quads (f : Thread → Thread) : (modMe f s).quads = s.quads := rfl
@[simp] theorem modMe_sensors (f : Thread → Thread) : (modMe f s).sensors = s.sensors := rfl
@[simp] theorem modMe_dies (f : Thread → Thread) : (modMe f s).dies = s.dies := rfl
@[simp] theorem modMe_refusedVf (f : Thread → Thread) : (modMe f s).refusedVf = s.refusedVf := rfl
@[simp] theorem modMe_packets (f : Thread → Thread) : (modMe f s).packets = s.packets := rfl
@[simp] theorem modMe_hub (f : Thread → Thread) : (modMe f s).hub = s.hub := rfl
@[simp] theorem modMe_hbm (f : Thread → Thread) : (modMe f s).hbm = s.hbm := rfl
@[simp] theorem modMe_host (f : Thread → Thread) : (modMe f s).host = s.host := rfl
@[simp] theorem modMe_hostPoison (f : Thread → Thread) : (modMe f s).hostPoison = s.hostPoison := rfl
@[simp] theorem modMe_hostUr (f : Thread → Thread) : (modMe f s).hostUr = s.hostUr := rfl
@[simp] theorem modMe_old (f : Thread → Thread) : (modMe f s).old = s.old := rfl
@[simp] theorem modMe_parts (f : Thread → Thread) : (modMe f s).parts = s.parts := rfl
@[simp] theorem modMe_teams (f : Thread → Thread) : (modMe f s).teams = s.teams := rfl
@[simp] theorem modMe_nextTeam (f : Thread → Thread) : (modMe f s).nextTeam = s.nextTeam := rfl
@[simp] theorem modMe_launches (f : Thread → Thread) : (modMe f s).launches = s.launches := rfl
@[simp] theorem modMe_nextLaunch (f : Thread → Thread) : (modMe f s).nextLaunch = s.nextLaunch := rfl
@[simp] theorem modMe_queues (f : Thread → Thread) : (modMe f s).queues = s.queues := rfl
@[simp] theorem modMe_sec (f : Thread → Thread) : (modMe f s).sec = s.sec := rfl
@[simp] theorem modMe_inputs (f : Thread → Thread) : (modMe f s).inputs = s.inputs := rfl
@[simp] theorem modMe_out (f : Thread → Thread) : (modMe f s).out = s.out := rfl
@[simp] theorem modMe_freeCount (f : Thread → Thread) : (modMe f s).freeCount = s.freeCount := rfl

/-! ## modTile -/

@[simp] theorem modTile_clock (f : Tile → Tile) : (modTile n f s).clock = s.clock := rfl
@[simp] theorem modTile_arg (f : Tile → Tile) : (modTile n f s).arg = s.arg := rfl
@[simp] theorem modTile_cur (f : Tile → Tile) : (modTile n f s).cur = s.cur := rfl
@[simp] theorem modTile_strm (f : Tile → Tile) : (modTile n f s).strm = s.strm := rfl
@[simp] theorem modTile_offTiles (f : Tile → Tile) : (modTile n f s).offTiles = s.offTiles := rfl
@[simp] theorem modTile_prgAlloc (f : Tile → Tile) : (modTile n f s).prgAlloc = s.prgAlloc := rfl
@[simp] theorem modTile_ready (f : Tile → Tile) : (modTile n f s).ready = s.ready := rfl
@[simp] theorem modTile_offQuads (f : Tile → Tile) : (modTile n f s).offQuads = s.offQuads := rfl
@[simp] theorem modTile_threads (f : Tile → Tile) : (modTile n f s).threads = s.threads := rfl
@[simp] theorem modTile_quads (f : Tile → Tile) : (modTile n f s).quads = s.quads := rfl
@[simp] theorem modTile_sensors (f : Tile → Tile) : (modTile n f s).sensors = s.sensors := rfl
@[simp] theorem modTile_dies (f : Tile → Tile) : (modTile n f s).dies = s.dies := rfl
@[simp] theorem modTile_refusedVf (f : Tile → Tile) : (modTile n f s).refusedVf = s.refusedVf := rfl
@[simp] theorem modTile_packets (f : Tile → Tile) : (modTile n f s).packets = s.packets := rfl
@[simp] theorem modTile_hub (f : Tile → Tile) : (modTile n f s).hub = s.hub := rfl
@[simp] theorem modTile_hbm (f : Tile → Tile) : (modTile n f s).hbm = s.hbm := rfl
@[simp] theorem modTile_host (f : Tile → Tile) : (modTile n f s).host = s.host := rfl
@[simp] theorem modTile_hostPoison (f : Tile → Tile) : (modTile n f s).hostPoison = s.hostPoison := rfl
@[simp] theorem modTile_hostUr (f : Tile → Tile) : (modTile n f s).hostUr = s.hostUr := rfl
@[simp] theorem modTile_old (f : Tile → Tile) : (modTile n f s).old = s.old := rfl
@[simp] theorem modTile_parts (f : Tile → Tile) : (modTile n f s).parts = s.parts := rfl
@[simp] theorem modTile_teams (f : Tile → Tile) : (modTile n f s).teams = s.teams := rfl
@[simp] theorem modTile_nextTeam (f : Tile → Tile) : (modTile n f s).nextTeam = s.nextTeam := rfl
@[simp] theorem modTile_launches (f : Tile → Tile) : (modTile n f s).launches = s.launches := rfl
@[simp] theorem modTile_nextLaunch (f : Tile → Tile) : (modTile n f s).nextLaunch = s.nextLaunch := rfl
@[simp] theorem modTile_queues (f : Tile → Tile) : (modTile n f s).queues = s.queues := rfl
@[simp] theorem modTile_sec (f : Tile → Tile) : (modTile n f s).sec = s.sec := rfl
@[simp] theorem modTile_inputs (f : Tile → Tile) : (modTile n f s).inputs = s.inputs := rfl
@[simp] theorem modTile_out (f : Tile → Tile) : (modTile n f s).out = s.out := rfl
@[simp] theorem modTile_freeCount (f : Tile → Tile) : (modTile n f s).freeCount = s.freeCount := rfl

/-! ## modPart -/

@[simp] theorem modPart_clock (f : Partition → Partition) : (modPart n f s).clock = s.clock := rfl
@[simp] theorem modPart_arg (f : Partition → Partition) : (modPart n f s).arg = s.arg := rfl
@[simp] theorem modPart_cur (f : Partition → Partition) : (modPart n f s).cur = s.cur := rfl
@[simp] theorem modPart_strm (f : Partition → Partition) : (modPart n f s).strm = s.strm := rfl
@[simp] theorem modPart_offTiles (f : Partition → Partition) : (modPart n f s).offTiles = s.offTiles := rfl
@[simp] theorem modPart_prgAlloc (f : Partition → Partition) : (modPart n f s).prgAlloc = s.prgAlloc := rfl
@[simp] theorem modPart_ready (f : Partition → Partition) : (modPart n f s).ready = s.ready := rfl
@[simp] theorem modPart_offQuads (f : Partition → Partition) : (modPart n f s).offQuads = s.offQuads := rfl
@[simp] theorem modPart_threads (f : Partition → Partition) : (modPart n f s).threads = s.threads := rfl
@[simp] theorem modPart_tiles (f : Partition → Partition) : (modPart n f s).tiles = s.tiles := rfl
@[simp] theorem modPart_quads (f : Partition → Partition) : (modPart n f s).quads = s.quads := rfl
@[simp] theorem modPart_sensors (f : Partition → Partition) : (modPart n f s).sensors = s.sensors := rfl
@[simp] theorem modPart_dies (f : Partition → Partition) : (modPart n f s).dies = s.dies := rfl
@[simp] theorem modPart_refusedVf (f : Partition → Partition) : (modPart n f s).refusedVf = s.refusedVf := rfl
@[simp] theorem modPart_packets (f : Partition → Partition) : (modPart n f s).packets = s.packets := rfl
@[simp] theorem modPart_hub (f : Partition → Partition) : (modPart n f s).hub = s.hub := rfl
@[simp] theorem modPart_hbm (f : Partition → Partition) : (modPart n f s).hbm = s.hbm := rfl
@[simp] theorem modPart_host (f : Partition → Partition) : (modPart n f s).host = s.host := rfl
@[simp] theorem modPart_hostPoison (f : Partition → Partition) : (modPart n f s).hostPoison = s.hostPoison := rfl
@[simp] theorem modPart_hostUr (f : Partition → Partition) : (modPart n f s).hostUr = s.hostUr := rfl
@[simp] theorem modPart_old (f : Partition → Partition) : (modPart n f s).old = s.old := rfl
@[simp] theorem modPart_teams (f : Partition → Partition) : (modPart n f s).teams = s.teams := rfl
@[simp] theorem modPart_nextTeam (f : Partition → Partition) : (modPart n f s).nextTeam = s.nextTeam := rfl
@[simp] theorem modPart_launches (f : Partition → Partition) : (modPart n f s).launches = s.launches := rfl
@[simp] theorem modPart_nextLaunch (f : Partition → Partition) : (modPart n f s).nextLaunch = s.nextLaunch := rfl
@[simp] theorem modPart_queues (f : Partition → Partition) : (modPart n f s).queues = s.queues := rfl
@[simp] theorem modPart_sec (f : Partition → Partition) : (modPart n f s).sec = s.sec := rfl
@[simp] theorem modPart_inputs (f : Partition → Partition) : (modPart n f s).inputs = s.inputs := rfl
@[simp] theorem modPart_out (f : Partition → Partition) : (modPart n f s).out = s.out := rfl
@[simp] theorem modPart_freeCount (f : Partition → Partition) : (modPart n f s).freeCount = s.freeCount := rfl

/-! ## modDie -/

@[simp] theorem modDie_clock (f : Die → Die) : (modDie n f s).clock = s.clock := rfl
@[simp] theorem modDie_arg (f : Die → Die) : (modDie n f s).arg = s.arg := rfl
@[simp] theorem modDie_cur (f : Die → Die) : (modDie n f s).cur = s.cur := rfl
@[simp] theorem modDie_strm (f : Die → Die) : (modDie n f s).strm = s.strm := rfl
@[simp] theorem modDie_offTiles (f : Die → Die) : (modDie n f s).offTiles = s.offTiles := rfl
@[simp] theorem modDie_prgAlloc (f : Die → Die) : (modDie n f s).prgAlloc = s.prgAlloc := rfl
@[simp] theorem modDie_ready (f : Die → Die) : (modDie n f s).ready = s.ready := rfl
@[simp] theorem modDie_offQuads (f : Die → Die) : (modDie n f s).offQuads = s.offQuads := rfl
@[simp] theorem modDie_threads (f : Die → Die) : (modDie n f s).threads = s.threads := rfl
@[simp] theorem modDie_tiles (f : Die → Die) : (modDie n f s).tiles = s.tiles := rfl
@[simp] theorem modDie_quads (f : Die → Die) : (modDie n f s).quads = s.quads := rfl
@[simp] theorem modDie_sensors (f : Die → Die) : (modDie n f s).sensors = s.sensors := rfl
@[simp] theorem modDie_refusedVf (f : Die → Die) : (modDie n f s).refusedVf = s.refusedVf := rfl
@[simp] theorem modDie_packets (f : Die → Die) : (modDie n f s).packets = s.packets := rfl
@[simp] theorem modDie_hub (f : Die → Die) : (modDie n f s).hub = s.hub := rfl
@[simp] theorem modDie_hbm (f : Die → Die) : (modDie n f s).hbm = s.hbm := rfl
@[simp] theorem modDie_host (f : Die → Die) : (modDie n f s).host = s.host := rfl
@[simp] theorem modDie_hostPoison (f : Die → Die) : (modDie n f s).hostPoison = s.hostPoison := rfl
@[simp] theorem modDie_hostUr (f : Die → Die) : (modDie n f s).hostUr = s.hostUr := rfl
@[simp] theorem modDie_old (f : Die → Die) : (modDie n f s).old = s.old := rfl
@[simp] theorem modDie_parts (f : Die → Die) : (modDie n f s).parts = s.parts := rfl
@[simp] theorem modDie_teams (f : Die → Die) : (modDie n f s).teams = s.teams := rfl
@[simp] theorem modDie_nextTeam (f : Die → Die) : (modDie n f s).nextTeam = s.nextTeam := rfl
@[simp] theorem modDie_launches (f : Die → Die) : (modDie n f s).launches = s.launches := rfl
@[simp] theorem modDie_nextLaunch (f : Die → Die) : (modDie n f s).nextLaunch = s.nextLaunch := rfl
@[simp] theorem modDie_queues (f : Die → Die) : (modDie n f s).queues = s.queues := rfl
@[simp] theorem modDie_sec (f : Die → Die) : (modDie n f s).sec = s.sec := rfl
@[simp] theorem modDie_inputs (f : Die → Die) : (modDie n f s).inputs = s.inputs := rfl
@[simp] theorem modDie_out (f : Die → Die) : (modDie n f s).out = s.out := rfl
@[simp] theorem modDie_freeCount (f : Die → Die) : (modDie n f s).freeCount = s.freeCount := rfl

/-! ## modLaunch -/

@[simp] theorem modLaunch_clock (f : Launch → Launch) : (modLaunch n f s).clock = s.clock := rfl
@[simp] theorem modLaunch_arg (f : Launch → Launch) : (modLaunch n f s).arg = s.arg := rfl
@[simp] theorem modLaunch_cur (f : Launch → Launch) : (modLaunch n f s).cur = s.cur := rfl
@[simp] theorem modLaunch_strm (f : Launch → Launch) : (modLaunch n f s).strm = s.strm := rfl
@[simp] theorem modLaunch_offTiles (f : Launch → Launch) : (modLaunch n f s).offTiles = s.offTiles := rfl
@[simp] theorem modLaunch_prgAlloc (f : Launch → Launch) : (modLaunch n f s).prgAlloc = s.prgAlloc := rfl
@[simp] theorem modLaunch_ready (f : Launch → Launch) : (modLaunch n f s).ready = s.ready := rfl
@[simp] theorem modLaunch_offQuads (f : Launch → Launch) : (modLaunch n f s).offQuads = s.offQuads := rfl
@[simp] theorem modLaunch_threads (f : Launch → Launch) : (modLaunch n f s).threads = s.threads := rfl
@[simp] theorem modLaunch_tiles (f : Launch → Launch) : (modLaunch n f s).tiles = s.tiles := rfl
@[simp] theorem modLaunch_quads (f : Launch → Launch) : (modLaunch n f s).quads = s.quads := rfl
@[simp] theorem modLaunch_sensors (f : Launch → Launch) : (modLaunch n f s).sensors = s.sensors := rfl
@[simp] theorem modLaunch_dies (f : Launch → Launch) : (modLaunch n f s).dies = s.dies := rfl
@[simp] theorem modLaunch_refusedVf (f : Launch → Launch) : (modLaunch n f s).refusedVf = s.refusedVf := rfl
@[simp] theorem modLaunch_packets (f : Launch → Launch) : (modLaunch n f s).packets = s.packets := rfl
@[simp] theorem modLaunch_hub (f : Launch → Launch) : (modLaunch n f s).hub = s.hub := rfl
@[simp] theorem modLaunch_hbm (f : Launch → Launch) : (modLaunch n f s).hbm = s.hbm := rfl
@[simp] theorem modLaunch_host (f : Launch → Launch) : (modLaunch n f s).host = s.host := rfl
@[simp] theorem modLaunch_hostPoison (f : Launch → Launch) : (modLaunch n f s).hostPoison = s.hostPoison := rfl
@[simp] theorem modLaunch_hostUr (f : Launch → Launch) : (modLaunch n f s).hostUr = s.hostUr := rfl
@[simp] theorem modLaunch_old (f : Launch → Launch) : (modLaunch n f s).old = s.old := rfl
@[simp] theorem modLaunch_parts (f : Launch → Launch) : (modLaunch n f s).parts = s.parts := rfl
@[simp] theorem modLaunch_teams (f : Launch → Launch) : (modLaunch n f s).teams = s.teams := rfl
@[simp] theorem modLaunch_nextTeam (f : Launch → Launch) : (modLaunch n f s).nextTeam = s.nextTeam := rfl
@[simp] theorem modLaunch_nextLaunch (f : Launch → Launch) : (modLaunch n f s).nextLaunch = s.nextLaunch := rfl
@[simp] theorem modLaunch_queues (f : Launch → Launch) : (modLaunch n f s).queues = s.queues := rfl
@[simp] theorem modLaunch_sec (f : Launch → Launch) : (modLaunch n f s).sec = s.sec := rfl
@[simp] theorem modLaunch_inputs (f : Launch → Launch) : (modLaunch n f s).inputs = s.inputs := rfl
@[simp] theorem modLaunch_out (f : Launch → Launch) : (modLaunch n f s).out = s.out := rfl
@[simp] theorem modLaunch_freeCount (f : Launch → Launch) : (modLaunch n f s).freeCount = s.freeCount := rfl

/-! ## modTeam -/

@[simp] theorem modTeam_clock (f : Team → Team) : (modTeam n f s).clock = s.clock := rfl
@[simp] theorem modTeam_arg (f : Team → Team) : (modTeam n f s).arg = s.arg := rfl
@[simp] theorem modTeam_cur (f : Team → Team) : (modTeam n f s).cur = s.cur := rfl
@[simp] theorem modTeam_strm (f : Team → Team) : (modTeam n f s).strm = s.strm := rfl
@[simp] theorem modTeam_offTiles (f : Team → Team) : (modTeam n f s).offTiles = s.offTiles := rfl
@[simp] theorem modTeam_prgAlloc (f : Team → Team) : (modTeam n f s).prgAlloc = s.prgAlloc := rfl
@[simp] theorem modTeam_ready (f : Team → Team) : (modTeam n f s).ready = s.ready := rfl
@[simp] theorem modTeam_offQuads (f : Team → Team) : (modTeam n f s).offQuads = s.offQuads := rfl
@[simp] theorem modTeam_threads (f : Team → Team) : (modTeam n f s).threads = s.threads := rfl
@[simp] theorem modTeam_tiles (f : Team → Team) : (modTeam n f s).tiles = s.tiles := rfl
@[simp] theorem modTeam_quads (f : Team → Team) : (modTeam n f s).quads = s.quads := rfl
@[simp] theorem modTeam_sensors (f : Team → Team) : (modTeam n f s).sensors = s.sensors := rfl
@[simp] theorem modTeam_dies (f : Team → Team) : (modTeam n f s).dies = s.dies := rfl
@[simp] theorem modTeam_refusedVf (f : Team → Team) : (modTeam n f s).refusedVf = s.refusedVf := rfl
@[simp] theorem modTeam_packets (f : Team → Team) : (modTeam n f s).packets = s.packets := rfl
@[simp] theorem modTeam_hub (f : Team → Team) : (modTeam n f s).hub = s.hub := rfl
@[simp] theorem modTeam_hbm (f : Team → Team) : (modTeam n f s).hbm = s.hbm := rfl
@[simp] theorem modTeam_host (f : Team → Team) : (modTeam n f s).host = s.host := rfl
@[simp] theorem modTeam_hostPoison (f : Team → Team) : (modTeam n f s).hostPoison = s.hostPoison := rfl
@[simp] theorem modTeam_hostUr (f : Team → Team) : (modTeam n f s).hostUr = s.hostUr := rfl
@[simp] theorem modTeam_old (f : Team → Team) : (modTeam n f s).old = s.old := rfl
@[simp] theorem modTeam_parts (f : Team → Team) : (modTeam n f s).parts = s.parts := rfl
@[simp] theorem modTeam_nextTeam (f : Team → Team) : (modTeam n f s).nextTeam = s.nextTeam := rfl
@[simp] theorem modTeam_launches (f : Team → Team) : (modTeam n f s).launches = s.launches := rfl
@[simp] theorem modTeam_nextLaunch (f : Team → Team) : (modTeam n f s).nextLaunch = s.nextLaunch := rfl
@[simp] theorem modTeam_queues (f : Team → Team) : (modTeam n f s).queues = s.queues := rfl
@[simp] theorem modTeam_sec (f : Team → Team) : (modTeam n f s).sec = s.sec := rfl
@[simp] theorem modTeam_inputs (f : Team → Team) : (modTeam n f s).inputs = s.inputs := rfl
@[simp] theorem modTeam_out (f : Team → Team) : (modTeam n f s).out = s.out := rfl
@[simp] theorem modTeam_freeCount (f : Team → Team) : (modTeam n f s).freeCount = s.freeCount := rfl

/-! ## setHead -/

@[simp] theorem setHead_clock (h : Head) : (setHead n a h s).clock = s.clock := rfl
@[simp] theorem setHead_arg (h : Head) : (setHead n a h s).arg = s.arg := rfl
@[simp] theorem setHead_cur (h : Head) : (setHead n a h s).cur = s.cur := rfl
@[simp] theorem setHead_strm (h : Head) : (setHead n a h s).strm = s.strm := rfl
@[simp] theorem setHead_offTiles (h : Head) : (setHead n a h s).offTiles = s.offTiles := rfl
@[simp] theorem setHead_prgAlloc (h : Head) : (setHead n a h s).prgAlloc = s.prgAlloc := rfl
@[simp] theorem setHead_ready (h : Head) : (setHead n a h s).ready = s.ready := rfl
@[simp] theorem setHead_offQuads (h : Head) : (setHead n a h s).offQuads = s.offQuads := rfl
@[simp] theorem setHead_tiles (h : Head) : (setHead n a h s).tiles = s.tiles := rfl
@[simp] theorem setHead_quads (h : Head) : (setHead n a h s).quads = s.quads := rfl
@[simp] theorem setHead_sensors (h : Head) : (setHead n a h s).sensors = s.sensors := rfl
@[simp] theorem setHead_dies (h : Head) : (setHead n a h s).dies = s.dies := rfl
@[simp] theorem setHead_refusedVf (h : Head) : (setHead n a h s).refusedVf = s.refusedVf := rfl
@[simp] theorem setHead_packets (h : Head) : (setHead n a h s).packets = s.packets := rfl
@[simp] theorem setHead_hub (h : Head) : (setHead n a h s).hub = s.hub := rfl
@[simp] theorem setHead_hbm (h : Head) : (setHead n a h s).hbm = s.hbm := rfl
@[simp] theorem setHead_host (h : Head) : (setHead n a h s).host = s.host := rfl
@[simp] theorem setHead_hostPoison (h : Head) : (setHead n a h s).hostPoison = s.hostPoison := rfl
@[simp] theorem setHead_hostUr (h : Head) : (setHead n a h s).hostUr = s.hostUr := rfl
@[simp] theorem setHead_old (h : Head) : (setHead n a h s).old = s.old := rfl
@[simp] theorem setHead_parts (h : Head) : (setHead n a h s).parts = s.parts := rfl
@[simp] theorem setHead_teams (h : Head) : (setHead n a h s).teams = s.teams := rfl
@[simp] theorem setHead_nextTeam (h : Head) : (setHead n a h s).nextTeam = s.nextTeam := rfl
@[simp] theorem setHead_launches (h : Head) : (setHead n a h s).launches = s.launches := rfl
@[simp] theorem setHead_nextLaunch (h : Head) : (setHead n a h s).nextLaunch = s.nextLaunch := rfl
@[simp] theorem setHead_queues (h : Head) : (setHead n a h s).queues = s.queues := rfl
@[simp] theorem setHead_sec (h : Head) : (setHead n a h s).sec = s.sec := rfl
@[simp] theorem setHead_inputs (h : Head) : (setHead n a h s).inputs = s.inputs := rfl
@[simp] theorem setHead_out (h : Head) : (setHead n a h s).out = s.out := rfl
@[simp] theorem setHead_freeCount (h : Head) : (setHead n a h s).freeCount = s.freeCount := rfl

/-! ## issued -/

@[simp] theorem issued_clock  : (issued n a s).clock = s.clock := rfl
@[simp] theorem issued_arg  : (issued n a s).arg = s.arg := rfl
@[simp] theorem issued_cur  : (issued n a s).cur = s.cur := rfl
@[simp] theorem issued_strm  : (issued n a s).strm = s.strm := rfl
@[simp] theorem issued_offTiles  : (issued n a s).offTiles = s.offTiles := rfl
@[simp] theorem issued_prgAlloc  : (issued n a s).prgAlloc = s.prgAlloc := rfl
@[simp] theorem issued_ready  : (issued n a s).ready = s.ready := rfl
@[simp] theorem issued_offQuads  : (issued n a s).offQuads = s.offQuads := rfl
@[simp] theorem issued_tiles  : (issued n a s).tiles = s.tiles := rfl
@[simp] theorem issued_quads  : (issued n a s).quads = s.quads := rfl
@[simp] theorem issued_sensors  : (issued n a s).sensors = s.sensors := rfl
@[simp] theorem issued_dies  : (issued n a s).dies = s.dies := rfl
@[simp] theorem issued_refusedVf  : (issued n a s).refusedVf = s.refusedVf := rfl
@[simp] theorem issued_packets  : (issued n a s).packets = s.packets := rfl
@[simp] theorem issued_hub  : (issued n a s).hub = s.hub := rfl
@[simp] theorem issued_hbm  : (issued n a s).hbm = s.hbm := rfl
@[simp] theorem issued_host  : (issued n a s).host = s.host := rfl
@[simp] theorem issued_hostPoison  : (issued n a s).hostPoison = s.hostPoison := rfl
@[simp] theorem issued_hostUr  : (issued n a s).hostUr = s.hostUr := rfl
@[simp] theorem issued_old  : (issued n a s).old = s.old := rfl
@[simp] theorem issued_parts  : (issued n a s).parts = s.parts := rfl
@[simp] theorem issued_teams  : (issued n a s).teams = s.teams := rfl
@[simp] theorem issued_nextTeam  : (issued n a s).nextTeam = s.nextTeam := rfl
@[simp] theorem issued_launches  : (issued n a s).launches = s.launches := rfl
@[simp] theorem issued_nextLaunch  : (issued n a s).nextLaunch = s.nextLaunch := rfl
@[simp] theorem issued_queues  : (issued n a s).queues = s.queues := rfl
@[simp] theorem issued_sec  : (issued n a s).sec = s.sec := rfl
@[simp] theorem issued_inputs  : (issued n a s).inputs = s.inputs := rfl
@[simp] theorem issued_out  : (issued n a s).out = s.out := rfl
@[simp] theorem issued_freeCount  : (issued n a s).freeCount = s.freeCount := rfl

/-! ## emit -/

@[simp] theorem emit_clock (m : Msg) : (emit m s).clock = s.clock := rfl
@[simp] theorem emit_arg (m : Msg) : (emit m s).arg = s.arg := rfl
@[simp] theorem emit_cur (m : Msg) : (emit m s).cur = s.cur := rfl
@[simp] theorem emit_strm (m : Msg) : (emit m s).strm = s.strm := rfl
@[simp] theorem emit_offTiles (m : Msg) : (emit m s).offTiles = s.offTiles := rfl
@[simp] theorem emit_prgAlloc (m : Msg) : (emit m s).prgAlloc = s.prgAlloc := rfl
@[simp] theorem emit_ready (m : Msg) : (emit m s).ready = s.ready := rfl
@[simp] theorem emit_offQuads (m : Msg) : (emit m s).offQuads = s.offQuads := rfl
@[simp] theorem emit_threads (m : Msg) : (emit m s).threads = s.threads := rfl
@[simp] theorem emit_tiles (m : Msg) : (emit m s).tiles = s.tiles := rfl
@[simp] theorem emit_quads (m : Msg) : (emit m s).quads = s.quads := rfl
@[simp] theorem emit_sensors (m : Msg) : (emit m s).sensors = s.sensors := rfl
@[simp] theorem emit_dies (m : Msg) : (emit m s).dies = s.dies := rfl
@[simp] theorem emit_refusedVf (m : Msg) : (emit m s).refusedVf = s.refusedVf := rfl
@[simp] theorem emit_packets (m : Msg) : (emit m s).packets = s.packets := rfl
@[simp] theorem emit_hub (m : Msg) : (emit m s).hub = hubSends m s := rfl
@[simp] theorem emit_hbm (m : Msg) : (emit m s).hbm = s.hbm := rfl
@[simp] theorem emit_host (m : Msg) : (emit m s).host = s.host := rfl
@[simp] theorem emit_hostPoison (m : Msg) : (emit m s).hostPoison = s.hostPoison := rfl
@[simp] theorem emit_hostUr (m : Msg) : (emit m s).hostUr = s.hostUr := rfl
@[simp] theorem emit_old (m : Msg) : (emit m s).old = s.old := rfl
@[simp] theorem emit_parts (m : Msg) : (emit m s).parts = s.parts := rfl
@[simp] theorem emit_teams (m : Msg) : (emit m s).teams = s.teams := rfl
@[simp] theorem emit_nextTeam (m : Msg) : (emit m s).nextTeam = s.nextTeam := rfl
@[simp] theorem emit_launches (m : Msg) : (emit m s).launches = s.launches := rfl
@[simp] theorem emit_nextLaunch (m : Msg) : (emit m s).nextLaunch = s.nextLaunch := rfl
@[simp] theorem emit_queues (m : Msg) : (emit m s).queues = s.queues := rfl
@[simp] theorem emit_sec (m : Msg) : (emit m s).sec = s.sec := rfl
@[simp] theorem emit_inputs (m : Msg) : (emit m s).inputs = s.inputs := rfl
@[simp] theorem emit_freeCount (m : Msg) : (emit m s).freeCount = s.freeCount := rfl

/-- A message that does not leave on the fabric leaves at once. -/
@[simp] theorem leaving_host {m : Msg} (h : fabricTo m = none) : leaving m s = [m] := by simp [leaving, h]

/-- A message that does not leave on the fabric leaves the hub as it is. -/
@[simp] theorem hubSends_host {m : Msg} (h : fabricTo m = none) : hubSends m s = s.hub := by simp [hubSends, h]

/-! ## focus -/

@[simp] theorem focus_clock  : (focus n a s).clock = s.clock := rfl
@[simp] theorem focus_arg  : (focus n a s).arg = s.arg := rfl
@[simp] theorem focus_offTiles  : (focus n a s).offTiles = s.offTiles := rfl
@[simp] theorem focus_prgAlloc  : (focus n a s).prgAlloc = s.prgAlloc := rfl
@[simp] theorem focus_ready  : (focus n a s).ready = s.ready := rfl
@[simp] theorem focus_offQuads  : (focus n a s).offQuads = s.offQuads := rfl
@[simp] theorem focus_threads  : (focus n a s).threads = s.threads := rfl
@[simp] theorem focus_tiles  : (focus n a s).tiles = s.tiles := rfl
@[simp] theorem focus_quads  : (focus n a s).quads = s.quads := rfl
@[simp] theorem focus_sensors  : (focus n a s).sensors = s.sensors := rfl
@[simp] theorem focus_dies  : (focus n a s).dies = s.dies := rfl
@[simp] theorem focus_refusedVf  : (focus n a s).refusedVf = s.refusedVf := rfl
@[simp] theorem focus_packets  : (focus n a s).packets = s.packets := rfl
@[simp] theorem focus_hub  : (focus n a s).hub = s.hub := rfl
@[simp] theorem focus_hbm  : (focus n a s).hbm = s.hbm := rfl
@[simp] theorem focus_host  : (focus n a s).host = s.host := rfl
@[simp] theorem focus_hostPoison  : (focus n a s).hostPoison = s.hostPoison := rfl
@[simp] theorem focus_hostUr  : (focus n a s).hostUr = s.hostUr := rfl
@[simp] theorem focus_old  : (focus n a s).old = s.old := rfl
@[simp] theorem focus_parts  : (focus n a s).parts = s.parts := rfl
@[simp] theorem focus_teams  : (focus n a s).teams = s.teams := rfl
@[simp] theorem focus_nextTeam  : (focus n a s).nextTeam = s.nextTeam := rfl
@[simp] theorem focus_launches  : (focus n a s).launches = s.launches := rfl
@[simp] theorem focus_nextLaunch  : (focus n a s).nextLaunch = s.nextLaunch := rfl
@[simp] theorem focus_queues  : (focus n a s).queues = s.queues := rfl
@[simp] theorem focus_sec  : (focus n a s).sec = s.sec := rfl
@[simp] theorem focus_inputs  : (focus n a s).inputs = s.inputs := rfl
@[simp] theorem focus_out  : (focus n a s).out = s.out := rfl
@[simp] theorem focus_freeCount  : (focus n a s).freeCount = s.freeCount := rfl

/-! ## withArg -/

@[simp] theorem withArg_clock  : (withArg a b c s).clock = s.clock := rfl
@[simp] theorem withArg_cur  : (withArg a b c s).cur = s.cur := rfl
@[simp] theorem withArg_strm  : (withArg a b c s).strm = s.strm := rfl
@[simp] theorem withArg_offTiles  : (withArg a b c s).offTiles = s.offTiles := rfl
@[simp] theorem withArg_prgAlloc  : (withArg a b c s).prgAlloc = s.prgAlloc := rfl
@[simp] theorem withArg_ready  : (withArg a b c s).ready = s.ready := rfl
@[simp] theorem withArg_offQuads  : (withArg a b c s).offQuads = s.offQuads := rfl
@[simp] theorem withArg_threads  : (withArg a b c s).threads = s.threads := rfl
@[simp] theorem withArg_tiles  : (withArg a b c s).tiles = s.tiles := rfl
@[simp] theorem withArg_quads  : (withArg a b c s).quads = s.quads := rfl
@[simp] theorem withArg_sensors  : (withArg a b c s).sensors = s.sensors := rfl
@[simp] theorem withArg_dies  : (withArg a b c s).dies = s.dies := rfl
@[simp] theorem withArg_refusedVf  : (withArg a b c s).refusedVf = s.refusedVf := rfl
@[simp] theorem withArg_packets  : (withArg a b c s).packets = s.packets := rfl
@[simp] theorem withArg_hub  : (withArg a b c s).hub = s.hub := rfl
@[simp] theorem withArg_hbm  : (withArg a b c s).hbm = s.hbm := rfl
@[simp] theorem withArg_host  : (withArg a b c s).host = s.host := rfl
@[simp] theorem withArg_hostPoison  : (withArg a b c s).hostPoison = s.hostPoison := rfl
@[simp] theorem withArg_hostUr  : (withArg a b c s).hostUr = s.hostUr := rfl
@[simp] theorem withArg_old  : (withArg a b c s).old = s.old := rfl
@[simp] theorem withArg_parts  : (withArg a b c s).parts = s.parts := rfl
@[simp] theorem withArg_teams  : (withArg a b c s).teams = s.teams := rfl
@[simp] theorem withArg_nextTeam  : (withArg a b c s).nextTeam = s.nextTeam := rfl
@[simp] theorem withArg_launches  : (withArg a b c s).launches = s.launches := rfl
@[simp] theorem withArg_nextLaunch  : (withArg a b c s).nextLaunch = s.nextLaunch := rfl
@[simp] theorem withArg_queues  : (withArg a b c s).queues = s.queues := rfl
@[simp] theorem withArg_sec  : (withArg a b c s).sec = s.sec := rfl
@[simp] theorem withArg_inputs  : (withArg a b c s).inputs = s.inputs := rfl
@[simp] theorem withArg_out  : (withArg a b c s).out = s.out := rfl
@[simp] theorem withArg_freeCount  : (withArg a b c s).freeCount = s.freeCount := rfl

/-! ## setPhase -/

@[simp] theorem setPhase_arg (ph : Phase) : (setPhase ph s).arg = s.arg := rfl
@[simp] theorem setPhase_cur (ph : Phase) : (setPhase ph s).cur = s.cur := rfl
@[simp] theorem setPhase_strm (ph : Phase) : (setPhase ph s).strm = s.strm := rfl
@[simp] theorem setPhase_offTiles (ph : Phase) : (setPhase ph s).offTiles = s.offTiles := rfl
@[simp] theorem setPhase_prgAlloc (ph : Phase) : (setPhase ph s).prgAlloc = s.prgAlloc := rfl
@[simp] theorem setPhase_ready (ph : Phase) : (setPhase ph s).ready = s.ready := rfl
@[simp] theorem setPhase_offQuads (ph : Phase) : (setPhase ph s).offQuads = s.offQuads := rfl
@[simp] theorem setPhase_threads (ph : Phase) : (setPhase ph s).threads = s.threads := rfl
@[simp] theorem setPhase_tiles (ph : Phase) : (setPhase ph s).tiles = s.tiles := rfl
@[simp] theorem setPhase_quads (ph : Phase) : (setPhase ph s).quads = s.quads := rfl
@[simp] theorem setPhase_sensors (ph : Phase) : (setPhase ph s).sensors = s.sensors := rfl
@[simp] theorem setPhase_dies (ph : Phase) : (setPhase ph s).dies = s.dies := rfl
@[simp] theorem setPhase_refusedVf (ph : Phase) : (setPhase ph s).refusedVf = s.refusedVf := rfl
@[simp] theorem setPhase_packets (ph : Phase) : (setPhase ph s).packets = s.packets := rfl
@[simp] theorem setPhase_hub (ph : Phase) : (setPhase ph s).hub = s.hub := rfl
@[simp] theorem setPhase_hbm (ph : Phase) : (setPhase ph s).hbm = s.hbm := rfl
@[simp] theorem setPhase_host (ph : Phase) : (setPhase ph s).host = s.host := rfl
@[simp] theorem setPhase_hostPoison (ph : Phase) : (setPhase ph s).hostPoison = s.hostPoison := rfl
@[simp] theorem setPhase_hostUr (ph : Phase) : (setPhase ph s).hostUr = s.hostUr := rfl
@[simp] theorem setPhase_old (ph : Phase) : (setPhase ph s).old = s.old := rfl
@[simp] theorem setPhase_parts (ph : Phase) : (setPhase ph s).parts = s.parts := rfl
@[simp] theorem setPhase_teams (ph : Phase) : (setPhase ph s).teams = s.teams := rfl
@[simp] theorem setPhase_nextTeam (ph : Phase) : (setPhase ph s).nextTeam = s.nextTeam := rfl
@[simp] theorem setPhase_launches (ph : Phase) : (setPhase ph s).launches = s.launches := rfl
@[simp] theorem setPhase_nextLaunch (ph : Phase) : (setPhase ph s).nextLaunch = s.nextLaunch := rfl
@[simp] theorem setPhase_queues (ph : Phase) : (setPhase ph s).queues = s.queues := rfl
@[simp] theorem setPhase_sec (ph : Phase) : (setPhase ph s).sec = s.sec := rfl
@[simp] theorem setPhase_inputs (ph : Phase) : (setPhase ph s).inputs = s.inputs := rfl
@[simp] theorem setPhase_out (ph : Phase) : (setPhase ph s).out = s.out := rfl
@[simp] theorem setPhase_freeCount (ph : Phase) : (setPhase ph s).freeCount = s.freeCount := rfl

@[simp] theorem focus_cur : (focus n a s).cur = n := rfl
@[simp] theorem focus_strm : (focus n a s).strm = a := rfl
@[simp] theorem emit_out (m : Msg) : (emit m s).out = s.out ++ leaving m s := rfl
@[simp] theorem setPhase_now (ph : Phase) : (setPhase ph s).clock.now = s.clock.now := rfl
@[simp] theorem setPhase_halfNs (ph : Phase) : (setPhase ph s).clock.halfNs = s.clock.halfNs := rfl
@[simp] theorem setPhase_phase (ph : Phase) : (setPhase ph s).clock.phase = ph := rfl

/-! ## Thread records -/

variable (t : Thread) (k x y : Nat) (w : Word) (r : Row) (l : Lane) (st : TokSt) (e : EngStream → EngStream)

@[simp] theorem setG_id : (setG k w t).id = t.id := by unfold setG; split <;> rfl
@[simp] theorem setG_sr : (setG k w t).sr = t.sr := by unfold setG; split <;> rfl
@[simp] theorem setG_e : (setG k w t).e = t.e := by unfold setG; split <;> rfl
@[simp] theorem setG_eng : (setG k w t).eng = t.eng := by unfold setG; split <;> rfl
@[simp] theorem setG_cwords : (setG k w t).cwords = t.cwords := by unfold setG; split <;> rfl
@[simp] theorem setG_fifo : (setG k w t).fifo = t.fifo := by unfold setG; split <;> rfl
@[simp] theorem setG_rsv : (setG k w t).rsv = t.rsv := by unfold setG; split <;> rfl
@[simp] theorem setG_pops : (setG k w t).pops = t.pops := by unfold setG; split <;> rfl
@[simp] theorem setG_fly : (setG k w t).fly = t.fly := by unfold setG; split <;> rfl
@[simp] theorem setG_tags : (setG k w t).tags = t.tags := by unfold setG; split <;> rfl
@[simp] theorem setG_win : (setG k w t).win = t.win := by unfold setG; split <;> rfl
@[simp] theorem setG_shadow : (setG k w t).shadow = t.shadow := by unfold setG; split <;> rfl
@[simp] theorem setG_nest : (setG k w t).nest = t.nest := by unfold setG; split <;> rfl
@[simp] theorem setG_steps : (setG k w t).steps = t.steps := by unfold setG; split <;> rfl
@[simp] theorem setG_emitRows : (setG k w t).emitRows = t.emitRows := by unfold setG; split <;> rfl
@[simp] theorem setG_emitCols : (setG k w t).emitCols = t.emitCols := by unfold setG; split <;> rfl
@[simp] theorem setG_copies : (setG k w t).copies = t.copies := by unfold setG; split <;> rfl
@[simp] theorem setG_rx : (setG k w t).rx = t.rx := by unfold setG; split <;> rfl
@[simp] theorem setG_rxFreed : (setG k w t).rxFreed = t.rxFreed := by unfold setG; split <;> rfl
@[simp] theorem setG_mq : (setG k w t).mq = t.mq := by unfold setG; split <;> rfl
@[simp] theorem setG_far : (setG k w t).far = t.far := by unfold setG; split <;> rfl
@[simp] theorem setG_frz : (setG k w t).frz = t.frz := by unfold setG; split <;> rfl
@[simp] theorem setG_held : (setG k w t).held = t.held := by unfold setG; split <;> rfl
@[simp] theorem setG_arrivals : (setG k w t).arrivals = t.arrivals := by unfold setG; split <;> rfl
@[simp] theorem setG_dying : (setG k w t).dying = t.dying := by unfold setG; split <;> rfl
@[simp] theorem setG_stallNs : (setG k w t).stallNs = t.stallNs := by unfold setG; split <;> rfl
@[simp] theorem setG_heads : (setG k w t).heads = t.heads := by unfold setG; split <;> rfl
@[simp] theorem setG_yieldTo : (setG k w t).yieldTo = t.yieldTo := by unfold setG; split <;> rfl
@[simp] theorem setG_gReady : (setG k w t).gReady = t.gReady := by unfold setG; split <;> rfl
@[simp] theorem setG_replied : (setG k w t).replied = t.replied := by unfold setG; split <;> rfl
@[simp] theorem setG_vAt : (setG k w t).vAt = t.vAt := by unfold setG; split <;> rfl
@[simp] theorem setG_startAt : (setG k w t).startAt = t.startAt := by unfold setG; split <;> rfl
@[simp] theorem setG_cn : (setG k w t).cn = t.cn := by unfold setG; split <;> rfl
@[simp] theorem setG_tReady : (setG k w t).tReady = t.tReady := by unfold setG; split <;> rfl
@[simp] theorem setG_cprog : (setG k w t).cprog = t.cprog := by unfold setG; split <;> rfl
@[simp] theorem setG_noMatch : (setG k w t).noMatch = t.noMatch := by unfold setG; split <;> rfl
@[simp] theorem setG_replay : (setG k w t).replay = t.replay := by unfold setG; split <;> rfl
@[simp] theorem setG_kn : (setG k w t).kn = t.kn := by unfold setG; split <;> rfl
@[simp] theorem setG_tillerOf : (setG k w t).tillerOf = t.tillerOf := by unfold setG; split <;> rfl
@[simp] theorem setG_capValid : (setG k w t).capValid = t.capValid := by unfold setG; split <;> rfl
@[simp] theorem setG_pEng : (setG k w t).pEng = t.pEng := by unfold setG; split <;> rfl

@[simp] theorem setP_id : (setP k w t).id = t.id := by unfold setP; split <;> rfl
@[simp] theorem setP_sr : (setP k w t).sr = t.sr := by unfold setP; split <;> rfl
@[simp] theorem setP_e : (setP k w t).e = t.e := by unfold setP; split <;> rfl
@[simp] theorem setP_eng : (setP k w t).eng = t.eng := by unfold setP; split <;> rfl
@[simp] theorem setP_cwords : (setP k w t).cwords = t.cwords := by unfold setP; split <;> rfl
@[simp] theorem setP_fifo : (setP k w t).fifo = t.fifo := by unfold setP; split <;> rfl
@[simp] theorem setP_rsv : (setP k w t).rsv = t.rsv := by unfold setP; split <;> rfl
@[simp] theorem setP_pops : (setP k w t).pops = t.pops := by unfold setP; split <;> rfl
@[simp] theorem setP_fly : (setP k w t).fly = t.fly := by unfold setP; split <;> rfl
@[simp] theorem setP_tags : (setP k w t).tags = t.tags := by unfold setP; split <;> rfl
@[simp] theorem setP_win : (setP k w t).win = t.win := by unfold setP; split <;> rfl
@[simp] theorem setP_shadow : (setP k w t).shadow = t.shadow := by unfold setP; split <;> rfl
@[simp] theorem setP_nest : (setP k w t).nest = t.nest := by unfold setP; split <;> rfl
@[simp] theorem setP_steps : (setP k w t).steps = t.steps := by unfold setP; split <;> rfl
@[simp] theorem setP_emitRows : (setP k w t).emitRows = t.emitRows := by unfold setP; split <;> rfl
@[simp] theorem setP_emitCols : (setP k w t).emitCols = t.emitCols := by unfold setP; split <;> rfl
@[simp] theorem setP_copies : (setP k w t).copies = t.copies := by unfold setP; split <;> rfl
@[simp] theorem setP_rx : (setP k w t).rx = t.rx := by unfold setP; split <;> rfl
@[simp] theorem setP_rxFreed : (setP k w t).rxFreed = t.rxFreed := by unfold setP; split <;> rfl
@[simp] theorem setP_mq : (setP k w t).mq = t.mq := by unfold setP; split <;> rfl
@[simp] theorem setP_far : (setP k w t).far = t.far := by unfold setP; split <;> rfl
@[simp] theorem setP_frz : (setP k w t).frz = t.frz := by unfold setP; split <;> rfl
@[simp] theorem setP_held : (setP k w t).held = t.held := by unfold setP; split <;> rfl
@[simp] theorem setP_arrivals : (setP k w t).arrivals = t.arrivals := by unfold setP; split <;> rfl
@[simp] theorem setP_dying : (setP k w t).dying = t.dying := by unfold setP; split <;> rfl
@[simp] theorem setP_stallNs : (setP k w t).stallNs = t.stallNs := by unfold setP; split <;> rfl
@[simp] theorem setP_heads : (setP k w t).heads = t.heads := by unfold setP; split <;> rfl
@[simp] theorem setP_yieldTo : (setP k w t).yieldTo = t.yieldTo := by unfold setP; split <;> rfl
@[simp] theorem setP_gReady : (setP k w t).gReady = t.gReady := by unfold setP; split <;> rfl
@[simp] theorem setP_replied : (setP k w t).replied = t.replied := by unfold setP; split <;> rfl
@[simp] theorem setP_vAt : (setP k w t).vAt = t.vAt := by unfold setP; split <;> rfl
@[simp] theorem setP_startAt : (setP k w t).startAt = t.startAt := by unfold setP; split <;> rfl
@[simp] theorem setP_cn : (setP k w t).cn = t.cn := by unfold setP; split <;> rfl
@[simp] theorem setP_tReady : (setP k w t).tReady = t.tReady := by unfold setP; split <;> rfl
@[simp] theorem setP_cprog : (setP k w t).cprog = t.cprog := by unfold setP; split <;> rfl
@[simp] theorem setP_noMatch : (setP k w t).noMatch = t.noMatch := by unfold setP; split <;> rfl
@[simp] theorem setP_replay : (setP k w t).replay = t.replay := by unfold setP; split <;> rfl
@[simp] theorem setP_kn : (setP k w t).kn = t.kn := by unfold setP; split <;> rfl
@[simp] theorem setP_tillerOf : (setP k w t).tillerOf = t.tillerOf := by unfold setP; split <;> rfl
@[simp] theorem setP_capValid : (setP k w t).capValid = t.capValid := by unfold setP; split <;> rfl
@[simp] theorem setP_pEng : (setP k w t).pEng = t.pEng := by unfold setP; split <;> rfl

@[simp] theorem setT_id : (setT k w t).id = t.id := rfl
@[simp] theorem setT_sr : (setT k w t).sr = t.sr := rfl
@[simp] theorem setT_e : (setT k w t).e = t.e := rfl
@[simp] theorem setT_eng : (setT k w t).eng = t.eng := rfl
@[simp] theorem setT_cwords : (setT k w t).cwords = t.cwords := rfl
@[simp] theorem setT_fifo : (setT k w t).fifo = t.fifo := rfl
@[simp] theorem setT_rsv : (setT k w t).rsv = t.rsv := rfl
@[simp] theorem setT_pops : (setT k w t).pops = t.pops := rfl
@[simp] theorem setT_fly : (setT k w t).fly = t.fly := rfl
@[simp] theorem setT_tags : (setT k w t).tags = t.tags := rfl
@[simp] theorem setT_win : (setT k w t).win = t.win := rfl
@[simp] theorem setT_shadow : (setT k w t).shadow = t.shadow := rfl
@[simp] theorem setT_nest : (setT k w t).nest = t.nest := rfl
@[simp] theorem setT_steps : (setT k w t).steps = t.steps := rfl
@[simp] theorem setT_emitRows : (setT k w t).emitRows = t.emitRows := rfl
@[simp] theorem setT_emitCols : (setT k w t).emitCols = t.emitCols := rfl
@[simp] theorem setT_copies : (setT k w t).copies = t.copies := rfl
@[simp] theorem setT_rx : (setT k w t).rx = t.rx := rfl
@[simp] theorem setT_rxFreed : (setT k w t).rxFreed = t.rxFreed := rfl
@[simp] theorem setT_mq : (setT k w t).mq = t.mq := rfl
@[simp] theorem setT_far : (setT k w t).far = t.far := rfl
@[simp] theorem setT_frz : (setT k w t).frz = t.frz := rfl
@[simp] theorem setT_held : (setT k w t).held = t.held := rfl
@[simp] theorem setT_arrivals : (setT k w t).arrivals = t.arrivals := rfl
@[simp] theorem setT_dying : (setT k w t).dying = t.dying := rfl
@[simp] theorem setT_stallNs : (setT k w t).stallNs = t.stallNs := rfl
@[simp] theorem setT_heads : (setT k w t).heads = t.heads := rfl
@[simp] theorem setT_yieldTo : (setT k w t).yieldTo = t.yieldTo := rfl
@[simp] theorem setT_gReady : (setT k w t).gReady = t.gReady := rfl
@[simp] theorem setT_replied : (setT k w t).replied = t.replied := rfl
@[simp] theorem setT_vAt : (setT k w t).vAt = t.vAt := rfl
@[simp] theorem setT_startAt : (setT k w t).startAt = t.startAt := rfl
@[simp] theorem setT_cn : (setT k w t).cn = t.cn := rfl
@[simp] theorem setT_tReady : (setT k w t).tReady = t.tReady := rfl
@[simp] theorem setT_cprog : (setT k w t).cprog = t.cprog := rfl
@[simp] theorem setT_noMatch : (setT k w t).noMatch = t.noMatch := rfl
@[simp] theorem setT_replay : (setT k w t).replay = t.replay := rfl
@[simp] theorem setT_kn : (setT k w t).kn = t.kn := rfl
@[simp] theorem setT_tillerOf : (setT k w t).tillerOf = t.tillerOf := rfl
@[simp] theorem setT_capValid : (setT k w t).capValid = t.capValid := rfl
@[simp] theorem setT_pEng : (setT k w t).pEng = t.pEng := rfl

@[simp] theorem setPc_id : (setPc w t).id = t.id := rfl
@[simp] theorem setPc_sr : (setPc w t).sr = t.sr := rfl
@[simp] theorem setPc_e : (setPc w t).e = t.e := rfl
@[simp] theorem setPc_eng : (setPc w t).eng = t.eng := rfl
@[simp] theorem setPc_cwords : (setPc w t).cwords = t.cwords := rfl
@[simp] theorem setPc_fifo : (setPc w t).fifo = t.fifo := rfl
@[simp] theorem setPc_rsv : (setPc w t).rsv = t.rsv := rfl
@[simp] theorem setPc_pops : (setPc w t).pops = t.pops := rfl
@[simp] theorem setPc_fly : (setPc w t).fly = t.fly := rfl
@[simp] theorem setPc_tags : (setPc w t).tags = t.tags := rfl
@[simp] theorem setPc_win : (setPc w t).win = t.win := rfl
@[simp] theorem setPc_shadow : (setPc w t).shadow = t.shadow := rfl
@[simp] theorem setPc_nest : (setPc w t).nest = t.nest := rfl
@[simp] theorem setPc_steps : (setPc w t).steps = t.steps := rfl
@[simp] theorem setPc_emitRows : (setPc w t).emitRows = t.emitRows := rfl
@[simp] theorem setPc_emitCols : (setPc w t).emitCols = t.emitCols := rfl
@[simp] theorem setPc_copies : (setPc w t).copies = t.copies := rfl
@[simp] theorem setPc_rx : (setPc w t).rx = t.rx := rfl
@[simp] theorem setPc_rxFreed : (setPc w t).rxFreed = t.rxFreed := rfl
@[simp] theorem setPc_mq : (setPc w t).mq = t.mq := rfl
@[simp] theorem setPc_far : (setPc w t).far = t.far := rfl
@[simp] theorem setPc_frz : (setPc w t).frz = t.frz := rfl
@[simp] theorem setPc_held : (setPc w t).held = t.held := rfl
@[simp] theorem setPc_arrivals : (setPc w t).arrivals = t.arrivals := rfl
@[simp] theorem setPc_dying : (setPc w t).dying = t.dying := rfl
@[simp] theorem setPc_stallNs : (setPc w t).stallNs = t.stallNs := rfl
@[simp] theorem setPc_heads : (setPc w t).heads = t.heads := rfl
@[simp] theorem setPc_yieldTo : (setPc w t).yieldTo = t.yieldTo := rfl
@[simp] theorem setPc_gReady : (setPc w t).gReady = t.gReady := rfl
@[simp] theorem setPc_replied : (setPc w t).replied = t.replied := rfl
@[simp] theorem setPc_vAt : (setPc w t).vAt = t.vAt := rfl
@[simp] theorem setPc_startAt : (setPc w t).startAt = t.startAt := rfl
@[simp] theorem setPc_cn : (setPc w t).cn = t.cn := rfl
@[simp] theorem setPc_tReady : (setPc w t).tReady = t.tReady := rfl
@[simp] theorem setPc_cprog : (setPc w t).cprog = t.cprog := rfl
@[simp] theorem setPc_noMatch : (setPc w t).noMatch = t.noMatch := rfl
@[simp] theorem setPc_replay : (setPc w t).replay = t.replay := rfl
@[simp] theorem setPc_kn : (setPc w t).kn = t.kn := rfl
@[simp] theorem setPc_tillerOf : (setPc w t).tillerOf = t.tillerOf := rfl
@[simp] theorem setPc_capValid : (setPc w t).capValid = t.capValid := rfl
@[simp] theorem setPc_pEng : (setPc w t).pEng = t.pEng := rfl

@[simp] theorem setV_id : (setV k r t).id = t.id := rfl
@[simp] theorem setV_sr : (setV k r t).sr = t.sr := rfl
@[simp] theorem setV_c : (setV k r t).c = t.c := rfl
@[simp] theorem setV_eng : (setV k r t).eng = t.eng := rfl
@[simp] theorem setV_cwords : (setV k r t).cwords = t.cwords := rfl
@[simp] theorem setV_fifo : (setV k r t).fifo = t.fifo := rfl
@[simp] theorem setV_rsv : (setV k r t).rsv = t.rsv := rfl
@[simp] theorem setV_pops : (setV k r t).pops = t.pops := rfl
@[simp] theorem setV_fly : (setV k r t).fly = t.fly := rfl
@[simp] theorem setV_tags : (setV k r t).tags = t.tags := rfl
@[simp] theorem setV_win : (setV k r t).win = t.win := rfl
@[simp] theorem setV_shadow : (setV k r t).shadow = t.shadow := rfl
@[simp] theorem setV_nest : (setV k r t).nest = t.nest := rfl
@[simp] theorem setV_steps : (setV k r t).steps = t.steps := rfl
@[simp] theorem setV_emitRows : (setV k r t).emitRows = t.emitRows := rfl
@[simp] theorem setV_emitCols : (setV k r t).emitCols = t.emitCols := rfl
@[simp] theorem setV_copies : (setV k r t).copies = t.copies := rfl
@[simp] theorem setV_rx : (setV k r t).rx = t.rx := rfl
@[simp] theorem setV_rxFreed : (setV k r t).rxFreed = t.rxFreed := rfl
@[simp] theorem setV_mq : (setV k r t).mq = t.mq := rfl
@[simp] theorem setV_far : (setV k r t).far = t.far := rfl
@[simp] theorem setV_frz : (setV k r t).frz = t.frz := rfl
@[simp] theorem setV_held : (setV k r t).held = t.held := rfl
@[simp] theorem setV_arrivals : (setV k r t).arrivals = t.arrivals := rfl
@[simp] theorem setV_dying : (setV k r t).dying = t.dying := rfl
@[simp] theorem setV_stallNs : (setV k r t).stallNs = t.stallNs := rfl
@[simp] theorem setV_heads : (setV k r t).heads = t.heads := rfl
@[simp] theorem setV_yieldTo : (setV k r t).yieldTo = t.yieldTo := rfl
@[simp] theorem setV_gReady : (setV k r t).gReady = t.gReady := rfl
@[simp] theorem setV_replied : (setV k r t).replied = t.replied := rfl
@[simp] theorem setV_vAt : (setV k r t).vAt = t.vAt := rfl
@[simp] theorem setV_startAt : (setV k r t).startAt = t.startAt := rfl
@[simp] theorem setV_cn : (setV k r t).cn = t.cn := rfl
@[simp] theorem setV_tReady : (setV k r t).tReady = t.tReady := rfl
@[simp] theorem setV_cprog : (setV k r t).cprog = t.cprog := rfl
@[simp] theorem setV_noMatch : (setV k r t).noMatch = t.noMatch := rfl
@[simp] theorem setV_replay : (setV k r t).replay = t.replay := rfl
@[simp] theorem setV_kn : (setV k r t).kn = t.kn := rfl
@[simp] theorem setV_tillerOf : (setV k r t).tillerOf = t.tillerOf := rfl
@[simp] theorem setV_capValid : (setV k r t).capValid = t.capValid := rfl
@[simp] theorem setV_pEng : (setV k r t).pEng = t.pEng := rfl

@[simp] theorem setB_id : (setB k r t).id = t.id := rfl
@[simp] theorem setB_sr : (setB k r t).sr = t.sr := rfl
@[simp] theorem setB_c : (setB k r t).c = t.c := rfl
@[simp] theorem setB_eng : (setB k r t).eng = t.eng := rfl
@[simp] theorem setB_cwords : (setB k r t).cwords = t.cwords := rfl
@[simp] theorem setB_fifo : (setB k r t).fifo = t.fifo := rfl
@[simp] theorem setB_rsv : (setB k r t).rsv = t.rsv := rfl
@[simp] theorem setB_pops : (setB k r t).pops = t.pops := rfl
@[simp] theorem setB_fly : (setB k r t).fly = t.fly := rfl
@[simp] theorem setB_tags : (setB k r t).tags = t.tags := rfl
@[simp] theorem setB_win : (setB k r t).win = t.win := rfl
@[simp] theorem setB_shadow : (setB k r t).shadow = t.shadow := rfl
@[simp] theorem setB_nest : (setB k r t).nest = t.nest := rfl
@[simp] theorem setB_steps : (setB k r t).steps = t.steps := rfl
@[simp] theorem setB_emitRows : (setB k r t).emitRows = t.emitRows := rfl
@[simp] theorem setB_emitCols : (setB k r t).emitCols = t.emitCols := rfl
@[simp] theorem setB_copies : (setB k r t).copies = t.copies := rfl
@[simp] theorem setB_rx : (setB k r t).rx = t.rx := rfl
@[simp] theorem setB_rxFreed : (setB k r t).rxFreed = t.rxFreed := rfl
@[simp] theorem setB_mq : (setB k r t).mq = t.mq := rfl
@[simp] theorem setB_far : (setB k r t).far = t.far := rfl
@[simp] theorem setB_frz : (setB k r t).frz = t.frz := rfl
@[simp] theorem setB_held : (setB k r t).held = t.held := rfl
@[simp] theorem setB_arrivals : (setB k r t).arrivals = t.arrivals := rfl
@[simp] theorem setB_dying : (setB k r t).dying = t.dying := rfl
@[simp] theorem setB_stallNs : (setB k r t).stallNs = t.stallNs := rfl
@[simp] theorem setB_heads : (setB k r t).heads = t.heads := rfl
@[simp] theorem setB_yieldTo : (setB k r t).yieldTo = t.yieldTo := rfl
@[simp] theorem setB_gReady : (setB k r t).gReady = t.gReady := rfl
@[simp] theorem setB_replied : (setB k r t).replied = t.replied := rfl
@[simp] theorem setB_vAt : (setB k r t).vAt = t.vAt := rfl
@[simp] theorem setB_startAt : (setB k r t).startAt = t.startAt := rfl
@[simp] theorem setB_cn : (setB k r t).cn = t.cn := rfl
@[simp] theorem setB_tReady : (setB k r t).tReady = t.tReady := rfl
@[simp] theorem setB_cprog : (setB k r t).cprog = t.cprog := rfl
@[simp] theorem setB_noMatch : (setB k r t).noMatch = t.noMatch := rfl
@[simp] theorem setB_replay : (setB k r t).replay = t.replay := rfl
@[simp] theorem setB_kn : (setB k r t).kn = t.kn := rfl
@[simp] theorem setB_tillerOf : (setB k r t).tillerOf = t.tillerOf := rfl
@[simp] theorem setB_capValid : (setB k r t).capValid = t.capValid := rfl
@[simp] theorem setB_pEng : (setB k r t).pEng = t.pEng := rfl

@[simp] theorem setAcc_id : (setAcc k x y l t).id = t.id := rfl
@[simp] theorem setAcc_sr : (setAcc k x y l t).sr = t.sr := rfl
@[simp] theorem setAcc_c : (setAcc k x y l t).c = t.c := rfl
@[simp] theorem setAcc_eng : (setAcc k x y l t).eng = t.eng := rfl
@[simp] theorem setAcc_cwords : (setAcc k x y l t).cwords = t.cwords := rfl
@[simp] theorem setAcc_fifo : (setAcc k x y l t).fifo = t.fifo := rfl
@[simp] theorem setAcc_rsv : (setAcc k x y l t).rsv = t.rsv := rfl
@[simp] theorem setAcc_pops : (setAcc k x y l t).pops = t.pops := rfl
@[simp] theorem setAcc_fly : (setAcc k x y l t).fly = t.fly := rfl
@[simp] theorem setAcc_tags : (setAcc k x y l t).tags = t.tags := rfl
@[simp] theorem setAcc_win : (setAcc k x y l t).win = t.win := rfl
@[simp] theorem setAcc_shadow : (setAcc k x y l t).shadow = t.shadow := rfl
@[simp] theorem setAcc_nest : (setAcc k x y l t).nest = t.nest := rfl
@[simp] theorem setAcc_steps : (setAcc k x y l t).steps = t.steps := rfl
@[simp] theorem setAcc_emitRows : (setAcc k x y l t).emitRows = t.emitRows := rfl
@[simp] theorem setAcc_emitCols : (setAcc k x y l t).emitCols = t.emitCols := rfl
@[simp] theorem setAcc_copies : (setAcc k x y l t).copies = t.copies := rfl
@[simp] theorem setAcc_rx : (setAcc k x y l t).rx = t.rx := rfl
@[simp] theorem setAcc_rxFreed : (setAcc k x y l t).rxFreed = t.rxFreed := rfl
@[simp] theorem setAcc_mq : (setAcc k x y l t).mq = t.mq := rfl
@[simp] theorem setAcc_far : (setAcc k x y l t).far = t.far := rfl
@[simp] theorem setAcc_frz : (setAcc k x y l t).frz = t.frz := rfl
@[simp] theorem setAcc_held : (setAcc k x y l t).held = t.held := rfl
@[simp] theorem setAcc_arrivals : (setAcc k x y l t).arrivals = t.arrivals := rfl
@[simp] theorem setAcc_dying : (setAcc k x y l t).dying = t.dying := rfl
@[simp] theorem setAcc_stallNs : (setAcc k x y l t).stallNs = t.stallNs := rfl
@[simp] theorem setAcc_heads : (setAcc k x y l t).heads = t.heads := rfl
@[simp] theorem setAcc_yieldTo : (setAcc k x y l t).yieldTo = t.yieldTo := rfl
@[simp] theorem setAcc_gReady : (setAcc k x y l t).gReady = t.gReady := rfl
@[simp] theorem setAcc_replied : (setAcc k x y l t).replied = t.replied := rfl
@[simp] theorem setAcc_vAt : (setAcc k x y l t).vAt = t.vAt := rfl
@[simp] theorem setAcc_startAt : (setAcc k x y l t).startAt = t.startAt := rfl
@[simp] theorem setAcc_cn : (setAcc k x y l t).cn = t.cn := rfl
@[simp] theorem setAcc_tReady : (setAcc k x y l t).tReady = t.tReady := rfl
@[simp] theorem setAcc_cprog : (setAcc k x y l t).cprog = t.cprog := rfl
@[simp] theorem setAcc_noMatch : (setAcc k x y l t).noMatch = t.noMatch := rfl
@[simp] theorem setAcc_replay : (setAcc k x y l t).replay = t.replay := rfl
@[simp] theorem setAcc_kn : (setAcc k x y l t).kn = t.kn := rfl
@[simp] theorem setAcc_tillerOf : (setAcc k x y l t).tillerOf = t.tillerOf := rfl
@[simp] theorem setAcc_capValid : (setAcc k x y l t).capValid = t.capValid := rfl
@[simp] theorem setAcc_pEng : (setAcc k x y l t).pEng = t.pEng := rfl

@[simp] theorem setK_id : (setK k st t).id = t.id := rfl
@[simp] theorem setK_sr : (setK k st t).sr = t.sr := rfl
@[simp] theorem setK_c : (setK k st t).c = t.c := rfl
@[simp] theorem setK_eng : (setK k st t).eng = t.eng := rfl
@[simp] theorem setK_cwords : (setK k st t).cwords = t.cwords := rfl
@[simp] theorem setK_fifo : (setK k st t).fifo = t.fifo := rfl
@[simp] theorem setK_rsv : (setK k st t).rsv = t.rsv := rfl
@[simp] theorem setK_pops : (setK k st t).pops = t.pops := rfl
@[simp] theorem setK_fly : (setK k st t).fly = t.fly := rfl
@[simp] theorem setK_tags : (setK k st t).tags = t.tags := rfl
@[simp] theorem setK_win : (setK k st t).win = t.win := rfl
@[simp] theorem setK_shadow : (setK k st t).shadow = t.shadow := rfl
@[simp] theorem setK_nest : (setK k st t).nest = t.nest := rfl
@[simp] theorem setK_steps : (setK k st t).steps = t.steps := rfl
@[simp] theorem setK_emitRows : (setK k st t).emitRows = t.emitRows := rfl
@[simp] theorem setK_emitCols : (setK k st t).emitCols = t.emitCols := rfl
@[simp] theorem setK_copies : (setK k st t).copies = t.copies := rfl
@[simp] theorem setK_rx : (setK k st t).rx = t.rx := rfl
@[simp] theorem setK_rxFreed : (setK k st t).rxFreed = t.rxFreed := rfl
@[simp] theorem setK_mq : (setK k st t).mq = t.mq := rfl
@[simp] theorem setK_far : (setK k st t).far = t.far := rfl
@[simp] theorem setK_frz : (setK k st t).frz = t.frz := rfl
@[simp] theorem setK_held : (setK k st t).held = t.held := rfl
@[simp] theorem setK_arrivals : (setK k st t).arrivals = t.arrivals := rfl
@[simp] theorem setK_dying : (setK k st t).dying = t.dying := rfl
@[simp] theorem setK_stallNs : (setK k st t).stallNs = t.stallNs := rfl
@[simp] theorem setK_heads : (setK k st t).heads = t.heads := rfl
@[simp] theorem setK_yieldTo : (setK k st t).yieldTo = t.yieldTo := rfl
@[simp] theorem setK_gReady : (setK k st t).gReady = t.gReady := rfl
@[simp] theorem setK_replied : (setK k st t).replied = t.replied := rfl
@[simp] theorem setK_vAt : (setK k st t).vAt = t.vAt := rfl
@[simp] theorem setK_startAt : (setK k st t).startAt = t.startAt := rfl
@[simp] theorem setK_cn : (setK k st t).cn = t.cn := rfl
@[simp] theorem setK_tReady : (setK k st t).tReady = t.tReady := rfl
@[simp] theorem setK_cprog : (setK k st t).cprog = t.cprog := rfl
@[simp] theorem setK_noMatch : (setK k st t).noMatch = t.noMatch := rfl
@[simp] theorem setK_replay : (setK k st t).replay = t.replay := rfl
@[simp] theorem setK_kn : (setK k st t).kn = t.kn := rfl
@[simp] theorem setK_tillerOf : (setK k st t).tillerOf = t.tillerOf := rfl
@[simp] theorem setK_capValid : (setK k st t).capValid = t.capValid := rfl
@[simp] theorem setK_pEng : (setK k st t).pEng = t.pEng := rfl

@[simp] theorem modEng_id : (modEng k e t).id = t.id := rfl
@[simp] theorem modEng_sr : (modEng k e t).sr = t.sr := rfl
@[simp] theorem modEng_c : (modEng k e t).c = t.c := rfl
@[simp] theorem modEng_e : (modEng k e t).e = t.e := rfl
@[simp] theorem modEng_cwords : (modEng k e t).cwords = t.cwords := rfl
@[simp] theorem modEng_fifo : (modEng k e t).fifo = t.fifo := rfl
@[simp] theorem modEng_rsv : (modEng k e t).rsv = t.rsv := rfl
@[simp] theorem modEng_pops : (modEng k e t).pops = t.pops := rfl
@[simp] theorem modEng_fly : (modEng k e t).fly = t.fly := rfl
@[simp] theorem modEng_tags : (modEng k e t).tags = t.tags := rfl
@[simp] theorem modEng_win : (modEng k e t).win = t.win := rfl
@[simp] theorem modEng_shadow : (modEng k e t).shadow = t.shadow := rfl
@[simp] theorem modEng_nest : (modEng k e t).nest = t.nest := rfl
@[simp] theorem modEng_steps : (modEng k e t).steps = t.steps := rfl
@[simp] theorem modEng_emitRows : (modEng k e t).emitRows = t.emitRows := rfl
@[simp] theorem modEng_emitCols : (modEng k e t).emitCols = t.emitCols := rfl
@[simp] theorem modEng_copies : (modEng k e t).copies = t.copies := rfl
@[simp] theorem modEng_rx : (modEng k e t).rx = t.rx := rfl
@[simp] theorem modEng_rxFreed : (modEng k e t).rxFreed = t.rxFreed := rfl
@[simp] theorem modEng_mq : (modEng k e t).mq = t.mq := rfl
@[simp] theorem modEng_far : (modEng k e t).far = t.far := rfl
@[simp] theorem modEng_frz : (modEng k e t).frz = t.frz := rfl
@[simp] theorem modEng_held : (modEng k e t).held = t.held := rfl
@[simp] theorem modEng_arrivals : (modEng k e t).arrivals = t.arrivals := rfl
@[simp] theorem modEng_dying : (modEng k e t).dying = t.dying := rfl
@[simp] theorem modEng_stallNs : (modEng k e t).stallNs = t.stallNs := rfl
@[simp] theorem modEng_heads : (modEng k e t).heads = t.heads := rfl
@[simp] theorem modEng_yieldTo : (modEng k e t).yieldTo = t.yieldTo := rfl
@[simp] theorem modEng_gReady : (modEng k e t).gReady = t.gReady := rfl
@[simp] theorem modEng_replied : (modEng k e t).replied = t.replied := rfl
@[simp] theorem modEng_vAt : (modEng k e t).vAt = t.vAt := rfl
@[simp] theorem modEng_startAt : (modEng k e t).startAt = t.startAt := rfl
@[simp] theorem modEng_cn : (modEng k e t).cn = t.cn := rfl
@[simp] theorem modEng_tReady : (modEng k e t).tReady = t.tReady := rfl
@[simp] theorem modEng_cprog : (modEng k e t).cprog = t.cprog := rfl
@[simp] theorem modEng_noMatch : (modEng k e t).noMatch = t.noMatch := rfl
@[simp] theorem modEng_replay : (modEng k e t).replay = t.replay := rfl
@[simp] theorem modEng_kn : (modEng k e t).kn = t.kn := rfl
@[simp] theorem modEng_tillerOf : (modEng k e t).tillerOf = t.tillerOf := rfl
@[simp] theorem modEng_capValid : (modEng k e t).capValid = t.capValid := rfl
@[simp] theorem modEng_pEng : (modEng k e t).pEng = t.pEng := rfl

@[simp] theorem setFifo_id : (setFifo k x y t).id = t.id := rfl
@[simp] theorem setFifo_sr : (setFifo k x y t).sr = t.sr := rfl
@[simp] theorem setFifo_c : (setFifo k x y t).c = t.c := rfl
@[simp] theorem setFifo_e : (setFifo k x y t).e = t.e := rfl
@[simp] theorem setFifo_eng : (setFifo k x y t).eng = t.eng := rfl
@[simp] theorem setFifo_cwords : (setFifo k x y t).cwords = t.cwords := rfl
@[simp] theorem setFifo_rsv : (setFifo k x y t).rsv = t.rsv := rfl
@[simp] theorem setFifo_pops : (setFifo k x y t).pops = t.pops := rfl
@[simp] theorem setFifo_fly : (setFifo k x y t).fly = t.fly := rfl
@[simp] theorem setFifo_tags : (setFifo k x y t).tags = t.tags := rfl
@[simp] theorem setFifo_win : (setFifo k x y t).win = t.win := rfl
@[simp] theorem setFifo_shadow : (setFifo k x y t).shadow = t.shadow := rfl
@[simp] theorem setFifo_nest : (setFifo k x y t).nest = t.nest := rfl
@[simp] theorem setFifo_steps : (setFifo k x y t).steps = t.steps := rfl
@[simp] theorem setFifo_emitRows : (setFifo k x y t).emitRows = t.emitRows := rfl
@[simp] theorem setFifo_emitCols : (setFifo k x y t).emitCols = t.emitCols := rfl
@[simp] theorem setFifo_copies : (setFifo k x y t).copies = t.copies := rfl
@[simp] theorem setFifo_rx : (setFifo k x y t).rx = t.rx := rfl
@[simp] theorem setFifo_rxFreed : (setFifo k x y t).rxFreed = t.rxFreed := rfl
@[simp] theorem setFifo_mq : (setFifo k x y t).mq = t.mq := rfl
@[simp] theorem setFifo_far : (setFifo k x y t).far = t.far := rfl
@[simp] theorem setFifo_frz : (setFifo k x y t).frz = t.frz := rfl
@[simp] theorem setFifo_held : (setFifo k x y t).held = t.held := rfl
@[simp] theorem setFifo_arrivals : (setFifo k x y t).arrivals = t.arrivals := rfl
@[simp] theorem setFifo_dying : (setFifo k x y t).dying = t.dying := rfl
@[simp] theorem setFifo_stallNs : (setFifo k x y t).stallNs = t.stallNs := rfl
@[simp] theorem setFifo_heads : (setFifo k x y t).heads = t.heads := rfl
@[simp] theorem setFifo_yieldTo : (setFifo k x y t).yieldTo = t.yieldTo := rfl
@[simp] theorem setFifo_gReady : (setFifo k x y t).gReady = t.gReady := rfl
@[simp] theorem setFifo_replied : (setFifo k x y t).replied = t.replied := rfl
@[simp] theorem setFifo_vAt : (setFifo k x y t).vAt = t.vAt := rfl
@[simp] theorem setFifo_startAt : (setFifo k x y t).startAt = t.startAt := rfl
@[simp] theorem setFifo_cn : (setFifo k x y t).cn = t.cn := rfl
@[simp] theorem setFifo_tReady : (setFifo k x y t).tReady = t.tReady := rfl
@[simp] theorem setFifo_cprog : (setFifo k x y t).cprog = t.cprog := rfl
@[simp] theorem setFifo_noMatch : (setFifo k x y t).noMatch = t.noMatch := rfl
@[simp] theorem setFifo_replay : (setFifo k x y t).replay = t.replay := rfl
@[simp] theorem setFifo_kn : (setFifo k x y t).kn = t.kn := rfl
@[simp] theorem setFifo_tillerOf : (setFifo k x y t).tillerOf = t.tillerOf := rfl
@[simp] theorem setFifo_capValid : (setFifo k x y t).capValid = t.capValid := rfl
@[simp] theorem setFifo_pEng : (setFifo k x y t).pEng = t.pEng := rfl

@[simp] theorem setRsv_id : (setRsv k x y t).id = t.id := rfl
@[simp] theorem setRsv_sr : (setRsv k x y t).sr = t.sr := rfl
@[simp] theorem setRsv_c : (setRsv k x y t).c = t.c := rfl
@[simp] theorem setRsv_e : (setRsv k x y t).e = t.e := rfl
@[simp] theorem setRsv_eng : (setRsv k x y t).eng = t.eng := rfl
@[simp] theorem setRsv_cwords : (setRsv k x y t).cwords = t.cwords := rfl
@[simp] theorem setRsv_fifo : (setRsv k x y t).fifo = t.fifo := rfl
@[simp] theorem setRsv_pops : (setRsv k x y t).pops = t.pops := rfl
@[simp] theorem setRsv_fly : (setRsv k x y t).fly = t.fly := rfl
@[simp] theorem setRsv_tags : (setRsv k x y t).tags = t.tags := rfl
@[simp] theorem setRsv_win : (setRsv k x y t).win = t.win := rfl
@[simp] theorem setRsv_shadow : (setRsv k x y t).shadow = t.shadow := rfl
@[simp] theorem setRsv_nest : (setRsv k x y t).nest = t.nest := rfl
@[simp] theorem setRsv_steps : (setRsv k x y t).steps = t.steps := rfl
@[simp] theorem setRsv_emitRows : (setRsv k x y t).emitRows = t.emitRows := rfl
@[simp] theorem setRsv_emitCols : (setRsv k x y t).emitCols = t.emitCols := rfl
@[simp] theorem setRsv_copies : (setRsv k x y t).copies = t.copies := rfl
@[simp] theorem setRsv_rx : (setRsv k x y t).rx = t.rx := rfl
@[simp] theorem setRsv_rxFreed : (setRsv k x y t).rxFreed = t.rxFreed := rfl
@[simp] theorem setRsv_mq : (setRsv k x y t).mq = t.mq := rfl
@[simp] theorem setRsv_far : (setRsv k x y t).far = t.far := rfl
@[simp] theorem setRsv_frz : (setRsv k x y t).frz = t.frz := rfl
@[simp] theorem setRsv_held : (setRsv k x y t).held = t.held := rfl
@[simp] theorem setRsv_arrivals : (setRsv k x y t).arrivals = t.arrivals := rfl
@[simp] theorem setRsv_dying : (setRsv k x y t).dying = t.dying := rfl
@[simp] theorem setRsv_stallNs : (setRsv k x y t).stallNs = t.stallNs := rfl
@[simp] theorem setRsv_heads : (setRsv k x y t).heads = t.heads := rfl
@[simp] theorem setRsv_yieldTo : (setRsv k x y t).yieldTo = t.yieldTo := rfl
@[simp] theorem setRsv_gReady : (setRsv k x y t).gReady = t.gReady := rfl
@[simp] theorem setRsv_replied : (setRsv k x y t).replied = t.replied := rfl
@[simp] theorem setRsv_vAt : (setRsv k x y t).vAt = t.vAt := rfl
@[simp] theorem setRsv_startAt : (setRsv k x y t).startAt = t.startAt := rfl
@[simp] theorem setRsv_cn : (setRsv k x y t).cn = t.cn := rfl
@[simp] theorem setRsv_tReady : (setRsv k x y t).tReady = t.tReady := rfl
@[simp] theorem setRsv_cprog : (setRsv k x y t).cprog = t.cprog := rfl
@[simp] theorem setRsv_noMatch : (setRsv k x y t).noMatch = t.noMatch := rfl
@[simp] theorem setRsv_replay : (setRsv k x y t).replay = t.replay := rfl
@[simp] theorem setRsv_kn : (setRsv k x y t).kn = t.kn := rfl
@[simp] theorem setRsv_tillerOf : (setRsv k x y t).tillerOf = t.tillerOf := rfl
@[simp] theorem setRsv_capValid : (setRsv k x y t).capValid = t.capValid := rfl
@[simp] theorem setRsv_pEng : (setRsv k x y t).pEng = t.pEng := rfl


/-! ## modPort -/

@[simp] theorem modPort_clock (f : Port → Port) : (modPort n f s).clock = s.clock := rfl
@[simp] theorem modPort_arg (f : Port → Port) : (modPort n f s).arg = s.arg := rfl
@[simp] theorem modPort_cur (f : Port → Port) : (modPort n f s).cur = s.cur := rfl
@[simp] theorem modPort_strm (f : Port → Port) : (modPort n f s).strm = s.strm := rfl
@[simp] theorem modPort_ready (f : Port → Port) : (modPort n f s).ready = s.ready := rfl
@[simp] theorem modPort_offTiles (f : Port → Port) : (modPort n f s).offTiles = s.offTiles := rfl
@[simp] theorem modPort_offQuads (f : Port → Port) : (modPort n f s).offQuads = s.offQuads := rfl
@[simp] theorem modPort_threads (f : Port → Port) : (modPort n f s).threads = s.threads := rfl
@[simp] theorem modPort_tiles (f : Port → Port) : (modPort n f s).tiles = s.tiles := rfl
@[simp] theorem modPort_quads (f : Port → Port) : (modPort n f s).quads = s.quads := rfl
@[simp] theorem modPort_sensors (f : Port → Port) : (modPort n f s).sensors = s.sensors := rfl
@[simp] theorem modPort_dies (f : Port → Port) : (modPort n f s).dies = s.dies := rfl
@[simp] theorem modPort_refusedVf (f : Port → Port) : (modPort n f s).refusedVf = s.refusedVf := rfl
@[simp] theorem modPort_prgAlloc (f : Port → Port) : (modPort n f s).prgAlloc = s.prgAlloc := rfl
@[simp] theorem modPort_packets (f : Port → Port) : (modPort n f s).packets = s.packets := rfl
@[simp] theorem modPort_hbm (f : Port → Port) : (modPort n f s).hbm = s.hbm := rfl
@[simp] theorem modPort_host (f : Port → Port) : (modPort n f s).host = s.host := rfl
@[simp] theorem modPort_hostPoison (f : Port → Port) : (modPort n f s).hostPoison = s.hostPoison := rfl
@[simp] theorem modPort_hostUr (f : Port → Port) : (modPort n f s).hostUr = s.hostUr := rfl
@[simp] theorem modPort_old (f : Port → Port) : (modPort n f s).old = s.old := rfl
@[simp] theorem modPort_parts (f : Port → Port) : (modPort n f s).parts = s.parts := rfl
@[simp] theorem modPort_teams (f : Port → Port) : (modPort n f s).teams = s.teams := rfl
@[simp] theorem modPort_nextTeam (f : Port → Port) : (modPort n f s).nextTeam = s.nextTeam := rfl
@[simp] theorem modPort_launches (f : Port → Port) : (modPort n f s).launches = s.launches := rfl
@[simp] theorem modPort_nextLaunch (f : Port → Port) : (modPort n f s).nextLaunch = s.nextLaunch := rfl
@[simp] theorem modPort_queues (f : Port → Port) : (modPort n f s).queues = s.queues := rfl
@[simp] theorem modPort_sec (f : Port → Port) : (modPort n f s).sec = s.sec := rfl
@[simp] theorem modPort_inputs (f : Port → Port) : (modPort n f s).inputs = s.inputs := rfl
@[simp] theorem modPort_out (f : Port → Port) : (modPort n f s).out = s.out := rfl
@[simp] theorem modPort_freeCount (f : Port → Port) : (modPort n f s).freeCount = s.freeCount := rfl

/-! ## setTdisp -/

@[simp] theorem setTdisp_clock (x : Tdisp) : (setTdisp n x s).clock = s.clock := rfl
@[simp] theorem setTdisp_arg (x : Tdisp) : (setTdisp n x s).arg = s.arg := rfl
@[simp] theorem setTdisp_cur (x : Tdisp) : (setTdisp n x s).cur = s.cur := rfl
@[simp] theorem setTdisp_strm (x : Tdisp) : (setTdisp n x s).strm = s.strm := rfl
@[simp] theorem setTdisp_ready (x : Tdisp) : (setTdisp n x s).ready = s.ready := rfl
@[simp] theorem setTdisp_offTiles (x : Tdisp) : (setTdisp n x s).offTiles = s.offTiles := rfl
@[simp] theorem setTdisp_offQuads (x : Tdisp) : (setTdisp n x s).offQuads = s.offQuads := rfl
@[simp] theorem setTdisp_threads (x : Tdisp) : (setTdisp n x s).threads = s.threads := rfl
@[simp] theorem setTdisp_tiles (x : Tdisp) : (setTdisp n x s).tiles = s.tiles := rfl
@[simp] theorem setTdisp_quads (x : Tdisp) : (setTdisp n x s).quads = s.quads := rfl
@[simp] theorem setTdisp_sensors (x : Tdisp) : (setTdisp n x s).sensors = s.sensors := rfl
@[simp] theorem setTdisp_dies (x : Tdisp) : (setTdisp n x s).dies = s.dies := rfl
@[simp] theorem setTdisp_refusedVf (x : Tdisp) : (setTdisp n x s).refusedVf = s.refusedVf := rfl
@[simp] theorem setTdisp_prgAlloc (x : Tdisp) : (setTdisp n x s).prgAlloc = s.prgAlloc := rfl
@[simp] theorem setTdisp_packets (x : Tdisp) : (setTdisp n x s).packets = s.packets := rfl
@[simp] theorem setTdisp_hub (x : Tdisp) : (setTdisp n x s).hub = s.hub := rfl
@[simp] theorem setTdisp_hbm (x : Tdisp) : (setTdisp n x s).hbm = s.hbm := rfl
@[simp] theorem setTdisp_host (x : Tdisp) : (setTdisp n x s).host = s.host := rfl
@[simp] theorem setTdisp_hostPoison (x : Tdisp) : (setTdisp n x s).hostPoison = s.hostPoison := rfl
@[simp] theorem setTdisp_hostUr (x : Tdisp) : (setTdisp n x s).hostUr = s.hostUr := rfl
@[simp] theorem setTdisp_old (x : Tdisp) : (setTdisp n x s).old = s.old := rfl
@[simp] theorem setTdisp_parts (x : Tdisp) : (setTdisp n x s).parts = s.parts := rfl
@[simp] theorem setTdisp_teams (x : Tdisp) : (setTdisp n x s).teams = s.teams := rfl
@[simp] theorem setTdisp_nextTeam (x : Tdisp) : (setTdisp n x s).nextTeam = s.nextTeam := rfl
@[simp] theorem setTdisp_launches (x : Tdisp) : (setTdisp n x s).launches = s.launches := rfl
@[simp] theorem setTdisp_nextLaunch (x : Tdisp) : (setTdisp n x s).nextLaunch = s.nextLaunch := rfl
@[simp] theorem setTdisp_queues (x : Tdisp) : (setTdisp n x s).queues = s.queues := rfl
@[simp] theorem setTdisp_inputs (x : Tdisp) : (setTdisp n x s).inputs = s.inputs := rfl
@[simp] theorem setTdisp_out (x : Tdisp) : (setTdisp n x s).out = s.out := rfl
@[simp] theorem setTdisp_freeCount (x : Tdisp) : (setTdisp n x s).freeCount = s.freeCount := rfl

/-! ## Transactions of a virtual function (25 R497, R501) -/

theorem fromHost_good (f : State → Out) (hl : s.sec.life ≠ .recovery) (hb : s.arg.badIde = false) : fromHost n f s = f s := by
  simp [fromHost, hl, hb]

theorem fromHost_bad (f : State → Out) (hl : s.sec.life ≠ .recovery) (hb : s.arg.badIde = true) :
    fromHost n f s = .next (integrityFails n s) := by
  simp [fromHost, hl, hb]

theorem fromHost_recovery (f : State → Out) (hl : s.sec.life = .recovery) : fromHost n f s = .next s := by
  simp [fromHost, hl]

end Sys2Proof.Laws
end

