-- ==== Sys2Proof/Laws/Sparse.lean ====
section
/-!
SUPPORT. Laws of the sparse tables and of the memories: a read after a write, what a write leaves alone, and the
canonical form of a memory.
-/
namespace Sys2Proof.Laws

open Sys2Proof.Machine

variable {α : Type}

/-! ## Tables -/

@[simp] theorem look_nil (d : α) (k : Nat) : look d [] k = d := rfl

@[simp] theorem find_nil (k : Nat) : find ([] : SMap α) k = none := rfl

theorem look_eq_find (d : α) (m : SMap α) (k : Nat) : look d m k = (find m k).getD d := by
  induction m with
  | nil => rfl
  | cons p rest ih => obtain ⟨a, v⟩ := p; simp only [look, find]; split <;> simp_all

theorem look_of_find {d : α} {m : SMap α} {k : Nat} {v : α} (h : find m k = some v) : look d m k = v := by
  simp [look_eq_find, h]

@[simp] theorem find_put_same (k : Nat) (v : α) (m : SMap α) : find (put k v m) k = some v := by
  induction m with
  | nil => simp [put, find]
  | cons p rest ih =>
    obtain ⟨a, x⟩ := p
    simp only [put]
    split
    · simp [find]
    · split <;> simp_all [find]

theorem find_put_ne {k j : Nat} (h : j ≠ k) (v : α) (m : SMap α) : find (put k v m) j = find m j := by
  induction m with
  | nil => simp [put, find, Ne.symm h]
  | cons p rest ih =>
    obtain ⟨a, x⟩ := p
    simp only [put]
    split
    · simp [find, Ne.symm h]
    · split
      · subst_vars; simp [find, Ne.symm h]
      · simp only [find, ih]

@[simp] theorem look_put_same (d : α) (k : Nat) (v : α) (m : SMap α) : look d (put k v m) k = v := by
  simp [look_eq_find]

theorem look_put_ne {k j : Nat} (h : j ≠ k) (d v : α) (m : SMap α) : look d (put k v m) j = look d m j := by
  simp [look_eq_find, find_put_ne h]

theorem look_put (d : α) (k j : Nat) (v : α) (m : SMap α) : look d (put k v m) j = if j = k then v else look d m j := by
  split
  · subst_vars; simp
  · rename_i h; exact look_put_ne h d v m

theorem find_put (k j : Nat) (v : α) (m : SMap α) : find (put k v m) j = if j = k then some v else find m j := by
  split
  · subst_vars; simp
  · rename_i h; exact find_put_ne h v m

@[simp] theorem find_del_same (k : Nat) (m : SMap α) : find (del k m) k = none := by
  induction m with
  | nil => rfl
  | cons p rest ih => obtain ⟨a, x⟩ := p; simp only [del]; split <;> simp_all [find]

theorem find_del_ne {k j : Nat} (h : j ≠ k) (m : SMap α) : find (del k m) j = find m j := by
  induction m with
  | nil => rfl
  | cons p rest ih =>
    obtain ⟨a, x⟩ := p
    simp only [del]
    split
    · subst_vars; simp [find, ih, Ne.symm h]
    · simp only [find, ih]

theorem look_del (d : α) (k j : Nat) (m : SMap α) : look d (del k m) j = if j = k then d else look d m j := by
  split
  · subst_vars; simp [look_eq_find]
  · rename_i h; simp [look_eq_find, find_del_ne h]

theorem look_put0 [DecidableEq α] (d : α) (k j : Nat) (v : α) (m : SMap α) :
    look d (put0 d k v m) j = if j = k then v else look d m j := by
  unfold put0
  split
  · subst_vars; rw [look_del]
  · rw [look_put]

@[simp] theorem look_put0_same [DecidableEq α] (d : α) (k : Nat) (v : α) (m : SMap α) : look d (put0 d k v m) k = v := by
  simp [look_put0]

theorem look_put0_ne [DecidableEq α] {k j : Nat} (h : j ≠ k) (d v : α) (m : SMap α) :
    look d (put0 d k v m) j = look d m j := by simp [look_put0, h]

theorem find_adjust (k j : Nat) (f : α → α) (m : SMap α) :
    find (adjust k f m) j = if j = k then (find m j).map f else find m j := by
  induction m with
  | nil => simp [adjust, find]
  | cons p rest ih =>
    obtain ⟨a, x⟩ := p
    simp only [adjust]
    split
    · subst_vars
      simp only [find]
      by_cases h : j = a
      · subst h; simp
      · simp [h, Ne.symm h]
    · rename_i hak
      simp only [find, ih]
      by_cases h : a = j
      · subst h; simp [hak]
      · simp [h]

theorem look_adjust {m : SMap α} {k : Nat} (h : (find m k).isSome) (d : α) (f : α → α) (j : Nat) :
    look d (adjust k f m) j = if j = k then f (look d m k) else look d m j := by
  obtain ⟨v, hv⟩ := Option.isSome_iff_exists.mp h
  simp only [look_eq_find, find_adjust]
  split
  · subst_vars; simp [hv]
  · rfl

theorem look_adjust_ne {m : SMap α} {k j : Nat} (h : j ≠ k) (d : α) (f : α → α) :
    look d (adjust k f m) j = look d m j := by simp [look_eq_find, find_adjust, h]

/-! ## Memories -/

@[simp] theorem readByte_writeByte_same (m : Memory) (a : Nat) (b : Byte) : readByte (writeByte m a b) a = b := by
  simp [readByte, writeByte]

theorem readByte_writeByte_ne {a x : Nat} (h : x ≠ a) (m : Memory) (b : Byte) :
    readByte (writeByte m a b) x = readByte m x := by simp [readByte, writeByte, look_put0_ne h]

/-- A write of bytes leaves every other address alone. -/
theorem readByte_writeBytes_out {bs : List Byte} {m : Memory} {a x : Nat} (h : x < a ∨ a + bs.length ≤ x) :
    readByte (writeBytes m a bs) x = readByte m x := by
  induction bs generalizing m a with
  | nil => rfl
  | cons b rest ih =>
    simp only [List.length_cons] at h
    simp only [writeBytes]
    rw [ih (by omega), readByte_writeByte_ne (by omega)]

/-- A byte within a write reads as written. -/
theorem readByte_writeBytes_in {bs : List Byte} {m : Memory} {a i : Nat} (h : i < bs.length) :
    readByte (writeBytes m a bs) (a + i) = bs.getD i 0 := by
  induction bs generalizing m a i with
  | nil => simp at h
  | cons b rest ih =>
    simp only [writeBytes]
    cases i with
    | zero => rw [readByte_writeBytes_out (by omega)]; simp
    | succ i =>
      have := ih (m := writeByte m a b) (a := a + 1) (i := i) (by simpa using h)
      rw [show a + (i + 1) = a + 1 + i by omega, this]; simp

@[simp] theorem readBytes_length (m : Memory) (a n : Nat) : (readBytes m a n).length = n := by
  induction n generalizing a with
  | zero => rfl
  | succ n ih => simp [readBytes, ih]

theorem readBytes_congr {m m' : Memory} {a n : Nat} (h : ∀ x, a ≤ x → x < a + n → readByte m x = readByte m' x) :
    readBytes m a n = readBytes m' a n := by
  induction n generalizing a with
  | zero => rfl
  | succ n ih => 
    rw [readBytes, readBytes, h a (by omega) (by omega), ih (a := a + 1) fun x h1 h2 => h x (by omega) (by omega)]

/-- What is read where bytes were written is what was written. -/
theorem readBytes_writeBytes (m : Memory) (a : Nat) (bs : List Byte) : readBytes (writeBytes m a bs) a bs.length = bs := by
  induction bs generalizing m a with
  | nil => rfl
  | cons b rest ih =>
    simp only [writeBytes, List.length_cons, readBytes, ih]
    rw [readByte_writeBytes_out (by omega)]; simp

theorem wfFrom_mono {lo lo' : Nat} {m : Memory} (h : lo' ≤ lo) (hw : wfFrom lo m = true) : wfFrom lo' m = true := by
  cases m with
  | nil => rfl
  | cons p rest =>
    obtain ⟨a, b⟩ := p
    simp only [wfFrom, Bool.and_eq_true, decide_eq_true_eq] at hw ⊢
    exact ⟨⟨by omega, hw.1.2⟩, hw.2⟩

theorem del_eq_self {m : Memory} {k lo : Nat} (hw : wfFrom lo m = true) (h : k < lo) : del k m = m := by
  induction m generalizing lo with
  | nil => rfl
  | cons p rest ih =>
    obtain ⟨a, b⟩ := p
    simp only [wfFrom, Bool.and_eq_true, decide_eq_true_eq] at hw
    simp only [del, show a ≠ k by omega, if_false, ih hw.2 (by omega)]

theorem wfFrom_del {m : Memory} {lo : Nat} (k : Nat) (hw : wfFrom lo m = true) : wfFrom lo (del k m) = true := by
  induction m generalizing lo with
  | nil => rfl
  | cons p rest ih =>
    obtain ⟨a, b⟩ := p
    simp only [wfFrom, Bool.and_eq_true, decide_eq_true_eq] at hw
    simp only [del]
    split
    · exact wfFrom_mono (by omega) (ih hw.2)
    · simp only [wfFrom, Bool.and_eq_true, decide_eq_true_eq]
      exact ⟨hw.1, ih hw.2⟩

theorem wfFrom_put {m : Memory} {lo k : Nat} {v : Byte} (hv : v ≠ 0) (hk : lo ≤ k) (hw : wfFrom lo m = true) :
    wfFrom lo (put k v m) = true := by
  induction m generalizing lo with
  | nil => simpa [put, wfFrom, hk] using hv
  | cons p rest ih =>
    obtain ⟨a, b⟩ := p
    simp only [wfFrom, Bool.and_eq_true, decide_eq_true_eq] at hw
    simp only [put]
    split
    · simp only [wfFrom, Bool.and_eq_true, decide_eq_true_eq]
      exact ⟨⟨hk, by simpa using hv⟩, ⟨by omega, hw.1.2⟩, hw.2⟩
    · split
      · subst_vars
        simp only [wfFrom, Bool.and_eq_true, decide_eq_true_eq]
        exact ⟨⟨hk, by simpa using hv⟩, hw.2⟩
      · simp only [wfFrom, Bool.and_eq_true, decide_eq_true_eq]
        exact ⟨hw.1, ih (by omega) hw.2⟩

/-- A write of a byte keeps the canonical form. -/
theorem wf_writeByte {m : Memory} (h : Memory.wf m = true) (a : Nat) (b : Byte) : Memory.wf (writeByte m a b) = true := by
  unfold Memory.wf writeByte put0 at *
  split
  · exact wfFrom_del a h
  · rename_i hb; exact wfFrom_put hb (by omega) h

/-- A write of bytes keeps the canonical form. -/
theorem wf_writeBytes {m : Memory} (h : Memory.wf m = true) (a : Nat) (bs : List Byte) :
    Memory.wf (writeBytes m a bs) = true := by
  induction bs generalizing m a with
  | nil => exact h
  | cons b rest ih => exact ih (wf_writeByte h a b) (a + 1)

/-- A store of a run keeps the canonical form. -/
theorem wf_writeRun {m : Memory} (h : Memory.wf m = true) (p : List Nat) (run : Run) (a0 a : Nat) (r : Run) :
    Memory.wf (writeRun p run a0 m a r) = true := by
  induction r generalizing m a with
  | nil => exact h
  | cons x rest ih =>
    cases x with
    | none => exact ih h (a + 1)
    | some b =>
      simp only [writeRun]
      apply ih
      split
      · exact h
      · exact wf_writeByte h a b

/-- An access to local memory keeps the canonical form. -/
theorem wf_storeRun {t : Tile} (h : Memory.wf t.mem = true) (run : Run) (a : Nat) (bad : Nat → Bool) :
    Memory.wf (storeRun run a bad t).mem = true := wf_writeRun h t.poison run a a run

/-- Equal memories are equal data: two canonical memories that read alike are one list. -/
theorem wf_ext {m m' : Memory} {lo : Nat} (h : wfFrom lo m = true) (h' : wfFrom lo m' = true)
    (he : ∀ a, readByte m a = readByte m' a) : m = m' := by
  have key : ∀ {m : Memory} {lo a : Nat}, wfFrom lo m = true → a < lo → readByte m a = 0 := by
    intro m
    induction m with
    | nil => intros; rfl
    | cons p rest ih =>
      intro lo a hw ha
      obtain ⟨x, b⟩ := p
      simp only [wfFrom, Bool.and_eq_true, decide_eq_true_eq] at hw
      simp only [readByte, look, show x ≠ a by omega, if_false]
      exact ih hw.2 (by omega)
  induction m generalizing m' lo with
  | nil =>
    cases m' with
    | nil => rfl
    | cons p rest =>
      obtain ⟨x, b⟩ := p
      simp only [wfFrom, Bool.and_eq_true] at h'
      have := he x
      simp only [readByte, look, if_true] at this
      simp [← this] at h'
  | cons p rest ih =>
    obtain ⟨x, b⟩ := p
    have hw := h
    simp only [wfFrom, Bool.and_eq_true, decide_eq_true_eq] at h
    cases m' with
    | nil =>
      have := he x
      simp only [readByte, look, if_true] at this
      simp [this] at h
    | cons q rest' =>
      obtain ⟨y, c⟩ := q
      have hw' := h'
      simp only [wfFrom, Bool.and_eq_true, decide_eq_true_eq] at h'
      have hxy : x = y := by
        rcases Nat.lt_trichotomy x y with hlt | heq | hgt
        · have e := he x
          have k := key (m := (y, c) :: rest') (lo := y) (a := x)
            (by simp only [wfFrom, Bool.and_eq_true, decide_eq_true_eq]; exact ⟨⟨by omega, h'.1.2⟩, h'.2⟩) hlt
          rw [k] at e
          simp only [readByte, look, if_true] at e
          simp [e] at h
        · exact heq
        · have e := he y
          have k := key (m := (x, b) :: rest) (lo := x) (a := y)
            (by simp only [wfFrom, Bool.and_eq_true, decide_eq_true_eq]; exact ⟨⟨by omega, h.1.2⟩, h.2⟩) hgt
          rw [k] at e
          simp only [readByte, look, if_true] at e
          simp [← e] at h'
      subst hxy
      have hb : b = c := by have := he x; simpa [readByte, look] using this
      subst hb
      rw [ih (lo := x + 1) h.2 h'.2 fun a => ?_]
      by_cases ha : a = x
      · subst ha; rw [key h.2 (by omega), key h'.2 (by omega)]
      · have := he a; simpa [readByte, look, Ne.symm ha] using this

end Sys2Proof.Laws
end

