-- ==== Sys2Proof/Laws/Issue.lean ====
section
/-!
SUPPORT. Reading threads, tiles and registers after an update, and what issuing a word does (04 R97, R109): once for the
C stream and once for the engine streams.
-/
namespace Sys2Proof.Laws

open Sys2Proof.Machine Sys2Proof.Safety

/-! ## Threads and tiles -/

theorem occupied_eq (s : State) (n : Nat) : occupied s n = (find s.threads n).isSome := rfl

@[simp] theorem thr_modThr_same {s : State} {n : Nat} (h : occupied s n = true) (f : Thread → Thread) :
    thr (modThr n f s) n = f (thr s n) := by simp [thr, modThr, look_adjust h]

theorem thr_modThr_ne {n u : Nat} (h : u ≠ n) (f : Thread → Thread) (s : State) : thr (modThr n f s) u = thr s u := by
  simp [thr, modThr, look_adjust_ne h]

@[simp] theorem occupied_modThr (n u : Nat) (f : Thread → Thread) (s : State) :
    occupied (modThr n f s) u = occupied s u := by
  simp only [occupied, modThr, find_adjust]; split <;> simp

@[simp] theorem occupied_modMe (u : Nat) (f : Thread → Thread) (s : State) :
    occupied (modMe f s) u = occupied s u := occupied_modThr _ _ _ _

theorem thr_congr {s t : State} (h : t.threads = s.threads) (u : Nat) : thr t u = thr s u := by simp [thr, h]

theorem occupied_congr {s t : State} (h : t.threads = s.threads) (u : Nat) : occupied t u = occupied s u := by
  simp [occupied, h]

theorem tile_congr {s t : State} (h : t.tiles = s.tiles) (n : Nat) : tile t n = tile s n := by simp [tile, h]

@[simp] theorem thr_modTile (n u : Nat) (f : Tile → Tile) (s : State) : thr (modTile n f s) u = thr s u := rfl

@[simp] theorem occupied_modTile (n u : Nat) (f : Tile → Tile) (s : State) :
    occupied (modTile n f s) u = occupied s u := rfl

@[simp] theorem tile_modThr (n m : Nat) (f : Thread → Thread) (s : State) : tile (modThr n f s) m = tile s m := rfl

@[simp] theorem tile_modMe (m : Nat) (f : Thread → Thread) (s : State) : tile (modMe f s) m = tile s m := rfl

theorem tile_modTile (n m : Nat) (f : Tile → Tile) (s : State) :
    tile (modTile n f s) m = if m = n then f (tile s n) else tile s m := by simp [tile, modTile, look_put]

@[simp] theorem tile_modTile_same (n : Nat) (f : Tile → Tile) (s : State) : tile (modTile n f s) n = f (tile s n) := by
  simp [tile_modTile]

@[simp] theorem occupied_issued (n st u : Nat) (s : State) : occupied (issued n st s) u = occupied s u := by
  simp [issued, setHead]

@[simp] theorem tile_issued (n st m : Nat) (s : State) : tile (issued n st s) m = tile s m := rfl

/-! ## Registers -/

@[simp] theorem gOf_zero (t : Thread) : gOf t 0 = 0 := rfl

@[simp] theorem pOf_zero (t : Thread) : pOf t 0 = BitVec.allOnes 64 := rfl

/-- A g register after a write: g0 reads zero whatever is written (03 R75). -/
theorem gOf_setG (n d : Nat) (v : Word) (t : Thread) :
    gOf (setG d v t) n = if n = d then (if d = 0 then 0 else v) else gOf t n := by
  unfold setG
  by_cases hd : d = 0
  · subst hd; by_cases hn : n = 0 <;> simp [hn]
  · simp only [hd, if_false, gOf, look_put0]
    by_cases hn : n = 0
    · simp [hn, Ne.symm hd]
    · simp [hn]

/-- A p register after a write: p0 reads all ones whatever is written (05 R118). -/
theorem pOf_setP (n d : Nat) (v : Word) (t : Thread) :
    pOf (setP d v t) n = if n = d then (if d = 0 then BitVec.allOnes 64 else v) else pOf t n := by
  unfold setP
  by_cases hd : d = 0
  · subst hd; by_cases hn : n = 0 <;> simp [hn]
  · simp only [hd, if_false, pOf, look_put0]
    by_cases hn : n = 0
    · simp [hn, Ne.symm hd]
    · simp [hn]

theorem tOf_setT (n d : Nat) (v : Word) (t : Thread) : tOf (setT d v t) n = if n = d then v else tOf t n := by
  simp [tOf, setT, look_put0]

theorem vOf_setV (n d : Nat) (r : Row) (t : Thread) : vOf (setV d r t) n = if n = d then r else vOf t n := by
  simp [vOf, setV, look_put0]

theorem bOf_setB (n d : Nat) (r : Row) (t : Thread) : bOf (setB d r t) n = if n = d then r else bOf t n := by
  simp [bOf, setB, look_put0]

theorem kOf_setK (n d : Nat) (v : TokSt) (t : Thread) : kOf (setK d v t) n = if n = d then v else kOf t n := by
  simp [kOf, setK, look_put0]

theorem gOf_congr {x y : Thread} (h : y.c.g = x.c.g) (n : Nat) : gOf y n = gOf x n := by simp [gOf, h]

theorem pOf_congr {x y : Thread} (h : y.c.p = x.c.p) (n : Nat) : pOf y n = pOf x n := by simp [pOf, h]

theorem tOf_congr {x y : Thread} (h : y.c.t = x.c.t) (n : Nat) : tOf y n = tOf x n := by simp [tOf, h]

@[simp] theorem setG_cp (d : Nat) (v : Word) (t : Thread) : (setG d v t).c.p = t.c.p := by unfold setG; split <;> rfl

@[simp] theorem setG_ct (d : Nat) (v : Word) (t : Thread) : (setG d v t).c.t = t.c.t := by unfold setG; split <;> rfl

@[simp] theorem setG_pc (d : Nat) (v : Word) (t : Thread) : (setG d v t).c.pc = t.c.pc := by unfold setG; split <;> rfl

@[simp] theorem setP_cg (d : Nat) (v : Word) (t : Thread) : (setP d v t).c.g = t.c.g := by unfold setP; split <;> rfl

@[simp] theorem setP_ct (d : Nat) (v : Word) (t : Thread) : (setP d v t).c.t = t.c.t := by unfold setP; split <;> rfl

@[simp] theorem setP_pc (d : Nat) (v : Word) (t : Thread) : (setP d v t).c.pc = t.c.pc := by unfold setP; split <;> rfl

/-! ## A C word issues (04 R109) -/

/-- The record of a thread after an issue of a stream, before the word's effect. -/
def issueRecord (st : Nat) (t : Thread) : Thread :=
  { t with heads := put st .issuing t.heads, stallNs := 0, kn := t.kn + 1
           noMatch := delNat st t.noMatch }

/-- The record of the thread at issue as the issue of a C word of `n` halfwords leaves it, before its effect. -/
def issuedThread (n : Nat) (t : Thread) : Thread :=
  setPc (t.c.pc + BitVec.ofNat 64 n) { issueRecord 0 t with cn := t.cn + 1 }

theorem thr_issued {s : State} {n : Nat} (h : occupied s n = true) (st : Nat) :
    thr (issued n st s) n = issueRecord st (thr s n) := by
  unfold issued setHead
  rw [thr_modThr_same (by simpa using h), thr_modThr_same h]
  rfl

theorem thr_issued_ne {n u : Nat} (hu : u ≠ n) (st : Nat) (s : State) : thr (issued n st s) u = thr s u := by
  unfold issued setHead
  rw [thr_modThr_ne hu, thr_modThr_ne hu]

theorem thr_modMe {s : State} (h : occupied s s.cur = true) (f : Thread → Thread) :
    thr (modMe f s) s.cur = f (thr s s.cur) := thr_modThr_same h f

theorem thr_modMe_ne {s : State} {u : Nat} (hu : u ≠ s.cur) (f : Thread → Thread) :
    thr (modMe f s) u = thr s u := thr_modThr_ne hu f s

theorem thr_wordDone {s : State} (h : occupied s s.cur = true) (n : Nat) (f : Thread → Thread) :
    thr (wordDone n f s) s.cur = f (issuedThread n (thr s s.cur)) := by
  have h1 := thr_modMe (s := issued s.cur 0 s) (by simpa using h)
    (fun t => f (setPc (t.c.pc + BitVec.ofNat 64 n) { t with cn := t.cn + 1 }))
  rw [issued_cur, thr_issued h] at h1
  rw [wordDone, thr_modTile, h1]
  rfl

theorem thr_wordDone_ne {s : State} {u : Nat} (hu : u ≠ s.cur) (n : Nat) (f : Thread → Thread) :
    thr (wordDone n f s) u = thr s u := by
  rw [wordDone, thr_modTile, thr_modMe_ne (by simpa using hu), thr_issued_ne hu]

@[simp] theorem occupied_wordDone (n : Nat) (f : Thread → Thread) (s : State) (u : Nat) :
    occupied (wordDone n f s) u = occupied s u := by simp [wordDone]

theorem tile_wordDone (n m : Nat) (f : Thread → Thread) (s : State) :
    tile (wordDone n f s) m =
      if m = tileOf s.cur then { tile s m with coreLast := ctxOf s.cur, coreAt := some s.clock.now } else tile s m := by
  simp only [wordDone, tile_modTile]
  split
  · subst_vars; rfl
  · rfl

/-- A C word of an occupied context that has nothing to wait for or to check completes. -/
theorem doneC_next {s : State} (h : occupied s s.cur = true) (n : Nat) (f : Thread → Thread) :
    doneC n f s = .next (wordDone n f s) := by simp [doneC, h]

theorem doneCS_next {s : State} (h : occupied s s.cur = true) (n : Nat) (f : State → State) :
    doneCS n f s = .next (f (wordDone n (fun t => t) s)) := by simp [doneCS, doneC, h]

end Sys2Proof.Laws
end

