-- ==== Sys2Proof/Laws/Frames.lean ====
section
/-!
SUPPORT. The frames of a C word: what issuing it leaves alone, once for every word that writes registers only.
-/
namespace Sys2Proof.Laws

open Sys2Proof.Machine Sys2Proof.Safety

/-- A C word that touches only its thread leaves everything outside it alone. -/
theorem outside_wordDone (n : Nat) (f : Thread → Thread) (s : State) : Outside s (wordDone n f s) := by
  refine ⟨fun u hu => thr_wordDone_ne hu n f, ?_, ⟨fun a => rfl, fun a => rfl⟩, ?_, ⟨rfl, rfl, rfl, rfl⟩,
    ⟨rfl, rfl, rfl, rfl, rfl, rfl, rfl, rfl, rfl⟩⟩
  · intro m; rw [tile_wordDone]; split <;> exact ⟨fun a => rfl, rfl⟩
  · intro m; rw [tile_wordDone]; split <;> simp

@[simp] theorem gOf_issuedThread (n k : Nat) (t : Thread) : gOf (issuedThread n t) k = gOf t k := rfl

@[simp] theorem pOf_issuedThread (n k : Nat) (t : Thread) : pOf (issuedThread n t) k = pOf t k := rfl

@[simp] theorem tOf_issuedThread (n k : Nat) (t : Thread) : tOf (issuedThread n t) k = tOf t k := rfl

@[simp] theorem pc_issuedThread (n : Nat) (t : Thread) : (issuedThread n t).c.pc = t.c.pc + BitVec.ofNat 64 n := rfl

/-- What a thread keeps through the issue of a C word that changes only g, p, t and the macro PC by `f`. -/
theorem inside_wordDone {s : State} (h : occupied s s.cur = true) (n : Nat) (f : Thread → Thread)
    (he : ∀ t, (f t).e = t.e) (hid : ∀ t, SpecialKeep t (f t)) (hst : ∀ t, StreamsKeep t (f t))
    (hw : ∀ t, WorkKeep t (f t)) (hz : ∀ t, FreezeKeep t (f t)) (hfar : ∀ t, FarKeep t (f t)) :
    Inside s (wordDone n f s) := by
  unfold Inside
  rw [thr_wordDone h]
  have h1 := he (issuedThread n (thr s s.cur))
  refine ⟨⟨fun k => ?_, fun k => ?_⟩, fun a b c => ?_, fun k _ => ?_, hid _, hst _, hw _, hz _, hfar _⟩ <;>
    simp only [vOf, bOf, accOf, kOf, h1] <;> rfl

end Sys2Proof.Laws
end

