-- ==== Sys2Proof/Tests/Slice0.lean ====
section
/-!
SUPPORT. The model's own tests: ill-formed terms that the checks refuse, worked encodings of the manual, single steps on small
states, and for every statement with hypotheses a state that meets them.
-/
namespace Sys2Proof.Tests

open Sys2Proof.Machine Sys2Proof.Safety Sys2Proof.Claims

set_option Elab.async false

/-! ## Small states -/

/-- A thread with a scratchpad of one page at 4096, and g1 = 7, g2 = 4096, g3 all ones, g4 = 8191, g5 = 4094, g6 = 8184. -/
def thread : Thread :=
  { sr := { spbase := 4096, spsize := 4096 },
    c := { g := [(1, 7), (2, 4096), (3, BitVec.allOnes 64), (4, 8191), (5, 4094), (6, 8184)], p := [(1, 1)], pc := 10 } }

/-- A module with one thread, in context 0 of tile 0, of partition 0, in team 0. -/
def one (t : Thread) : State := { threads := [(0, t)], parts := [(0, {})], teams := [(0, { members := [0], live := [0] })] }

/-- The g register after a word has run. -/
def gAfter (i : Instr) (s : State) (n : Nat) : Option Word :=
  match exec i s with
  | .next t => some (gOf (thr t s.cur) n)
  | _ => none


/-- A token field. -/
def tok (chan : Nat) (push pop : Bool) : Tok := { chan := chan, push := push, pop := pop }

/-- What a stream reads from a word. -/
def reads (st : Stream) (w : Nat) : Option Instr := (decodeBits st w).toOption

/-- Why halfwords are illegal in a stream. -/
def whyNot (st : Stream) (l : List Half) : Option Nat :=
  match decodeAt st l with
  | .error r => some r
  | .ok _ => none

/-! ## Ill-formed terms -/

/-- A word of another stream, and an event, which is a word of none. -/
theorem test_bad_stream : wellFormed .V (.add 1 2 3) = false ∧ wellFormed .C .vnop = false ∧ wellFormed .L (.stc 1 0 0 (tok 0 false false)) = false ∧
    wellFormed .M (.kwait 1 (tok 0 false false)) = false ∧ wellFormed .C .moduleReset = false := by decide

/-- Register, predicate and selector numbers (03 R70, R75). -/
theorem test_bad_register : wellFormed .C (.add 64 2 3) = false ∧ wellFormed .C (.pand 1 48 2) = false ∧ wellFormed .C (.br 48 0) = false ∧
    wellFormed .C (.pbr 4 0) = false ∧ wellFormed .V (.vadd .f32 true 32 0 0) = false ∧ wellFormed .V (.vadd .f32 true 0 48 0) = false ∧
    wellFormed .C (.frzEsc 1 4) = false ∧ wellFormed .V (.vld true 0 32 0 0 (tok 0 false false)) = false ∧
    wellFormed .V (.vst 8 0 0 0 0 (tok 0 false false)) = false := by decide

/-- Counts, numbers and masks out of range or empty (03 R77, R79, R82). -/
theorem test_bad_count : wellFormed .C (.shli 1 2 64) = false ∧ wellFormed .C (.trig 16) = false ∧ wellFormed .C (.bar 8) = false ∧
    wellFormed .C (.give 0) = false ∧ wellFormed .C (.take 7) = false ∧ wellFormed .C (.join 0) = false ∧ wellFormed .C (.enq 7 0 false) = false ∧
    wellFormed .C (.enq 1 262144 false) = false ∧ wellFormed .C (.fenceC 0) = false ∧ wellFormed .C (.fork 62 7) = false ∧
    wellFormed .C (.trap 4096) = false ∧ wellFormed .C (.hndQry 1 2 4) = false ∧ wellFormed .V (.vrot .f32 true 0 0 64) = false ∧
    wellFormed .M (.mrd true 0 4 0 0 (tok 0 false false)) = false ∧ wellFormed .M (.memit 0 0 3 0 (tok 0 false false)) = false ∧
    wellFormed .L (.kwait 0 (tok 0 false false)) = false ∧ wellFormed .L (.ldc 0 8 0 0 (tok 0 false false)) = false ∧
    wellFormed .F (.fsend 0 0 16 (tok 0 false false)) = false ∧ wellFormed .V (.vgbc 3 true 0 0 0) = false := by decide

/-- Types, orders, uses and pairs that an instruction does not take (03 R78, R86; 08 R210; 12 R318). -/
theorem test_bad_kind : wellFormed .V (.vadd .i32 true 0 0 0) = false ∧ wellFormed .V (.vperm .bf16 true 0 0 0) = false ∧
    wellFormed .V (.vcmpUn .i32 1 0 0) = false ∧ wellFormed .C (.fldW 1 2 0 (.rel .die) 0) = false ∧ wellFormed .C (.fstW 1 2 0 (.acq .die)) = false ∧
    wellFormed .C (.fldW 1 2 0 (.acq .bad) 0) = false ∧ wellFormed .C (.famoW 2 3 0 (.rlx .quantum) .swap) = false ∧
    wellFormed .C (.famoW 3 3 0 (.rlx .unpaired) .cas) = false ∧ wellFormed .C (.fenceS .bad) = false ∧
    wellFormed .A (.aopen 1 .bor .f32 0 (tok 0 false false)) = false ∧ wellFormed .A (.aopen 1 .add .bad 0 (tok 0 false false)) = false := by decide

/-- System registers that no chapter allots (05 R121) and token fields that name their own stream, no stream, or a stream without
a push or a pop (03 R73). -/
theorem test_bad_field : wellFormed .C (.srr 1 3) = false ∧ wellFormed .C (.srw 0x240 1) = false ∧
    wellFormed .V (.vpass true 1 2 (tok 1 true false)) = false ∧ wellFormed .V (.vpass true 1 2 (tok 7 true false)) = false ∧
    wellFormed .M (.mwait (tok 3 false false)) = false := by decide

/-! ## Worked encodings -/

/-- Worked encodings of 03 R90; 04; 05 R126-R148; 08 R206; 09 R230; 12 R317-R321; 14 R331; 16 R359, R367; 19 R430; 21 R454; 23 R473. -/
theorem test_decode_C1 :
    reads .C 0x00400895 = some (.srr 8 4) ∧
    reads .C 0x0CF2CA63 = some (.fldD 10 11 15 (.acq .module) 0) ∧
    reads .C 0x02518445 = some (.ldW 4 6 5 2) ∧
    reads .C 0x02A00099 = some (.trap 42) ∧
    reads .C 0x18014093 = some (.frzRd 5 0 6) ∧
    reads .C 0x24020193 = some (.frzWr 8 0 9) ∧
    reads .C 0x00028293 = some (.frzRes 10 0) ∧
    reads .C 0x00028393 = some (.frzKill 10 0) ∧
    reads .C 0x18028493 = some (.frzArr 10 0 6) ∧
    reads .C 0x00028593 = some (.frzEsc 10 0) ∧
    reads .C 0x1C614391 = some (.hndDef 5 6 7) ∧
    reads .C 0x24828491 = some (.hndRelay 10 8 9) := by decide

/-- Worked encodings of 03 R90; 04; 05 R126-R148; 08 R206; 09 R230; 12 R317-R321; 14 R331; 16 R359, R367; 19 R430; 21 R454; 23 R473. -/
theorem test_decode_C2 :
    reads .C 0x0092C591 = some (.hndQry 11 9 0) ∧
    reads .C 0x00714691 = some (.hndDrop 5 7) ∧
    reads .C 0x00414091 = some (.tagLook 5 4) ∧
    reads .C 0x1C418191 = some (.tagSet 6 4 7) ∧
    reads .C 0x00418291 = some (.tagClr 6 4) ∧
    reads .C 0x04018291 = some (.tagClrAll 6) ∧
    reads .C 0x00060071 = some (.fenceC 6) ∧
    reads .C 0x0321466B = some (.famoD 6 5 2 (.rlx .quantum) .add) ∧
    reads .C 0x1C614791 = some (.pageReq 5 6 7) ∧
    reads .C 0x28920891 = some (.migrate 8 9 10) ∧
    reads .C 0x1C614991 = some (.monArm 5 6 7) ∧
    reads .C 0x1C614A91 = some (.monRef 5 6 7) := by decide

/-- Worked encodings of 03 R90; 04; 05 R126-R148; 08 R206; 09 R230; 12 R317-R321; 14 R331; 16 R359, R367; 19 R430; 21 R454; 23 R473. -/
theorem test_decode_C3 :
    reads .C 0x1C020B91 = some (.monRd 8 7) ∧
    reads .C 0x1C020C91 = some (.monOff 8 7) ∧
    reads .C 0x1C614D91 = some (.nodePost 5 6 7) ∧
    reads .C 0x00614E91 = some (.nodeDone 5 6) ∧
    reads .C 0x21300595 = some (.srr 5 531) ∧
    reads .C 0x00000881 = some (.enq 1 0 false) ∧
    reads .C 0x0544 = some (.take 1) ∧
    reads .C 0x0D44 = some (.take 3) ∧
    reads .C 0x04A4 = some (.join 1) ∧
    reads .C 0x0CA4 = some (.join 3) ∧
    reads .C 0x0044 = some .retire ∧
    reads .C 0x08C4 = some (.bar 2) := by decide

/-- Worked encodings of 03 R90; 04; 05 R126-R148; 08 R206; 09 R230; 12 R317-R321; 14 R331; 16 R359, R367; 19 R430; 21 R454; 23 R473. -/
theorem test_decode_C4 :
    reads .C 0x08E4 = some (.bara 2) ∧
    reads .C 0x0904 = some (.barw 2) ∧
    reads .C 0x0524 = some (.give 1) ∧
    reads .C 0x0282 = some (.call 0 2) ∧
    reads .C 0x2086 = some (.addiCompact 8 4) ∧
    reads .C 0x17A6 = some (.addiCompact 5 29) ∧
    reads .C 0x24804405 = some (.cmpLtu 1 8 9) ∧
    reads .C 0x0502 = some (.br 1 1) ∧
    reads .C 0x1D02 = some (.br 7 1) ∧
    reads .C 0x00124A55 = some (.stW 10 9 1 0) ∧
    reads .C 0x0002C227 = some (.cmpiLt 2 11 0) ∧
    reads .C 0x2C02C209 = some (.sel 11 2 0 11) := by decide

/-- Worked encodings of 03 R90; 04; 05 R126-R148; 08 R206; 09 R230; 12 R317-R321; 14 R331; 16 R359, R367; 19 R430; 21 R454; 23 R473. -/
theorem test_decode_C5 :
    reads .C 0x2CA28003 = some (.add 10 10 11) ∧
    reads .C 0x000F8033 = some (.pbrr 0 62 0) ∧
    reads .C 0x00001131 = some (.pbr 1 4) ∧
    reads .C 0x00A00783 = some (.fork 10 7) ∧
    reads .C 0x01020911 = some (.addi 9 8 16) ∧
    reads .C 0x64014461 = some (.fldW 4 5 0 (.rlx .speculative) 3) ∧
    reads .C 0x5CF1496B = some (.famoD 9 5 15 (.acqrel .module) .cas) ∧
    reads .C 0x03E2CC1B = some (.shri 12 11 62) ∧
    reads .C 0x00130C13 = some (.andi 12 12 1) := by decide

/-- Worked encodings of 03 R90; 07. -/
theorem test_decode_V1 :
    reads .V 0xAEAA4009 = some (.vfmaF32 false 0 41 42 43) ∧
    reads .V 0x86B00009 = some (.vfmaF32 false 0 0 43 33) ∧
    reads .V 0x8411C003 = some (.vadd .f32 true 3 1 33) ∧
    reads .V 0x20986D31 = some (.vld true 4 2 1 3 (tok 3 false true)) ∧
    reads .V 0x090A4039 = some (.vgath 5 4 1 2 (tok 0 false false)) ∧
    reads .V 0x10204921 = some (.vsacc true 4 1 2 4) ∧
    reads .V 0x0E10023F = some (.vpass true 1 33 (tok 0 true false)) ∧
    reads .V 0x0002 = some .vnop ∧
    reads .V 0x0033D027 = some (.vcvtBf16F32 .tz true 7 3) ∧
    reads .V 0x3C004F29 = some (.vlim true 9 .f16 0x3C00) ∧
    reads .V 0x1421C707 = some (.vrot .f32 true 3 2 5) ∧
    reads .V 0x3500003D = some (.vrecv true 6 2 (tok 0 false false)) := by decide

/-- Worked encodings of 03 R90; 07. -/
theorem test_decode_V2 :
    reads .V 0x8E300203 = some (.vmul .f32 false 0 35 35) ∧
    reads .V 0xA2114007 = some (.vrsum .f32 true 2 33 40) ∧
    reads .V 0x12402235 = some (.vst 0 2 9 0 1 (tok 0 true false)) ∧
    reads .V 0x02002131 = some (.vld false 0 8 0 1 (tok 0 false true)) := by decide

/-- Worked encodings of 10. -/
theorem test_decode_M :
    reads .M 0x00002009 = some (.mgo 0 1 (tok 0 false false)) ∧
    reads .M 0x00500005 = some (.mcfg .q8 2 false (tok 0 false false)) ∧
    reads .M 0x35160013 = some (.mrd true 6 1 5 1 (tok 0 false false)) ∧
    reads .M 0x0000010D = some (.mclr 0 (tok 0 false true)) ∧
    reads .M 0x0000000B = some (.mwait (tok 0 false false)) ∧
    reads .M 0x4000220F = some (.memit 16 0 0 1 (tok 0 true false)) := by decide

/-- Worked encodings of 11. -/
theorem test_decode_L :
    reads .L 0x01000209 = some (.kwait 1 (tok 0 true false)) ∧
    reads .L 0x20002105 = some (.ldt 8 0 0 1 (tok 0 false true)) := by decide

/-- Worked encodings of 11 R268, its format and fields written out. -/
theorem test_decode_S :
    reads .S 0x20002003 = some (.stc 8 0 1 (tok 0 false false)) ∧
    reads .S 0x01000209 = some (.kwait 1 (tok 0 true false)) := by decide

/-- Worked encodings of 08. -/
theorem test_decode_A :
    reads .A 0x28002103 = some (.aopen 10 .add .f32 1 (tok 0 false true)) ∧
    reads .A 0x08800505 = some (.apush 1 2 (tok 1 false true)) ∧
    reads .A 0x00000209 = some (.aclose (tok 0 true false)) := by decide

/-- Worked encodings of 12 R310; 17 R396. -/
theorem test_decode_F :
    reads .F 0x20902003 = some (.fsend 8 9 1 (tok 0 false false)) ∧
    reads .F 0x28B02005 = some (.frecv 10 11 1 (tok 0 false false)) ∧
    reads .F 0x10500007 = some (.fbind 4 5 (tok 0 false false)) ∧
    reads .F 0x20902011 = some (.collLoad 8 9 1 (tok 0 false false)) ∧
    reads .F 0x28902013 = some (.collRun 10 9 1 (tok 0 false false)) ∧
    reads .F 0x2C902015 = some (.collWait 11 9 1 (tok 0 false false)) ∧
    reads .F 0x00900017 = some (.collAbort 9 (tok 0 false false)) ∧
    reads .F 0x28B0000F = some (.flowStat 10 11 0 (tok 0 false false)) ∧
    reads .F 0x3000000B = some (.flowDef 12 0 (tok 0 false false)) ∧
    reads .F 0x3000000D = some (.flowDel 12 (tok 0 false false)) ∧
    reads .F 0x00000009 = some (.funbind (tok 0 false false)) := by decide

/-- Altered encodings of 03 R90: VADD with sb 48, and a VLD that pops from its own stream; a halfword of zero; a word cut off. -/
theorem test_decode_illegal : whyNot .V [0xC003, 0xC011] = some 3 ∧ whyNot .V [0x6531, 0x2098] = some 4 ∧ whyNot .C [0] = some 1 ∧
    whyNot .C [0x4405] = some 7 := by decide

/-! ## C words: steps, and states that meet the hypotheses of the statements -/

/-- The state after a word. -/
def after (i : Instr) (s : State) : State :=
  match exec i s with
  | .next t => t
  | _ => {}

/-- Whether a word answers a next state of which a test holds. -/
def holds (i : Instr) (s : State) (f : State → Bool) : Bool :=
  match exec i s with
  | .next t => f t
  | _ => false

/-- R127: sums wrap, MULH of -1 and -1 is 0, SAR keeps the sign, the count of a shift is its low six bits. -/
theorem test_arithmetic : gAfter (.add 9 3 1) (one thread) 9 = some 6 ∧ gAfter (.mulh 9 3 3) (one thread) 9 = some 0 ∧
    gAfter (.mulhu 9 3 3) (one thread) 9 = some (BitVec.ofInt 64 (-2)) ∧ gAfter (.sar 9 3 4) (one thread) 9 = some (BitVec.allOnes 64) ∧
    gAfter (.shl 9 1 3) (one thread) 9 = some (BitVec.ofNat 64 (2 ^ 63)) ∧ gAfter (.add 0 3 1) (one thread) 0 = some 0 := by decide

/-- The division table of R130. -/
theorem test_division : gAfter (.div 9 10 11) (one { thread with c := { g := [(10, -7), (11, 2)] } }) 9 = some (-3) ∧
    gAfter (.divu 9 10 11) (one { thread with c := { g := [(10, -7), (11, 2)] } }) 9 = some 0x7FFFFFFFFFFFFFFC ∧
    gAfter (.rem 9 10 11) (one { thread with c := { g := [(10, -7), (11, 2)] } }) 9 = some (-1) ∧
    gAfter (.div 9 10 11) (one { thread with c := { g := [(10, BitVec.ofNat 64 (2 ^ 63)), (11, -1)] } }) 9 = some (BitVec.ofNat 64 (2 ^ 63)) ∧
    gAfter (.remu 9 1 0) (one thread) 9 = some 7 := by decide

theorem meets_RegisterWords : arith (thr (one thread) 0) (.add 9 3 1) = some (9, 6) ∧
    logic (thr (one thread) 0) (.ror 0 1 4) = some (0, BitVec.ofNat 64 (7 * 2)) ∧ occupied (one thread) 0 = true := by decide

theorem meets_ImmediateWords : immediate (thr (one thread) 0) (.shri 9 3 63) = some (9, 1) ∧
    immediate (thr (one thread) 0) (.addpc 0 (BitVec.ofInt 12 (-2048))) = some (0, BitVec.ofInt 64 (-2038)) ∧ occupied (one thread) 0 = true := by decide

/-- A thread whose sr.ctl.dzen is set. -/
def dzen : Thread := { thread with sr := { thread.sr with dzen := true } }

theorem meets_DivideWords : divide (thr (one thread) 0) (.div 9 1 0) = some (9, 0, BitVec.allOnes 64) ∧ (thr (one thread) 0).sr.dzen = false ∧
    divide (thr (one dzen) 0) (.div 9 3 1) = some (9, 7, 0) ∧ divide (thr (one dzen) 0) (.remu 9 1 0) = some (9, 0, 7) ∧
    (thr (one dzen) 0).sr.dzen = true ∧ (one dzen).strm = 0 ∧ (thr (one dzen) 0).frz = none ∧ (thr (one dzen) 0).replay.mode = 0 ∧
    occupied (one dzen) 0 = true := by decide

theorem meets_PredicateWords : predicate (thr (one thread) 0) (.cmpiLtu 1 1 (BitVec.ofInt 12 (-1))) = some (1, BitVec.allOnes 64) ∧
    predicate (thr (one thread) 0) (.pnot 0 1) = some (0, ~~~1) ∧ (thr (one thread) 0).pEng = [] ∧ occupied (one thread) 0 = true := by decide

/-- The returns of the worked program of 05: a CALL at 12 and the PBRR that prepares its return. -/
theorem test_call : holds (.call 0 2) (one { thread with c := { t := [(2, 20)], pc := 12 } }) (fun t => (thr t 0).c.pc == 20 && gOf (thr t 0) 62 == 13) = true ∧
    holds (.pbrr 0 62 0) (one { thread with c := { g := [(62, 13)], pc := 23 } }) (fun t => tOf (thr t 0) 0 == 13 && (thr t 0).c.pc == 25) = true := by decide

theorem meets_Branches : occupied (one thread) 0 = true ∧ (pOf (thr (one thread) 0) 2).getLsbD 0 = false ∧
    (pOf (thr (one thread) 0) 0).getLsbD 0 = true ∧ look 0 (thr (one thread) 0).tReady 3 ≤ (one thread).clock.now := by decide

/-- The module with bytes at the end of the thread's scratchpad. -/
def bytes : State := { one thread with tiles := [(0, { mem := [(8184, 0xFE), (8191, 0x80)] })] }

/-- The same module with a word of the scratchpad poisoned. -/
def spoilt (w : Nat) : State := { bytes with tiles := [(0, { mem := [(8184, 0xFE), (8191, 0x80)], poison := [w] })] }

theorem test_local : gAfter (.ldB 9 4 0 0) bytes 9 = some (BitVec.ofInt 64 (-128)) ∧ gAfter (.lduB 9 4 0 0) bytes 9 = some 128 ∧
    gAfter (.ldD 9 6 0 0) bytes 9 = some 0x80000000000000FE ∧
    holds (.stH 3 4 0 (BitVec.ofInt 8 (-1))) { bytes with threads := [(0, { thread with c := { g := [(3, 0x1234), (4, 8190)] } })] }
      (fun t => readBytes (tile t 0).mem 8188 4 == [0x34, 0x12, 0, 0x80]) = true := by decide

theorem clean_none (t : Tile) (h : t.poison = []) (a n : Nat) : Clean t a n := by
  intro x _ _
  simp [h]

theorem meets_LocalLoads : load (.ldD 9 6 15 0) = some (9, 6, 15, 0, 8, true) ∧ occupied bytes 0 = true ∧ Free (thr bytes 0) 15 ∧
    accessAddr (thr bytes 0) 6 8 0 = 8184 ∧ Allocated (thr bytes 0) 8184 8 ∧ Clean (tile bytes 0) 8184 8 :=
  ⟨by decide, by decide, by unfold Free; decide, by decide, by unfold Allocated; decide, clean_none _ (by decide) _ _⟩

theorem meets_LocalStores : store (.stB 3 2 0 0) = some (3, 2, 0, 0, 1) ∧ occupied bytes 0 = true ∧ Free (thr bytes 0) 0 ∧
    accessAddr (thr bytes 0) 2 1 0 = 4096 ∧ Allocated (thr bytes 0) 4096 1 ∧ 4096 / 8 * 8 ∉ (tile bytes 0).poison ∧
    4096 / 8 * 8 ∈ (tile (spoilt 4096) 0).poison ∧ (1 : Nat) ≠ 8 ∧ store (.stD 3 2 0 0) = some (3, 2, 0, 0, 8) ∧ occupied (spoilt 4096) 0 = true :=
  ⟨by decide, by decide, by unfold Free; decide, by decide, by unfold Allocated; decide, by decide, by decide, by decide, by decide, by decide⟩

/-- R203: a byte stored to a poisoned word is discarded and counted, and a whole word clears the poison. -/
theorem test_poison : holds (.stB 3 2 0 0) (spoilt 4096) (fun t => readByte (tile t 0).mem 4096 == 0 && (tile t 0).pdrop == 1 && (tile t 0).poison == [4096]) = true ∧
    holds (.stD 3 2 0 0) (spoilt 4096) (fun t => readByte (tile t 0).mem 4103 == 0xFF && (tile t 0).poison == []) = true := by decide

theorem meets_LocalAccessFaults : accessAddr (thr bytes 0) 4 2 0 % 2 ≠ 0 ∧ accessAddr (thr bytes 0) 6 8 1 % 8 = 0 ∧
    ¬Allocated (thr bytes 0) (accessAddr (thr bytes 0) 6 8 1) 8 ∧ Free (thr bytes 0) 0 ∧ bytes.strm = 0 ∧ (thr bytes 0).frz = none ∧
    (thr bytes 0).replay.mode = 0 ∧ occupied bytes 0 = true ∧ accessAddr (thr (spoilt 8184) 0) 6 8 0 = 8184 ∧ Allocated (thr (spoilt 8184) 0) 8184 8 ∧
    ¬Clean (tile (spoilt 8184) 0) 8184 8 ∧ store (.ldD 9 6 0 0) = none := by
  refine ⟨by decide, by decide, by unfold Allocated; decide, by unfold Free; decide, by decide, by decide, by decide, by decide, by decide,
    by unfold Allocated; decide, ?_, by decide⟩
  intro h
  exact h 8184 (by decide) (by decide) (by decide)

/-- R140, R141: a load just past the allocation raises the local-bounds fault, cause 2, with its address. -/
theorem test_bounds : holds (.ldD 9 6 0 1) bytes (fun t => match (thr t 0).frz with
    | some z => (z.fault.map fun f => (f.code, f.lo, f.addr)) == some (3, 2, 8192) && z.cut == 1
    | none => false) = true := by decide

/-- A thread to which a debugger is attached. -/
def watched : Thread := { thread with sr := { thread.sr with dbg := true } }

theorem meets_TrapAndBreak : occupied (one thread) 0 = true ∧ (thr (one thread) 0).frz = none ∧ (thr (one thread) 0).replay.mode ≠ 2 ∧
    (thr (one thread) 0).sr.dbg = false ∧ (thr (one watched) 0).sr.dbg = true ∧ occupied (one watched) 0 = true ∧ (thr (one watched) 0).frz = none := by decide

/-- R148: TRAP retires, and its status word holds the code. -/
theorem test_trap : holds (.trap 42) (one thread) (fun t => (thr t 0).c.pc == 12 && match (thr t 0).frz with
    | some z => (z.fault.map fun f => (f.code, f.defer, f.lo)) == some (11, true, 42)
    | none => false) = true := by decide

theorem meets_PlainSystemWords : occupied (one thread) 0 = true := by decide

theorem meets_SystemRegisterReads : occupied (one thread) 0 = true ∧ (thr (one thread) 0).replay.mode = 0 ∧ sysReg (one thread) 0 4 = some 4096 ∧
    special (one thread) (thr (one thread) 0) 0x100 = some 0 ∧ sysReg (one thread) 0 3 = none ∧ (one thread).strm = 0 ∧ (thr (one thread) 0).frz = none := by decide

theorem meets_SystemRegisterWrites : occupied (one thread) 0 = true ∧ (sysReg (one thread) 0 8).isSome ∧ (sysReg (one thread) 0 0x041).isSome ∧
    (sysReg (one thread) 0 0x208).isSome ∧ (sysReg (one thread) 0 0x20F).isSome := by decide

/-- SRR and SRW of sr.ctl: only dzen is written (R125, R126). -/
theorem test_ctl : holds (.srw 8 3) (one thread) (fun t => (thr t 0).sr.dzen && !(thr t 0).sr.dbg) = true ∧ gAfter (.srr 9 8) (one dzen) 9 = some 1 := by decide

theorem meets_QueuePushes : occupied (one thread) 0 = true ∧ isTiller 0 = false ∧ Room (one thread) 6 ∧ Room (one thread) 1 := by
  unfold Room; decide

/-- R101: FORK g10, s=VML takes its offsets from consecutive registers. -/
theorem test_fork : holds (.fork 10 7) (one { thread with c := { g := [(10, 4), (11, 8), (12, 12)] } })
    (fun t => [1, 2, 3, 4].map (fun st => (engOf (thr t 0) st).queue.map QEntry.off) == [[4], [8], [12], []]) = true := by decide

theorem meets_JoinAndTokens : occupied (one thread) 0 = true ∧ isTiller 0 = false ∧
    fifo (thr (one thread) 0) 0 6 + rsvd (thr (one thread) 0) 0 6 + (if look 0 (thr (one thread) 0).pops 6 = (one thread).clock.now / 2 + 1 then 1 else 0) < 16 ∧
    0 < fifo (thr (one { thread with fifo := [(7, 1)] }) 0) 1 0 := by decide

theorem meets_JoinAndTokens_idle : Idle (thr (one thread) 0) 1 := by simp [Idle]; decide

theorem meets_BarrierWords : occupied (one thread) 0 = true ∧ isTiller 0 = false ∧ 7 ∉ (thr (one thread) 0).arrivals ∧ (thr (one thread) 0).far = [] ∧
    acquiring (thr (one thread) 0) = false ∧ (thr (one thread) 0).cprog = 0 ∧ (find (one thread).teams (thr (one thread) 0).id.team).isSome = true ∧
    (thr (one { thread with cprog := 2 }) 0).cprog ≠ 0 ∧ (thr (one { thread with cprog := 2 }) 0).cprog ≠ phaseNo (one { thread with cprog := 2 }) 0 7 := by decide

theorem ended_small : Ended (one thread) := by
  refine ⟨?_, by decide, by decide, by decide, by decide, .inl (by decide), by decide, by decide, by decide, by decide, by decide⟩
  intro st _ _
  simp [Idle, engOf, thr, one, look, thread, State.cur]

theorem meets_RetireReleasesContext : Ended (one thread) ∧ isTiller 0 = false ∧ occupied (one thread) 0 = true ∧ isTiller 5 = true ∧ occupied { threads := [(5, {})], cur := 5 } 5 = true ∧
    (thr { threads := [(5, {})], cur := 5 } 5).far = [] ∧ (tile { threads := [(5, {})], cur := 5 } (tileOf 5)).pendList = [] ∧
    (thr { threads := [(5, { tillerOf := some 0, capValid := true })], cur := 5 } 5).tillerOf = some 0 := ⟨ended_small, by decide⟩

/-! ## Far words, tags, handles, pages, monitors, nodes, frozen threads -/

/-- The module with the page at 4096 of process 0 in the tile's translation cache, readable and writable or not. -/
def cached (r w : Bool) : State :=
  { one thread with tiles := [(0, { cache := [{ pasid := 0, base := 4096, size := 4096, target := 0x5000, r := r, w := w }] })] }

/-- The entry of that page. -/
def entry (r w : Bool) : XEntry := { pasid := 0, base := 4096, size := 4096, target := 0x5000, r := r, w := w }

/-- The module of which that page holds code. -/
def coded : State := { cached true true with parts := [(0, { images := [(1, { codePages := [1] })] })] }

theorem far_free (t : Thread) (h : t.far = []) (h1 : t.replay.mode = 0) (h2 : acquiring t = false) (s : State) (hs : thr s s.cur = t) (o : Order) :
    FarFree s o := by
  subst hs
  simp [FarFree, h, h1, h2]

/-- The request of an FLD.W of address 4096 by the small thread. -/
def ask : FarReq := { kind := 0, size := 4, va := 4096, reg := 9, nr := 1, cls := 15, ord := .acq .module }

/-- The request of a FAMO.D of address 4096 by the small thread. -/
def askAdd : FarReq := { kind := 2, size := 8, va := 4096, op := .add, b := 7, reg := 1, cls := 0, ord := .rlx .quantum }

theorem meets_FarWordsIssue : request (thr (cached true true) 0) (.fldW 9 2 15 (.acq .module) 1) = some ask ∧ ask.va % ask.size = 0 ∧
    CacheHit (cached true true) 4096 (entry true true) ∧ FarFree (cached true true) ask.ord ∧
    homeOf (cached true true) 0 0x5000 4 = .ok (.host 0x5000) ∧ (entry true true).r = true ∧
    request (thr (cached true true) 0) (.famoD 1 2 0 (.rlx .quantum) .add) = some askAdd ∧ (entry true true).w = true ∧
    isCodePage (cached true true) 0 0 1 = false ∧ (part (cached true true) 0).migs = [] ∧ carried askAdd.op = true ∧
    CacheHit (cached false true) 4096 (entry false true) ∧ (entry false true).r = false :=
  ⟨by decide, by decide, by unfold CacheHit; decide, far_free _ (by decide) (by decide) (by decide) _ rfl _, rfl, by decide, by decide, by decide,
    by decide, by decide, by decide, by unfold CacheHit; decide, by decide⟩

/-- The request of a FAMO.W whose operation the host link does not carry. -/
def askAnd : FarReq := { kind := 2, size := 4, va := 4096, op := .band, b := 7, reg := 1 }

theorem meets_FarAddressFaults : (∃ r, request (thr (cached true true) 0) (.fstD 9 1 0 (.rlx .unpaired)) = some r ∧ r.va % r.size ≠ 0) ∧
    request (thr coded 0) (.famoW 1 2 0 (.rlx .unpaired) .band) = some askAnd ∧ isCodePage coded 0 0 1 = true ∧ CacheHit coded 4096 (entry true true) ∧
    FarFree coded askAnd.ord ∧ isCodePage (cached true true) 0 0 1 = false ∧ homeOf (cached true true) 0 0x5000 4 = .ok (.host 0x5000) ∧
    carried askAnd.op = false ∧ (thr coded 0).frz = none ∧ coded.strm = 0 :=
  ⟨⟨_, rfl, by decide⟩, by decide, by decide, by unfold CacheHit; decide, far_free _ (by decide) (by decide) (by decide) _ rfl _, by decide, rfl,
    by decide, by decide, by decide⟩

/-- A request of a kind to a home. -/
def sentTo (h : Home) (kind : Nat) : FarReq := { kind := kind, size := 4, va := 4096, b := 5, reg := 9, nr := 1, home := some h }

/-- A request of a kind to host memory at 0x5000. -/
def sent (kind : Nat) : FarReq := sentTo (.host 0x5000) kind

/-- The module with one request of a kind outstanding, and 3 in host memory at 0x5000. -/
def asking (r : FarReq) : State := { one { thread with far := [r] } with host := [(0x5000, 3)], arg := { a := 0, b := 0 } }

/-- The one request of the module stands before every other, whatever its home and its kind. -/
theorem foremost_asking (r : FarReq) (h : Home) (hh : r.home = some h) (hs : r.size = 4) (hd : r.done = false) (hn : r.sent = false) (hl : r.held = 0) :
    Foremost (asking r) 0 0 r h := by
  refine ⟨rfl, rfl, hd, hn, hl, hh, .inl hs, by simp, ?_⟩
  intro u f hf
  refine Or.inr ?_
  by_cases hu : u = 0
  · subst hu
    simp [asking, one, thr, look] at hf
    simp [hf]
  · have h0 : (0 : Nat) ≠ u := fun h => hu h.symm
    simp [asking, one, thr, look, h0] at hf

theorem meets_FarRequests (k : Nat) : Foremost (asking (sent k)) 0 0 (sent k) (place true 0x5000) ∧
    Foremost (asking (sentTo (.hbm 64) k)) 0 0 (sentTo (.hbm 64) k) (place false 64) ∧ Foremost (asking (sentTo (.peer 3 64) k)) 0 0 (sentTo (.peer 3 64) k) (.peer 3 64) ∧
    (asking (sent k)).hostPoison = [] ∧ (asking (sent k)).hbm.poison = [] ∧ hasUse .speculative (sent k) = false ∧ hasUse .commutative (sent k) = false ∧
    hasUse .quantum (sent k) = false ∧ hasUse .speculative { sent 0 with ord := .rlx .speculative } = true ∧ hasUse .commutative { sent 2 with ord := .rlx .commutative } = true :=
  ⟨foremost_asking _ _ rfl rfl rfl rfl rfl, foremost_asking _ _ rfl rfl rfl rfl rfl, foremost_asking _ _ rfl rfl rfl rfl rfl, rfl, rfl, rfl, rfl, rfl, rfl, rfl⟩

/-- R320, R382: a store reaches HBM; one to a peer waits at the hub, where no port carries it, and then for its answer. -/
theorem test_far_homes : holds .farRequest (asking (sentTo (.hbm 64) 1)) (fun t => readBytes t.hbm.mem 64 4 == [5, 0, 0, 0] && t.host == [(0x5000, 3)]) = true ∧
    holds .farRequest (asking (sentTo (.peer 3 64) 1)) (fun t => t.hub.held.length == 1 && (thr t 0).far.map (fun r => (r.sent, r.done)) == [(true, false)]) = true := by
  decide +kernel

/-- The same request, performed, with a value or with poison. -/
def performed (kind : Nat) (p : Bool) : FarReq := { sent kind with done := true, value := 3, poison := p }

theorem meets_FarRequests_reply : (thr (asking (performed 0 false)) 0).far[0]? = some (performed 0 false) ∧ (performed 1 false).done = true ∧
    (performed 1 false).logs = [] ∧ (performed 1 false).forced = none ∧ (thr (asking (performed 0 true)) 0).frz = none ∧
    (thr (asking (performed 0 true)) 0).dying = false ∧ (thr (asking (performed 0 true)) 0).pEng = [] ∧
    (thr (asking (performed 0 true)) 0).replay.mode = 0 ∧ occupied (asking (performed 0 true)) 0 = true := by decide

/-- R321: FAMO add to host memory stores the sum and answers the old value. -/
theorem test_famo : holds .farRequest (asking (sent 2)) (fun t => readBytes t.host 0x5000 4 == [8, 0, 0, 0] &&
    (thr t 0).far.map (fun r => (r.done, r.value)) == [(true, 3)]) = true := by decide

/-- R319, R357: the reply of an FLD writes g and clears its residency predicate. -/
theorem test_reply : holds .farReply (asking (performed 0 false)) (fun t => gOf (thr t 0) 9 == 3 && pOf (thr t 0) 1 == 0 && (thr t 0).far.isEmpty) = true := by decide

theorem meets_Fences : occupied (one thread) 0 = true ∧ acquiring (thr (one thread) 0) = false ∧ (thr (one thread) 0).far = [] ∧
    (thr (asking (sent 1)) 0).far = [sent 1] ∧ (sent 1).done = false ∧ (1 : Nat).testBit (sent 1).cls = true ∧ hasUse .speculative (sent 1) = false ∧
    acquiring (thr (asking (sent 1)) 0) = false := by decide

/-- A thread whose tag table holds key 7 with slot 5. -/
def tagged : Thread := { thread with tags := [(7, 5)] }

/-- A thread whose tag table is full. -/
def full : Thread := { thread with tags := (upFrom 100 256).map fun k => (k, 0) }

theorem meets_TagWords : occupied (one tagged) 0 = true ∧ isTiller 0 = false ∧ find (thr (one tagged) 0).tags (gOf (thr (one tagged) 0) 1).toNat = some 5 ∧
    find (thr (one tagged) 0).tags (gOf (thr (one tagged) 0) 2).toNat = none ∧ (thr (one tagged) 0).tags.length < 256 ∧
    256 ≤ (thr (one full) 0).tags.length ∧ find (thr (one full) 0).tags (gOf (thr (one full) 0) 1).toNat = none := by decide +kernel

/-- R206: TAG.SET of a present key answers the old slot, and TAG.LOOK then the new one; TAG.CLR of an absent key -1. -/
theorem test_tags : gAfter (.tagSet 9 1 4) (one tagged) 9 = some 5 ∧ gAfter (.tagLook 9 1) (after (.tagSet 9 1 4) (one tagged)) 9 = some 8191 ∧
    gAfter (.tagClr 9 2) (one tagged) 9 = some (-1) ∧ gAfter (.tagClrAll 9) (one tagged) 9 = some 1 := by decide

/-- A record of a row-major FP32 tensor of 2 by 3 in space 0 (09 R219). -/
def rec23 : List Byte :=
  toBytes 8 0x10000 ++ toBytes 4 2 ++ toBytes 4 3 ++ toBytes 4 0 ++ toBytes 4 0 ++ toBytes 1 0 ++ toBytes 1 2 ++ toBytes 1 0 ++ toBytes 1 0 ++
  toBytes 2 0 ++ toBytes 1 0 ++ toBytes 1 0 ++ toBytes 1 0 ++ toBytes 1 0 ++ toBytes 2 0 ++ toBytes 28 0

/-- The module with a record at 4096 and a handle under a number. -/
def handled (bs : List Byte) (h : Nat) (e : Handle) : State :=
  { one thread with tiles := [(0, { mem := writeBytes [] 4096 bs })], parts := [(0, { handles := [(h, e)], gens := [(h, 3)] })] }

/-- A good entry. -/
def good : Handle := { hrec := parseHRec rec23 }

/-- A relayout record to a column-major tensor, without a copy token. -/
def relay : List Byte := toBytes 8 0x20000 ++ toBytes 1 0 ++ toBytes 1 1 ++ toBytes 2 0 ++ toBytes 2 0 ++ toBytes 1 255 ++ toBytes 17 0

theorem meets_HandleWords : occupied (handled rec23 7 good) 0 = true ∧ (find (handled rec23 7 good).parts 0).isSome = true ∧
    Clear (handled rec23 7 good) ∧ find (part (handled rec23 7 good) 0).handles 7 = some good ∧ find (part (handled rec23 7 good) 0).handles 8191 = none ∧
    Readable (handled rec23 7 good) 4096 64 ∧
    recordStatus (handled rec23 7 good) 0 (parseHRec (localBytes (handled rec23 7 good) 4096 64)) = none ∧
    recordStatus (handled relay 7 good) 0 (parseHRec (localBytes (handled relay 7 good) 4096 64)) = some 3 ∧
    recordStatus (handled relay 7 good) 0 (relayRec good.hrec (localBytes (handled relay 7 good) 4096 32)) = none ∧
    readByte (tile (handled relay 7 good) 0).mem (4096 + 14) = 255 ∧ good.conv = none ∧ good.failed = false ∧ good.scalerefs = 0 := by
  refine ⟨by decide, by decide, ⟨by unfold Free; decide, by decide⟩, by decide, by decide, ⟨by decide, by unfold Allocated; decide, clean_none _ (by decide) _ _⟩,
    by decide, by decide, by decide, by decide, by decide, by decide, by decide⟩

theorem meets_HandleDrop : find (part (handled rec23 7 good) 0).handles 7 = some good ∧ good.refs = 0 ∧ good.conv = none ∧ good.scalerefs = 0 ∧
    find (part (handled rec23 7 { good with refs := 1 }) 0).handles 7 = some { good with refs := 1 } ∧
    find (part (handled rec23 7 { good with scalerefs := 1 }) 0).handles 7 = some { good with scalerefs := 1 } ∧
    find (part (handled rec23 7 good) 0).handles 4096 = none ∧ Clear (handled rec23 7 good) ∧ occupied (handled rec23 7 good) 0 = true :=
  ⟨by decide, by decide, by decide, by decide, by decide, by decide, by decide, ⟨by unfold Free; decide, by decide⟩, by decide⟩

/-- R231, R233, R234: a definition, its status word (live, format FP32, two dimensions), and a drop. -/
theorem test_handles : gAfter (.hndDef 9 2 3) (handled rec23 7 good) 9 = some (-1) ∧ gAfter (.hndDef 9 2 1) (handled rec23 7 good) 9 = some (-2) ∧
    gAfter (.hndDef 9 2 1) (handled rec23 8 good) 9 = some 0 ∧ gAfter (.hndQry 9 1 0) (handled rec23 7 good) 9 = some 0x8000000100000000 ∧
    gAfter (.hndDrop 9 1) (handled rec23 7 { good with scalerefs := 1 }) 9 = some (-9) ∧
    holds (.hndDrop 9 1) (handled rec23 7 good) (fun t => (part t 0).handles.isEmpty) = true := by decide +kernel

/-- A thread with operands for PAGE.REQ and MIGRATE. -/
def paging : Thread := { thread with c := { g := [(2, 4096), (4, 8191), (10, 1), (11, 257), (12, 65), (13, 128)] } }

/-- A partition whose migration queue is full. -/
def busy : Partition := { migs := List.replicate 256 {} }

theorem meets_PageRequestsAndMigrations : occupied (one paging) 0 = true ∧ (thr (one paging) 0).replay.mode = 0 ∧ (thr (one paging) 0).cprog = 0 ∧
    (thr (one paging) 0).id.vf ∉ (one paging).refusedVf ∧ pagePending (die (one paging) 0) 0 1 = false ∧ (die (one paging) 0).batch.length < 63 ∧
    pagePending (die { one paging with dies := [(0, { batch := [{ pasid := 0, page := 1 }] })] } 0) 0 1 = true ∧
    (gOf paging 0).toNat % 128 = 0 ∧ 64 < (gOf paging 12).toNat % 128 ∧ (gOf paging 13).getLsbD 7 = true ∧ 512 ≤ (gOf paging 4).toNat ∧
    gOf paging 11 = 257 ∧ (gOf paging 4).toNat % 4096 ≠ 0 ∧ (gOf paging 2).toNat % 4096 = 0 ∧ (find (one paging).parts 0).isSome = true ∧
    256 ≤ ((part { one paging with parts := [(0, busy)] } 0).migs.filter fun m => m.stage ≠ 6).length := by decide +kernel

/-- R359, R367: the statuses of a bad count and of a misaligned page, and the first command's number. -/
theorem test_paging : gAfter (.pageReq 9 2 12) (one paging) 9 = some (-1) ∧ gAfter (.pageReq 9 2 10) (one paging) 9 = some 1 ∧
    gAfter (.migrate 9 4 0) (one paging) 9 = some (-2) ∧ gAfter (.migrate 9 2 0) (one paging) 9 = some 1 := by decide

/-- An arm record of one FP32 field at 4160 (21 R456). -/
def arm (bs : List Byte) : State :=
  { one { thread with c := { g := [(2, 4096), (9, 90), (10, 2), (11, 0x102), (12, 0x202), (13, 0x402), (14, 0xB02), (15, 0x7F800000), (16, 4)] } } with
    tiles := [(0, { mem := writeBytes (writeBytes [] 4096 bs) 4160 (toBytes 4 0x3F800000) })] }

/-- The module whose monitor 2 is armed. -/
def armed : State := { arm [] with tiles := [(0, { mons := [(2, { owner := 0, count := 1, scan := 1, acc := 5 })] })] }

theorem meets_MonitorWords : occupied armed 0 = true ∧ isTiller 0 = false ∧ Free (thr armed 0) 15 ∧ Armed armed 2 { owner := 0, count := 1, scan := 1, acc := 5 } ∧
    4 ≤ (gOf (thr armed 0) 16).toNat ∧ gOf (thr armed 0) 16 &&& 0x103 ≠ gOf (thr armed 0) 16 ∧ gOf (thr armed 0) 2 &&& 0xF03 ≠ gOf (thr armed 0) 2 ∧
    gOf (thr armed 0) 11 &&& 0x103 = gOf (thr armed 0) 11 ∧ (gOf (thr armed 0) 11).getLsbD 8 = true ∧ (gOf (thr armed 0) 15).extractLsb' 23 8 = 255 ∧
    gOf (thr armed 0) 12 = BitVec.ofNat 64 (2 + 256 * 2) ∧ gOf (thr armed 0) 13 = BitVec.ofNat 64 (2 + 256 * 4) ∧
    gOf (thr armed 0) 14 = BitVec.ofNat 64 (2 + 256 * 11) ∧ find (tile (arm []) 0).mons 2 = none ∧
    find (tile { armed with tiles := [(0, { mons := [(2, { owner := 3 })] })] } 0).mons 2 = some { owner := 3 } ∧ Readable (arm []) 4096 32 :=
  ⟨by decide, by decide, by unfold Free; decide, by unfold Armed; decide, by decide, by decide, by decide, by decide, by decide, by decide, by decide, by decide,
    by decide, by decide, by decide, by decide, by unfold Allocated; decide, clean_none _ (by decide) _ _⟩

/-- The checks of an arm record (R458): one field passes; a stride smaller than a field does not. -/
theorem meets_MonitorWords_arm : armBad (thr (arm []) 0) (toBytes 8 4160 ++ toBytes 4 1 ++ toBytes 4 4 ++ toBytes 16 0)
      (parseArm 0 (toBytes 8 4160 ++ toBytes 4 1 ++ toBytes 4 4 ++ toBytes 16 0)) = false ∧
    (parseArm 0 (toBytes 8 4160 ++ toBytes 4 1 ++ toBytes 4 4 ++ toBytes 16 0)).count = 1 ∧
    armBad (thr (arm []) 0) (toBytes 32 0) (parseArm 0 (toBytes 32 0)) = true ∧
    Armed armed 2 { owner := 0, count := 1, scan := 1, acc := 5 } ∧ (gOf (thr armed 0) 10).toNat < 4 := by unfold Armed; decide +kernel

/-- R458, R459: the scan of a monitor of one field holds 1.0 in units of 2 to the power -149, and MON.ARM then answers 0; MON.OFF of
one not armed answers -2. -/
theorem test_monitor : holds (.monArm 9 2 10) (arm (toBytes 8 4160 ++ toBytes 4 1 ++ toBytes 4 4 ++ toBytes 16 0))
      (fun t => gOf (thr t 0) 9 == 90 && (find (tile t 0).mons 2).map (fun m => m.scan) == some 0 &&
        (let u := scanStep 0 2 t
         gOf (thr u 0) 9 == 0 && (find (tile u 0).mons 2).map (fun m => (m.acc, m.nf, m.scan)) == some (2 ^ 149, 0, 1))) = true ∧
    gAfter (.monOff 9 10) (arm []) 9 = some (-2) ∧ gAfter (.monRd 9 12) armed 9 = some 0 ∧ gAfter (.monRd 9 13) armed 9 = some 5 := by decide +kernel

/-- A record of a node of one tile (23 R470). -/
def nodeBytes : List Byte := toBytes 2 1 ++ toBytes 14 0 ++ toBytes 1 1 ++ toBytes 1 1 ++ toBytes 46 0

/-- The module whose thread belongs to a launch that may post one node beyond its first. -/
def posting (n : Node) (posted : Nat) : State :=
  { one { thread with c := { g := [(2, 4096), (10, 1), (11, 1024)] } } with
    tiles := [(0, { mem := writeBytes [] 4096 nodeBytes })], launches := [(0, { nnodes := 1, npost := 1, posted := posted, nodes := [(1, n)] })] }

theorem meets_NodeWords : occupied (posting {} 0) 0 = true ∧ isTiller 0 = false ∧ (thr (posting {} 0) 0).far = [] ∧ (thr (posting {} 0) 0).replay.mode = 0 ∧
    nodeRecGood (localBytes (posting {} 0) 4096 64) = true ∧ field (localBytes (posting {} 0) 4096 64) 20 2 = 0 ∧
    (gOf (thr (posting {} 0) 0) 10).toNat < 1024 ∧ 1024 ≤ (gOf (thr (posting {} 0) 0) 11).toNat ∧ (launch (posting {} 0) 0).posted < (launch (posting {} 0) 0).npost ∧
    (launch (posting {} 1) 0).npost ≤ (launch (posting {} 1) 0).posted ∧ (find (posting {} 0).launches 0).isSome = true ∧
    find (launch (posting { posted := true, awaiting := 2 } 0) 0).nodes 1 = some { posted := true, awaiting := 2 } ∧
    find (launch (posting {} 0) 0).nodes 1 = some {} ∧ Readable (posting {} 0) 4096 64 := by
  refine ⟨by decide, by decide, by decide, by decide, by decide +kernel, by decide +kernel, by decide, by decide, by decide, by decide, by decide, by decide, by decide,
    ⟨by decide, by unfold Allocated; decide, clean_none _ (by decide) _ _⟩⟩

/-- R473: a post takes the next node number; NODE.DONE of a node that was not posted answers -3. -/
theorem test_nodes : gAfter (.nodePost 9 2 10) (posting {} 0) 9 = some 1 ∧ gAfter (.nodePost 9 2 10) (posting {} 1) 9 = some (-1) ∧
    gAfter (.nodeDone 9 10) (posting {} 0) 9 = some (-3) := by decide +kernel

/-- A tile whose context 4 is a tiller of the frozen thread in context 0. -/
def tilled (z : Freeze) (x : Thread) : State :=
  { one thread with
    threads := [(0, { thread with frz := some z }), (4, { x with tillerOf := some 0, capValid := true })], cur := 4 }

/-- A closed freeze that context 4 serves. -/
def stopped : Freeze := { fault := some { code := 5 }, closed := true, tiller := some 4, record := List.replicate 16 0 }

/-- A tiller with selectors: g register 1, g register 0, system register 0x004, an engine position. -/
def tiller : Thread := { c := { g := [(6, sel 1 1 0), (7, sel 1 0 0), (8, sel 8 0 0), (9, sel 7 3 8191), (10, 8), (11, 7)] } }

theorem meets_FrozenThreadWords : Holds (tilled stopped tiller) 0 ∧ gOf tiller 6 = sel 1 1 0 ∧ item (thr (tilled stopped tiller) 0) 1 1 0 = some 7 ∧
    gOf tiller 9 = sel 7 3 8191 ∧ item (thr (tilled stopped tiller) 0) 7 3 8191 = some 0 ∧ (thr (tilled stopped tiller) 0).frz = some stopped ∧
    stopped.tiller = some (ctxOf 4) ∧ tileOf 0 = tileOf 4 ∧ (thr (tilled stopped tiller) 0).held = [] ∧ stopped.pending = 0 ∧
    (part (tilled stopped tiller) 0).colls = [] ∧ (thr (tilled stopped tiller) 4).far = [] ∧ isTiller 0 = false ∧ (thr (tilled stopped tiller) 0).dying = false ∧
    fatalNode (tilled stopped tiller) 0 = false ∧ 7 < (gOf tiller 10).toNat ∧ (gOf tiller 11).toNat ≤ 7 ∧ 7 ∉ (thr (tilled stopped tiller) 0).arrivals ∧
    (thr (tilled stopped tiller) 0).far = [] ∧ (part (tilled stopped tiller) 0).regs.escpol = false :=
  ⟨⟨by decide, by decide, by unfold Free; decide, by decide, by decide, by decide, by decide⟩, by decide, by decide, by decide, by decide +kernel, by decide, by decide,
    by decide, by decide, by decide, by decide, by decide, by decide, by decide, by decide, by decide, by decide, by decide, by decide, by decide⟩

/-- The other clauses: no valid capability; an application context; an arrival outstanding. -/
theorem meets_FrozenThreadWords_refused : occupied { one thread with threads := [(4, {})], cur := 4 } 4 = true ∧ isTiller 4 = true ∧
    (thr { one thread with threads := [(4, {})], cur := 4 } 4).capValid = false ∧ isTiller 0 = false ∧ (thr (one thread) 0).frz = none ∧
    (thr (one thread) 0).replay.mode = 0 ∧ 7 ∈ ({ thread with arrivals := [7] } : Thread).arrivals := by decide

/-- R432: FRZ.RD reads a frozen g register, FRZ.WR writes it; R90: in an application context the word faults with reason 9. -/
theorem test_frozen : gAfter (.frzRd 12 0 6) (tilled stopped tiller) 12 = some 7 ∧
    holds (.frzWr 11 0 6) (tilled stopped tiller) (fun t => gOf (thr t 0) 1 == 7 && gOf (thr t 4) 11 == 0) = true ∧
    holds (.frzRes 12 0) (tilled stopped tiller) (fun t => (thr t 0).frz.isNone && !(thr t 4).capValid) = true ∧
    holds (.frzEsc 1 0) (one thread) (fun t => ((thr t 0).frz.bind fun z => z.fault.map fun f => (f.code, f.lo)) == some (4, 9)) = true := by decide +kernel

/-! ## Engine words -/

/-- A call of four halfwords beyond its header, at its first word, run once. -/
def call : Call := { len := 6, mpc := 2 }

/-- The module with a stream's call under way in the engine that serves the thread. -/
def engine (st : Nat) (t : Thread) (c : Call) : State :=
  { one { t with eng := [(st, { queue := [c.entry], call := some c })] } with strm := st, parts := [(0, { cfg := { quads := [0], flowHi := 100, flowNe := 4, flowAb := 64 } })] }

theorem token_free (s : State) (h : s.strm < 7) : TokenFree s {} := by
  refine ⟨by decide, h, ?_, ?_⟩ <;> intro h1 <;> cases h1

/-- A thread with rows: v1 holds 1.0 and 2.0, v2 the lanes' numbers times 4 from 0, v3 all ones. -/
def rows : Thread :=
  { thread with
    c := { thread.c with g := [(2, 4096), (3, 4352), (5, 4094), (10, 4100)] }
    e := { v := [(1, 0x3F800000 :: List.replicate 63 0x40000000), (2, List.replicate 64 2), (3, List.replicate 64 0xFFFFFFFF)] } }

/-- The row in flight after a word, by some lanes. -/
def flying (i : Instr) (s : State) (ns : List Nat) : Option (List Lane) :=
  match exec i s with
  | .next t => ((thr t s.cur).fly.getLast?).map fun q => ns.map (lane q.row)
  | _ => none

/-- R176, R177, R179: 1.0 + 2.0 is 3.0, 2.0 * 2.0 - 1.0 is 3.0 with the constants c1 (1.0), and 2.0 / 2.0 is 1.0. -/
theorem test_floating : flying (.vadd .f32 true 4 1 41) (engine 1 rows call) [0, 1] = some [0x40000000, 0x40400000] ∧
    flying (.vfmsF32 true 4 1 1 41) (engine 1 rows call) [0, 1] = some [0, 0x40400000] ∧
    flying (.vcvtI32F32 .ne true 4 1) (engine 1 rows call) [0, 1] = some [1, 2] := by decide +kernel

/-- R180, R186, R187: integer lanes, a reduction, a permutation. -/
theorem test_integer : flying (.vaddI32 true 4 2 3) (engine 1 rows call) [0, 63] = some [1, 1] ∧
    flying (.vmulhu true 4 3 3) (engine 1 rows call) [5] = some [0xFFFFFFFE] ∧ flying (.vperm .i32 true 4 1 2) (engine 1 rows call) [0, 7] = some [0x40000000, 0x40000000] ∧
    flying (.vrot .f32 true 4 1 63) (engine 1 rows call) [0, 1] = some [0x40000000, 0x3F800000] ∧
    flying (.vrsum .i32 true 4 2 40) (engine 1 rows call) [9] = some [128] := by decide +kernel

theorem meets_FloatingVectorWords : (floating (thr (engine 1 rows call) 0) (.vadd .f32 true 31 1 47)).isSome ∧ occupied (engine 1 rows call) 0 = true ∧
    fused (.vfnmsF16 false 0 1 33 40) = some (.f16, false, 0, 1, 33, 40, true, true) ∧ (floating (thr (engine 1 rows call) 0) (.vlim true 9 .f16 0x3C00)).isSome :=
  ⟨rfl, by decide, rfl, rfl⟩

theorem meets_IntegerVectorWords : (integer (thr (engine 1 rows call) 0) (.vzps true 31 1 47)).isSome ∧ occupied (engine 1 rows call) 0 = true := by decide

theorem meets_PermuteVectorWords : (permute (thr (engine 1 rows call) 0) (.vgbc 2 true 31 1 47)).isSome ∧ occupied (engine 1 rows call) 0 = true ∧
    TokenFree (engine 1 { rows with fifo := [(3 * 7 + 1, 1)] } call) { chan := 3, push := true, pop := true } := by
  refine ⟨by decide, by decide, by decide, by decide, ?_, ?_⟩ <;> intro _ <;> decide

theorem meets_VectorCompares : (vCompare (thr (engine 1 rows call) 0) (.vcmpUn .f16 47 1 2)).isSome ∧ occupied (engine 1 rows call) 0 = true := by decide

theorem meets_RowLoadsAndStores : rowLoad (.vld true 4 3 1 15 {}) = some (true, 4, 3, 1, 15, {}, 4) ∧ rowStore (.vsth 7 4 3 2 0 {}) = some (7, 4, 3, 2, 0, {}, 2) ∧
    (engine 1 rows { call with iter := 1 }).strm = 1 ∧ rowAt (engine 1 rows { call with iter := 1 }) 3 1 = 4608 ∧ 4608 % 4 = 0 ∧
    Allocated (thr (engine 1 rows call) 0) 4608 256 ∧ Clean (tile (engine 1 rows call) 0) 4608 256 ∧ rowAt (engine 1 rows { call with iter := 1 }) 3 2 = 4480 ∧
    Allocated (thr (engine 1 rows call) 0) 4480 128 ∧ Clean (tile (engine 1 rows call) 0) 4480 128 ∧ TokenFree (engine 1 rows call) {} :=
  ⟨rfl, rfl, by decide, by decide, by decide, by unfold Allocated; decide, clean_none _ (by decide) _ _, by decide, by unfold Allocated; decide,
    clean_none _ (by decide) _ _, token_free _ (by decide)⟩

theorem meets_GathersAndScatters : (engOf (thr (engine 1 rows call) 0) 1).call = some call ∧ call.held = false ∧ call.prog = 0 ∧
    ((gOf (thr (engine 1 rows call) 0) 10).toNat + 4 * (lane (vOf (thr (engine 1 rows call) 0) 2) 0).toNat) % 2 ^ 64 = 4108 ∧ 4108 % 4 = 0 ∧
    Allocated (thr (engine 1 rows call) 0) 4108 4 ∧ Clean (tile (engine 1 rows call) 0) 4108 4 ∧
    ({ call with held := true, prog := 63, base := 4096, snapA := List.replicate 64 2 } : Call).prog = 63 ∧
    (4096 + 4 * (lane (List.replicate 64 2) 63).toNat) % 2 ^ 64 = 4104 ∧ Allocated (thr (engine 1 rows call) 0) 4104 4 :=
  ⟨by decide, by decide, by decide, by decide, by decide, by unfold Allocated; decide, clean_none _ (by decide) _ _, by decide, by decide, by unfold Allocated; decide⟩

/-- An element between the first and the last. -/
theorem meets_GathersAndScatters_middle : ({ call with held := true, prog := 5, base := 4096, snapA := List.replicate 64 2 } : Call).held = true ∧ 1 ≤ 5 ∧ 5 < 63 ∧
    (4096 + 4 * (lane (List.replicate 64 2) 5).toNat) % 2 ^ 64 = 4104 ∧ 4104 % 4 = 0 := by decide

/-- R192: a VSCAT's element 63 is written in its cycle, and the word retires a network cycle later. -/
theorem test_last_element : holds (.vscat 1 10 2 0 {}) (engine 1 rows { call with held := true, prog := 63, base := 4096, snapA := List.replicate 64 2, snapB := List.replicate 64 9 })
    (fun t => readByte (tile t 0).mem 4104 == 9 && (thr t 0).fly.map (fun r => (r.due, r.wb)) == [(1, false)]) = true := by decide +kernel

/-- The nest table of the worked program of 10: handles 1 and 2, two rows, two columns, twenty reduction elements, six levels of one. -/
def table : List Byte :=
  toBytes 2 1 ++ toBytes 2 2 ++ toBytes 1 2 ++ toBytes 1 2 ++ toBytes 2 20 ++ toBytes 24 0 ++ (upFrom 0 6).flatMap fun _ => toBytes 2 1 ++ toBytes 14 0

/-- The operands of that program: A is row-major at 4096 in the scratchpad, B in column slices at 0x01002000 in the stacked bank. -/
def operands : SMap Handle :=
  [(1, { hrec := { base := 4096, dims := [20, 2, 0, 0], fmt := 1, ndims := 2, space := 1 } }),
   (2, { hrec := { base := 0x01002000, dims := [2, 20, 0, 0], fmt := 1, ndims := 2, layout := 3, space := 1 } })]

/-- Its thread: a stacked bank of 12 KiB and the table loaded. -/
def matrix : Thread :=
  { thread with sr := { thread.sr with sbbase := 0x01001000, sbsize := 12288 }, shadow := { table := table, loaded := true } }

/-- The bytes of BF16 elements: A's first row, 2 to the power 24 and then nineteen times 1.0, and a column of B, all 1.0. -/
def rowA : List Byte := [0x80, 0x4B] ++ (upFrom 0 19).flatMap fun _ => [0x80, 0x3F]

/-- See `rowA`. -/
def colB : List Byte := (upFrom 0 20).flatMap fun _ => [0x80, 0x3F]

/-- The module at its MGO, with A's first element 2 to the power 24 and then 1.0, and B's columns all 1.0. -/
def nesting (t : Thread) (c : Call) : State :=
  { engine 2 t c with
    parts := [(0, { handles := operands })]
    tiles := [(0, { mem := writeBytes (writeBytes [] 4096 rowA) 0x01002000 colB })] }

theorem meets_MatrixSetupWords : occupied (nesting matrix call) 0 = true ∧ (nesting matrix call).strm = 2 ∧ TokenFree (nesting matrix call) {} ∧
    Readable (nesting matrix call) 4096 128 ∧ (thr (nesting matrix call) 0).nest = none :=
  ⟨by decide, by decide, token_free _ (by decide), ⟨by decide, by unfold Allocated; decide, clean_none _ (by decide +kernel) _ _⟩, by decide⟩

theorem meets_MatrixNestWords : (engOf (thr (nesting matrix call) 0) 2).call = some call ∧ (engOf (thr (nesting matrix call) 0) 2).words = [] ∧
    nestBad (thr (nesting matrix call) 0).shadow = false ∧ (tile (nesting matrix call) 0).arr = {} ∧ nestFault (nesting matrix call) (thr (nesting matrix call) 0).shadow = none ∧
    nestBad (thr (nesting thread call) 0).shadow = true ∧ (thr (nesting thread call) 0).frz = none ∧ (thr (nesting thread call) 0).replay.mode = 0 ∧
    call.held = false ∧ ({ call with held := true } : Call).base ≤ (nesting matrix call).clock.now / 2 ∧ TokenFree (nesting matrix call) {} ∧
    nextNest (nesting matrix call) 0 = none ∧ (tile { nesting matrix call with tiles := [(0, { arr := { off := true } })] } 0).arr.off = true :=
  ⟨by decide, by decide, by decide +kernel, by decide +kernel, by decide +kernel, by decide +kernel, by decide, by decide, by decide, by decide, token_free _ (by decide),
    by decide, by decide⟩

/-- R247: a nest starts, its first step comes twelve cycles later and takes element (0, 0) from 0 to round_ne(2^24 + 15). -/
theorem test_nest : holds (.mgo 0 1 {}) (nesting matrix call) (fun t => ((thr t 0).nest.map fun n => (n.due, n.total)) == some (12, 2) && (tile t 0).arr.occupant == some 0) = true ∧
    holds .nestStep { after (.mgo 0 1 {}) (nesting matrix call) with clock := { now := 24 } } (fun t => (thr t 0).nest.map (fun n => n.phase) == some .steps) = true := by decide +kernel

/-- A thread whose last nest emits two rows of two columns. -/
def emitting : Thread := { matrix with emitRows := 2, emitCols := 2, e := { acc := [(0, 0x4B80000A), (1, 0x4B800000), (128, 0x3F000000)] } }

/-- A binding whose peer has given no credit left. -/
def spent : Binding := { peer := 1, flow := 5, credits := 0 }

theorem meets_MatrixResultWords : (tile (engine 2 emitting call) 0).poison = [] ∧ (thr (engine 2 emitting call) 0).nest = none ∧ 1 < (thr (engine 2 emitting call) 0).emitRows ∧
    (gOf (thr (engine 2 emitting call) 0) 2).toNat % 4 = 0 ∧ Allocated (thr (engine 2 emitting call) 0) 4096 (2 * 2 * 4) ∧
    ({ call with held := true, prog := 1, base := 4096 } : Call).prog + 1 = (thr (engine 2 emitting call) 0).emitRows ∧ TokenFree (engine 2 emitting call) {} ∧
    (thr (engine 2 emitting call) 0).mq.bound = none ∧ (thr (engine 2 { emitting with mq := { bound := some spent } } call) 0).mq.bound = some spent ∧
    spent.credits < 256 ∧ (engOf (thr (engine 2 emitting call) 0) 2).call = some call ∧ occupied (engine 2 emitting call) 0 = true ∧
    Machine.stopped (engine 2 emitting call) (.router 0) (portLink 0) = false :=
  ⟨by decide, by decide, by decide, by decide, by unfold Allocated; decide, by decide, token_free _ (by decide), by decide, by decide, by decide, by decide, by decide, by decide⟩

/-- R261: the first row of the worked program's MEMIT; R263: the row that MRD reads. -/
theorem test_emit : holds (.memit 2 0 0 1 {}) (engine 2 emitting call) (fun t => readBytes (tile t 0).mem 4096 8 == [0x0A, 0, 0x80, 0x4B, 0, 0, 0x80, 0x4B]) = true ∧
    flying (.mrd true 6 0 1 0 {}) (engine 2 emitting call) [0, 1] = some [0x3F000000, 0] := by decide +kernel

/-- A control block that fills a raw region at 4160 with INT32 7, of an extent; no barrier (11 R271). -/
def block (x : Nat) : List Byte :=
  toBytes 2 0xFFFF ++ toBytes 2 0xFFFF ++ toBytes 1 255 ++ toBytes 1 3 ++ toBytes 2 0 ++ toBytes 8 4160 ++ toBytes 4 7 ++ toBytes 28 0 ++ toBytes 4 x ++
  toBytes 4 1 ++ toBytes 4 1 ++ toBytes 4 1

/-- The module at a copy word with that block at 4096. -/
def copying (x : Nat) : State := { engine 3 thread call with tiles := [(0, { mem := writeBytes [] 4096 (block x) })] }

/-- The copy that the block describes. -/
def fill (x : Nat) : Copy := parseCopy (localBytes (copying x) 4096 64) 3 2 7 0 1 4096

theorem meets_CopyWords : occupied (copying 3) 0 = true ∧ (thr (copying 3) 0).copies = [] ∧ TokenFree (copying 3) {} ∧ copyOp (.lfill 2 7 1 {}) = some (2, 2, 7, 0, 1, {}) ∧
    kOf (thr (copying 3) 0) 7 ≠ .busy ∧ Readable (copying 3) 4096 64 ∧ blockFault (copying 3) 0 (localBytes (copying 3) 4096 64) (fill 3) = none ∧
    field (localBytes (copying 3) 4096 64) 48 4 = 3 ∧ copyFault (copying 3) 0 (fill 3) = none ∧ (thr (copying 3) 0).replay.mode = 0 ∧
    field (localBytes (copying 0) 4096 64) 48 4 = 0 ∧ field (localBytes (copying 0) 4096 64) 4 1 = 255 ∧
    blockFault (copying 0) 0 (localBytes (copying 0) 4096 64) (fill 0) = none :=
  ⟨by decide, by decide, token_free _ (by decide), by decide, by decide, ⟨by decide, by unfold Allocated; decide, clean_none _ (by decide +kernel) _ _⟩, by decide +kernel,
    by decide +kernel, by decide +kernel, by decide, by decide +kernel, by decide +kernel, by decide +kernel⟩

/-- R279, R280: a copy makes its token busy, an empty one done, and KWAIT of a done token makes it idle. -/
theorem test_copies : holds (.lfill 2 7 1 {}) (copying 3) (fun t => kOf (thr t 0) 7 == .busy && (thr t 0).copies.length == 1) = true ∧
    holds (.lfill 2 7 1 {}) (copying 0) (fun t => kOf (thr t 0) 7 == .done && (thr t 0).copies.isEmpty) = true ∧
    holds (.kwait 128 {}) (engine 3 { thread with e := { k := [(7, .done)] } } call) (fun t => kOf (thr t 0) 7 == .idle) = true := by decide +kernel

/-- A thread with an open FP32 add window at 4096 and, in v1, indices 3 and 0 and holes. -/
def scattering (l : List (Nat × Lane)) : Thread :=
  { thread with
    win := { isOpen := true, base := 4096, list := l }
    e := { v := [(1, 3 :: 0 :: List.replicate 62 0xFFFFFFFF), (2, 0x3F800000 :: 0x40000000 :: List.replicate 62 0)] } }

theorem meets_ScatterWords : occupied (engine 5 thread call) 0 = true ∧ (engine 5 thread call).strm = 5 ∧ (engOf (thr (engine 5 thread call) 0) 5).call = some call ∧
    call.held = false ∧ (thr (engine 5 thread call) 0).win.doing = [] ∧ (thr (engine 5 thread call) 0).win.list = [] ∧ (gOf (thr (engine 5 thread call) 0) 2).toNat % 4 = 0 ∧
    (thr (engine 5 (scattering [(4096, 5)]) call) 0).win.list = [(4096, 5)] ∧ (tile (engine 5 thread call) 0).poison = [] ∧ (thr (engine 5 thread call) 0).win.isOpen = false ∧
    (thr (engine 5 (scattering []) call) 0).win.isOpen = true ∧
    ((upFrom 0 32).filter fun n => lane (vOf (thr (engine 5 (scattering []) call) 0) 1) n ≠ BitVec.allOnes 32) = [0, 1] ∧
    Allocated (thr (engine 5 (scattering []) call) 0) (4096 + 4 * 3) 4 ∧ Allocated (thr (engine 5 (scattering []) call) 0) 4096 4 ∧ TokenFree (engine 5 thread call) {} ∧
    lane (List.replicate 64 0xFFFFFFFF) 63 = BitVec.allOnes 32 :=
  ⟨by decide, by decide, by decide, by decide, by decide, by decide, by decide, by decide, by decide, by decide, by decide, by decide +kernel, by unfold Allocated; decide,
    by unfold Allocated; decide, token_free _ (by decide), by decide⟩

/-- A list that drains before a window whose base was bad at issue. -/
theorem meets_ScatterWords_bad : ({ bad := some 4097 } : Window).bad = some 4097 ∧ ({ bad := some 4097 } : Window).doing = [] ∧ (thr (engine 5 thread call) 0).frz = none ∧
    (thr (engine 5 thread call) 0).replay.mode ≠ 2 := by decide

/-- R212, R213: APUSH enters two pairs and skips the holes; AFLUSH of one pair adds 1.0 to 0. -/
theorem test_scatter : holds (.apush 1 2 {}) (engine 5 (scattering []) call) (fun t => (thr t 0).win.list == [(4108, 0x3F800000), (4096, 0x40000000)]) = true ∧
    holds (.aflush {}) (engine 5 (scattering [(4100, 0x3F800000)]) call) (fun t => readBytes (tile t 0).mem 4096 8 == [0, 0, 0, 0, 0, 0, 0x80, 0x3F]) = true := by decide +kernel

/-- A packet template: flow 5, dkind 0, one flit, queue 2 of context 1 of tile 0 (12 R288). -/
def template (flow : Nat) : List Byte :=
  toBytes 2 flow ++ toBytes 6 0 ++ toBytes 4 9 ++ toBytes 4 1 ++ toBytes 1 1 ++ toBytes 1 2 ++ toBytes 1 1 ++ toBytes 1 0 ++ toBytes 2 0 ++ toBytes 42 0

/-- A thread with the addresses of data and of a record. -/
def flowing : Thread := { thread with c := { g := [(2, 4096), (3, 4160), (4, 5), (5, 101), (6, 1), (7, 5)] } }

/-- The module with a record at 4160. -/
def recorded (st : Nat) (bs : List Byte) : State := { engine st flowing call with tiles := [(0, { mem := writeBytes [] 4160 bs })] }

theorem meets_FlowSends : occupied (recorded 6 (template 5)) 0 = true ∧ (recorded 6 (template 5)).strm = 6 ∧ TokenFree (recorded 6 (template 5)) {} ∧
    Readable (recorded 6 (template 5)) 4160 64 ∧ headFault (recorded 6 (template 5)) 0 (localBytes (recorded 6 (template 5)) 4160 64) = none ∧
    field (localBytes (recorded 6 (template 5)) 4160 64) 3 1 % 4 ≠ 3 ∧ field (localBytes (recorded 6 (template 5)) 4160 64) 16 1 = 1 ∧
    Allocated (thr (recorded 6 (template 5)) 0) 4096 64 ∧
    headFault (recorded 6 (template 101)) 0 (localBytes (recorded 6 (template 101)) 4160 64) = some 0 ∧ (thr (recorded 6 (template 101)) 0).frz = none ∧
    portBusy (recorded 6 (template 5)) 0 = false ∧ portBusy { recorded 6 (template 5) with tiles := [(0, { port := 1 })] } 0 = true ∧ (thr (recorded 6 (template 101)) 0).replay.mode ≠ 2 :=
  ⟨by decide, by decide, token_free _ (by decide), ⟨by decide, by unfold Allocated; decide, clean_none _ (by decide +kernel) _ _⟩, by decide +kernel, by decide +kernel,
    by decide +kernel, by unfold Allocated; decide, by decide +kernel, by decide, by decide, by decide, by decide⟩

/-- A packet of one flit that has arrived whole. -/
def packet : RxPkt := { pkt := { flow := 5, seq := 9, len := 1, data := [{ bytes := toBytes 64 0x0403020107 }] }, arrived := 1 }

theorem meets_PacketsReceived : occupied (engine 6 { flowing with rx := [(2, [packet])] } call) 0 = true ∧
    Arrived (thr (engine 6 { flowing with rx := [(2, [packet])] } call) 0) 2 packet [] ∧ (gOf (thr (engine 6 { flowing with rx := [(2, [packet])] } call) 0) 0).toNat % 8 = 0 ∧
    packet.pkt.err = false ∧ Allocated (thr (engine 6 { flowing with rx := [(2, [packet])] } call) 0) 4096 128 ∧
    (tile (engine 6 { flowing with rx := [(2, [packet])] } call) 0).poison = [] ∧ TokenFree (engine 6 { flowing with rx := [(2, [packet])] } call) {} ∧
    TokenFree (engine 1 { flowing with rx := [(2, [packet])] } call) {} ∧ packet.arrived = packet.pkt.len ∧ (∀ f ∈ packet.pkt.data, f.poison = false) ∧
    packet.taken + min 4 (packet.pkt.len - packet.taken) ≤ packet.arrived ∧ (thr (engine 6 { flowing with rx := [(2, [packet])] } call) 0).replay.mode = 0 ∧
    (∀ f ∈ packet.pkt.data, f.bytes.length = 64) ∧ look [] (thr (engine 6 flowing call) 0).rx 2 = [] :=
  ⟨by decide, ⟨by decide, by decide, by decide, by decide, by decide, by decide⟩, by decide, by decide, by unfold Allocated; decide, by decide,
    token_free _ (by decide), token_free _ (by decide), by decide, by decide, by decide, by decide, by decide, by decide⟩

/-- R310, R311, R193: a send puts a packet under way; a receive takes one and its flit's first lane is 0x03020107. -/
theorem test_flows : holds (.fsend 2 3 1 {}) (recorded 6 (template 5)) (fun t => t.packets.map (fun p => (p.flow, p.seq, p.len, p.q, p.dctx)) == [(5, 9, 1, 2, 1)]) = true ∧
    flying (.vrecv true 6 2 {}) (engine 1 { flowing with rx := [(2, [packet])] } call) [0, 1, 16] = some [0x03020107, 4, 0] := by decide +kernel

/-- A second thread, in context 1, whose operand queue no one is bound to. -/
def pair (x y : Thread) : State := { engine 6 x call with threads := (engine 6 x call).threads ++ [(1, y)] }

theorem meets_QueueBindings : occupied (pair flowing thread) 0 = true ∧ (pair flowing thread).strm = 6 ∧ TokenFree (pair flowing thread) {} ∧
    (gOf (thr (pair flowing thread) 0) 6).toNat = 1 ∧ bindFault (pair flowing thread) 6 7 = none ∧
    (thr (pair { flowing with mq := { bound := some spent } } thread) 0).mq.bound = some spent ∧ flowInRange (pair flowing thread) 0 5 = true ∧
    (thr (pair flowing thread) 0).mq.bound = none ∧ (thr (pair { flowing with mq := { bound := some spent } } thread) 0).mq.result = [] ∧ spent.peer ≠ 0 ∧
    occupied (pair flowing thread) 1 = true ∧ (pair flowing thread).packets = [] ∧ (thr (pair flowing thread) 0).frz = none :=
  ⟨by decide, by decide, token_free _ (by decide), by decide, by decide, by decide, by decide, by decide, by decide, by decide, by decide, by decide, by decide⟩

/-- A flow record: id 5, action 0, at tile 0, one flit (12 R292). -/
def flowRec (id : Nat) : List Byte := toBytes 2 id ++ toBytes 12 0 ++ toBytes 1 1 ++ toBytes 1 0 ++ toBytes 4 3 ++ toBytes 44 0

theorem meets_FlowTableWords : (find (recorded 6 (flowRec 5)).parts 0).isSome = true ∧ Readable (recorded 6 (flowRec 5)) 4160 64 ∧
    flowFault (recorded 6 (flowRec 5)) 0 (localBytes (recorded 6 (flowRec 5)) 4160 64) = none ∧ field (localBytes (recorded 6 (flowRec 5)) 4160 64) 3 1 = 0 ∧
    flowFault (recorded 6 (flowRec 101)) 0 (localBytes (recorded 6 (flowRec 101)) 4160 64) = some 0 ∧ flowInRange (recorded 6 (flowRec 5)) 0 5 = true ∧
    (part (recorded 6 (flowRec 5)) 0).flows = [] ∧ flowInRange (recorded 6 (flowRec 5)) 0 101 = false ∧ inPart (recorded 6 (flowRec 5)) 0 0 = true ∧
    Allocated (thr (recorded 6 (flowRec 5)) 0) 4096 32 ∧ (tile (recorded 6 (flowRec 5)) 0).poison = [] ∧ occupied (recorded 6 (flowRec 5)) 0 = true ∧
    TokenFree (recorded 6 (flowRec 5)) {} :=
  ⟨by decide, ⟨by decide, by unfold Allocated; decide, clean_none _ (by decide +kernel) _ _⟩, by decide +kernel, by decide +kernel, by decide +kernel, by decide, by decide,
    by decide, by decide, by unfold Allocated; decide, by decide +kernel, by decide, token_free _ (by decide)⟩

/-- The module with a collective loaded as flow 5. -/
def coll (c : Coll) : State := { engine 6 flowing call with parts := [(0, { cfg := { quads := [0], flowHi := 100 }, colls := [(5, c)] })] }

theorem meets_CollectiveWords : occupied (coll {}) 0 = true ∧ (coll {}).strm = 6 ∧ TokenFree (coll {}) {} ∧ (gOf (thr (coll {}) 0) 7).toNat = 5 ∧
    find (part (coll {}) 0).colls 6 = none ∧ (gOf (thr (coll {}) 0) 0).toNat = 0 ∧ find (part (coll {}) 0).colls 5 = some {} ∧ runFault (coll {}) 5 4096 {} = none ∧
    Allocated (thr (coll {}) 0) 4096 16 ∧ (tile (coll {}) 0).poison = [] ∧ (thr (coll {}) 0).frz = none ∧ (thr (coll {}) 0).replay.mode = 0 ∧
    find (part (coll { open_ := true }) 0).colls 5 = some { open_ := true } ∧ 0 * 256 + 0 ∉ ({ open_ := true } : Coll).done :=
  ⟨by decide, by decide, token_free _ (by decide), by decide, by decide, by decide, by decide, by decide +kernel, by unfold Allocated; decide, by decide, by decide, by decide,
    by decide, by decide⟩

/-- R397, R400: a collective that is not loaded is a misuse; an abort closes the run with status 1. -/
theorem test_collective : holds (.collAbort 4 {}) (coll { open_ := true }) (fun t => (find (part t 0).colls 5).map (fun c => (c.open_, c.status)) == some (false, 1)) = true ∧
    holds (.collRun 2 5 1 {}) (coll {}) (fun t => ((thr t 0).frz.bind fun z => z.fault.map FaultRec.code) == some 10) = true := by decide +kernel

/-! ## Events -/

/-- A state with an event's arguments. -/
def ev (a b c : Nat) (s : State) : State := { s with arg := { a := a, b := b, c := c } }

/-- A thread of image 1 whose L and V queues hold one single word each, an LNOP and a VNOP. -/
def queued : Thread := { thread with id := { image := 1 }, eng := [(1, { queue := [{ one := true }] }), (3, { queue := [{ one := true }] })] }

/-- The module with that image. -/
def imaged (t : Thread) : State := { one t with parts := [(0, { images := [(1, { code := [(0, [0x0004, 0x0044]), (1, [0x0002]), (3, [0x0002])] })] })] }

/-- A V result that lands now. -/
def landing : InFlight := { stream := 1, latch := some 1, reg := 4, wb := true, row := List.replicate 64 7, due := 0 }

/-- The module whose thread's nest stands in a phase that ends now. -/
def nested (ph : NestPhase) : State :=
  { nesting { matrix with nest := some { cfg := { table := table, loaded := true }, total := 2, phase := ph } } call with
    tiles := [(0, { arr := { occupant := some 0 } })], arg := { a := 0 } }

theorem meets_StreamEvents : wordsIn (thr (ev 0 1 0 (one { thread with eng := [(1, { words := [{ retired := true, push := some 0 }] })], rsv := [(7, 1)] })) 0) 1 = [{ retired := true, push := some 0 }] ∧
    callReady (ev 0 3 0 (imaged queued)) 0 3 = true ∧ (engOf (thr (imaged queued) 0) 3).call = none ∧ (engOf (thr (imaged queued) 0) 3).queue = [{ one := true }] ∧
    callFault (imaged queued) 0 3 { one := true } = none ∧ callReady (ev 0 1 0 (imaged queued)) 0 1 = true ∧ callFault (imaged queued) 0 1 { one := true } = none ∧
    (look ({} : EngArb) (tile (imaged queued) 0).eng 1).owner = none ∧ 1 ∈ [1, 2, 5, 6] ∧ nextServed (imaged queued) 0 1 = some 0 ∧
    (thr (ev 0 0 0 (one { thread with fly := [landing] })) 0).fly[0]? = some landing ∧ landing.due ≤ 0 ∧ occupied (imaged queued) 0 = true ∧
    (tile (nested .start) 0).arr.occupant = some 0 ∧ ((thr (nested .start) 0).nest.map fun n => (n.phase, n.due, stepReady (thr (nested .start) 0) n.cfg)) = some (.start, 0, true) ∧
    nextNest { nested .paused with tiles := [] } 0 = some 0 ∧ (doStep 0 { cfg := { table := table, loaded := true }, total := 2, phase := .steps } (nested .steps)).1.isSome = true ∧
    ((thr (nested .drain) 0).nest.map Nest.phase) = some .drain ∧ ((thr (nested .test) 0).nest.map Nest.phase) = some .test ∧ (tile (nested .test) 0).arr.bad = [] := by decide +kernel

/-- A saved result, which waits for the next call of its stream; and a row of M after one of V on a register, in one network cycle. -/
theorem meets_StreamEvents_saved : (thr (one { thread with fly := [{ landing with rel := true }] }) 0).fly[0]? = some { landing with rel := true } ∧ landing.gone = false ∧
    (landing.stream = 1 ∨ look 0 (thr (one { thread with fly := [landing] }) 0).vAt landing.reg ≠ 0 / 2 + 1) ∧
    ({ landing with stream := 2 } : InFlight).stream ≠ 1 ∧ look 0 ({ vAt := [(4, 1)] } : Thread).vAt 4 = 0 / 2 + 1 := by decide

/-- R105, R173: a token is released and a result lands in its register and latch. -/
theorem test_landing : holds .tokenRelease (ev 0 1 0 (one { thread with eng := [(1, { words := [{ retired := true, push := some 0 }] })], rsv := [(7, 1)] }))
      (fun t => fifo (thr t 0) 1 0 == 1 && rsvd (thr t 0) 1 0 == 0) = true ∧
    holds .resultLanding (ev 0 0 0 (one { thread with fly := [landing] })) (fun t => lane (vOf (thr t 0) 4) 63 == 7 && lane (bOf (thr t 0) 1) 0 == 7 && (thr t 0).fly.isEmpty) = true := by decide +kernel

/-- A thread that comes to rest in this network cycle, for a fault or for none. -/
def resting (f : Option FaultRec) : State := ev 0 0 0 { one { thread with frz := some { fault := f, cut := 1 } } with clock := { now := 2 } }

/-- A thread at a breakpoint of its C stream. -/
def broken : State := ev 0 1 0 { imaged { watched with id := { image := 1 } } with tiles := [(0, { prof := { bpt := [(0, BitVec.ofNat 64 (2 ^ 63 + 10))] } })] }

theorem meets_RestAndBarrierEvents : occupied (resting none) 0 = true ∧ (thr (resting none) 0).frz = some { cut := 1 } ∧ (1 : Nat) < (resting none).clock.now ∧
    (thr (resting none) 0).nest = none ∧ (tile (resting none) 0).arr.occupant ≠ some 0 ∧ (thr (resting none) 0).win.doing = [] ∧
    (thr (resting (some { code := 5 })) 0).frz = some { fault := some { code := 5 }, cut := 1 } ∧ isTiller 0 = false ∧ occupied (resting (some { code := 5 })) 4 = false ∧
    (team { one thread with teams := [(0, { members := [0], live := [0], stops := some 0 })] } 0).stops = some 0 ∧ (find (one thread).teams 0).isSome = true ∧
    phaseFull (team { one thread with teams := [(0, { members := [0], live := [0], bars := [(2, { arrived := [0] })] })] } 0) 2 = true ∧
    (part (one { thread with stallNs := 2000 }) 0).cfg.stall * 2000 ≤ (thr (one { thread with stallNs := 2000 }) 0).stallNs ∧ (thr (one { thread with stallNs := 2000 }) 0).frz = none := by decide +kernel

/-- A thread at rest, whose fault no earlier one precedes, and the tiller of one whose own fault comes to rest. -/
theorem meets_RestAndBarrierEvents_rest : AtRest (resting none) 0 { cut := 1 } ∧ AtRest (resting (some { code := 5 })) 0 { fault := some { code := 5 }, cut := 1 } ∧
    Unclaimed (resting (some { code := 5 })) 0 :=
  ⟨⟨by decide, by decide, by decide, by decide, (fun _ h => nomatch h), by decide, (fun _ h => nomatch h), by decide, by decide, (fun _ h => nomatch h)⟩,
   ⟨by decide, by decide, by decide, by decide, (fun _ h => nomatch h), by decide, (fun _ h => nomatch h), by decide, by decide, (fun _ h => nomatch h)⟩,
   rfl, fun c z hc hn h => by
    have h1 : c = 1 ∨ c = 2 ∨ c = 3 := by
      have : c ≠ 0 := hn
      omega
    rcases h1 with rfl | rfl | rfl <;> exact nomatch h⟩

/-- A tiller in context 4 whose own fault has come to rest, with the capability of the thread it holds or without. -/
def fallen (v : Bool) (esc : Bool) : State :=
  { ev 4 0 0 (one { thread with frz := some { fault := some { code := 5 }, closed := true, tiller := some 4 } }) with
    threads := [(0, { thread with frz := some { fault := some { code := 5 }, closed := true, tiller := some 4 } }),
                (4, { thread with tillerOf := some 0, capValid := v, frz := some { fault := some { code := 5 }, cut := 1 } })]
    parts := [(0, { regs := { escpol := esc } })], clock := { now := 2 } }

theorem meets_RestAndBarrierEvents_tiller : AtRest (fallen true false) 4 { fault := some { code := 5 }, cut := 1 } ∧ isTiller 4 = true ∧ (tile (fallen true false) 0).pendList = [] ∧
    (thr (fallen true false) 4).tillerOf = some 0 ∧ occupied (fallen true false) 0 = true ∧ (thr (fallen true false) 0).dying = false ∧ fatalNode (fallen true false) 0 = false ∧
    (thr (fallen false false) 4).capValid = false ∧ (part (fallen true true) 0).regs.escpol = true ∧ (find (fallen true true).parts 0).isSome = true :=
  ⟨⟨by decide, by decide, by decide, by decide, (fun _ h => nomatch h), by decide, (fun _ h => nomatch h), by decide, by decide, (fun _ h => nomatch h)⟩,
    by decide, by decide, by decide, by decide, by decide, by decide, by decide, by decide, by decide⟩

/-- R425: a fault spawns a tiller in context 4, which holds the capability; R114: the last arrival completes a phase. -/
theorem test_freeze : holds .freeze (resting (some { code := 5, lo := 9 })) (fun t => occupied t 4 && (thr t 4).tillerOf == some 0 && (thr t 4).capValid &&
      (thr t 0).frz.map (fun z => (z.closed, z.tiller, z.record.getD 1 0)) == some (true, some 4, 9)) = true ∧
    holds .phaseCompletion (ev 0 2 0 { one thread with teams := [(0, { members := [0], live := [0], bars := [(2, { arrived := [0] })] })] })
      (fun t => (barOf (team t 0) 2).phase == 1 && (barOf (team t 0) 2).arrived.isEmpty) = true := by decide +kernel

/-- A fill under way: three INT32 elements of a raw region, in one row. -/
def filling (sl : Nat) (is : Bool) (rs : List RowWait) (ak : List (Nat × Nat)) : Copy :=
  { fill 3 with k := 1, slot := sl, issued := is, resp := rs, acks := ak, row := if is then 1 else 0 }

/-- The module with a copy. -/
def copyAt (c : Copy) (a b cc d : Nat) (ns : List Nat) : State :=
  { one { thread with copies := [c], e := { k := [(1, .busy)] } } with arg := { a := a, b := b, c := cc, d := d, nums := ns } }

/-- A copy of three elements from one raw region of the tile to another. -/
def moving3 : Copy := { filling 0 false [] [] with kind := 0, shnd := 0xFFFF, stream := 4 }

/-- The places of the elements of that row. -/
def places (x0 : Nat) : (Nat × Nat) × Nat × Bool := ((0, 0), 4160 + 4 * x0, decide (x0 % 2 = 1))

theorem below_three (x : Nat) (h : x < 3) : x = 0 ∨ x = 1 ∨ x = 2 := by omega

theorem places_apart : Apart 0 3 places := by
  intro x y hx hy hxy
  rcases below_three x hx with rfl | rfl | rfl <;> rcases below_three y hy with rfl | rfl | rfl <;> first | omega | decide

theorem unpoisoned_copyAt (c : Copy) : Unpoisoned (copyAt c 0 0 0 0 []) := ⟨fun _ => rfl, rfl, rfl⟩

theorem meets_CopyAndRelayoutEvents_fill : (thr (copyAt (filling 0 false [] []) 0 0 0 0 []) 0).copies[0]? = some (filling 0 false [] []) ∧
    (filling 0 false [] []).kind = 2 ∧ heldBack (thr (copyAt (filling 0 false [] []) 0 0 0 0 []) 0) 0 (filling 0 false [] []) = false ∧
    rowSlots (copyBits (copyAt (filling 0 false [] []) 0 0 0 0 []) 0 (filling 0 false [] [])) (filling 0 false [] []) ≤ 1 ∧
    1 < rowSlots (copyBits (copyAt (filling 0 false [] []) 0 0 0 0 []) 0 (filling 0 false [] [])) { filling 0 false [] [] with ext := [65, 1, 1, 1] } ∧
    Placed (copyAt (filling 0 false [] []) 0 0 0 0 []) 0 0 (filling 0 false [] []) 0 3 places := by
  refine ⟨by decide +kernel, by decide +kernel, by decide +kernel, by decide +kernel, by decide +kernel, ?_⟩
  intro x h
  rcases below_three x h with rfl | rfl | rfl <;> exact .inl ⟨0, _, _, rfl, by decide⟩

/-- A copy whose source and destination lie in the tile, its rows at hand, and one that waits for a peer's answer. -/
theorem meets_CopyAndRelayoutEvents_move : moving3.issued = false ∧ moving3.stopped = false ∧ moving3.held ≠ 1 ∧ moving3.stream ≠ 3 ∧
    min (slotElems 32 moving3) (extOf moving3 0) = 3 ∧ (∀ x, x < 3 → Source (copyAt moving3 0 0 0 0 []) 0 0 moving3 x (0, false, false, false, [])) ∧
    (filling 0 true [] [(0, 4096)]).acks[0]? = some (0, 4096) ∧ (filling 0 true [{ vals := List.replicate 3 (7, false) }] []).resp = [{ vals := List.replicate 3 (7, false) }] ∧
    (filling 0 true [{ gone := true }, { peers := [1] }] []).resp = [{ gone := true }] ++ ({ peers := [1] } : RowWait) :: [] ∧ ([5] : List Nat).length = [1].length ∧ (filling 0 true [] []).bar = 0xFF ∧
    arrivedAt (thr (copyAt { filling 0 true [] [] with bar := 2 } 0 0 0 0 []) 0) 2 = false ∧
    (thr { copyAt (filling 0 true [] []) 0 0 0 0 [] with threads := [(0, { thread with dying := true, copies := [{ filling 0 true [] [] with stopped := true }] })] } 0).dying = true := by
  refine ⟨by decide +kernel, by decide +kernel, by decide +kernel, by decide +kernel, by decide +kernel, ?_, by decide, by decide, by decide +kernel, rfl, by decide +kernel, by decide, by decide⟩
  intro x h
  rcases below_three x h with rfl | rfl | rfl <;> exact .inl ⟨0, _, _, rfl, by decide +kernel⟩

/-- R274: the last slot of a fill writes the row; R279: with all rows issued the token is done and the copy gone. -/
theorem test_copy_goes_on : holds .transferSlot (copyAt (filling 0 false [] []) 0 0 0 0 []) (fun t => [4160, 4164, 4168, 4172].map (fun a => readByte (tile t 0).mem a) == [7, 7, 7, 0]) = true ∧
    holds .copyCompletion (copyAt (filling 0 true [] []) 0 0 0 0 []) (fun t => (thr t 0).copies.isEmpty && kOf (thr t 0) 1 == .done) = true := by decide +kernel

/-- A relayout in progress of a tensor in the scratchpad of tile 0, row-major to column-major, for copy token 3 of member 0 of team 0. -/
def relaying : Handle :=
  { hrec := { base := 4096, dims := [2, 3, 0, 0], fmt := 0, ndims := 2, space := 1 }
    conv := some { hrec := { base := 4160, dims := [2, 3, 0, 0], fmt := 0, ndims := 2, space := 1, layout := 1 }, tok := some (0, 0, 3) } }

/-- The module with that relayout. -/
def relayed : State := { one thread with parts := [(0, { handles := [(7, relaying)] })], arg := { a := 0, b := 7 }, tiles := [(0, { mem := [(4096, 1), (4100, 2), (4104, 3)] })] }

theorem meets_CopyAndRelayoutEvents_relayout : handleOf relayed 0 7 = some relaying ∧ relaying.failed = false ∧ relaying.away = none ∧ blockCount relaying.hrec = 1 ∧
    (∃ c, relaying.conv = some c ∧ relayFirst relayed 0 7 c = true ∧ c.c + 1 = blockCount relaying.hrec ∧ BlockAtHand relayed 0 relaying.hrec c) :=
  ⟨by decide +kernel, by decide, by decide, by decide +kernel, ⟨_, rfl, by decide +kernel, by decide +kernel,
    fun _ _ => ⟨.inl rfl, .inl rfl⟩, fun _ _ => .inl rfl, fun _ _ _ => .inl rfl⟩⟩

/-- R227: the block's elements stand in the new layout, element (0, 1) of 2 by 3 fourth byte on; its token is done. -/
theorem test_relayout : holds .relayoutBlock relayed (fun t => [0, 4, 8, 12].map (fun k => readByte (tile t 0).mem (4160 + k)) == [1, 3, 0, 2] &&
    (handleOf t 0 7).map (fun e => (e.hrec.layout, e.conv.isNone)) == some (1, true) && kOf (thr t 0) 3 == .done) = true := by decide +kernel

/-- Accesses of the hub at a peer that await their answers, and a block's answer of one element. -/
theorem meets_CopyAndRelayoutEvents_hub : ({ wrote := [{ module := 3, addr := 64, size := 8, unit := .mig 1 }] } : Hub).wrote[0]? = some { module := 3, addr := 64, size := 8, unit := .mig 1 } ∧
    ({ asked := [{ module := 3, addr := 64, size := 2 }] } : Hub).asked[0]? = some { module := 3, addr := 64, size := 2 } ∧ ([5, 6] : List Byte).length = 2 ∧
    (elemsOfBlocks 4 [4096] [(0, 4)] [7, 0, 0, 0]).length = ([1] : List Nat).length ∧ hubBusy relayed (.relay 7 0) 0 = false := by decide +kernel

/-- R275: the answer of a row that a fault dropped is taken off and no other row is touched; R382: a block's answer fills the row. -/
theorem test_row_answers : holds .rowResponse { copyAt (filling 0 true [{ gone := true, peers := [0] }, { vals := [(0, false)], peers := [0] }] []) 0 0 0 0 [5] with ready := [] }
      (fun t => (thr t 0).copies.map (fun c => c.resp) == [[{ vals := [(0, false)], peers := [0] }]]) = true ∧
    holds .rowResponse { copyAt (filling 0 true [{ vals := [(0, false)], peers := [0] }] []) 0 0 0 0 [9] with ready := [] }
      (fun t => (thr t 0).copies.map (fun c => c.resp) == [[{ vals := [(9, false)] }]]) = true := by decide +kernel

theorem meets_RestAndBarrierEvents_break : occupied broken 0 = true ∧ broken.arg.b ≠ 0 ∧ (thr broken 0).frz = none ∧ breaks broken 0 0 = true ∧
    (team { broken with teams := [(0, { members := [0], live := [0], stops := some 0 })] } 0).stops = some 0 := by decide +kernel

theorem meets_RestAndBarrierEvents_debug : canIssue broken 0 0 = true ∧ isTiller 0 = false ∧ (find broken.teams 0).isSome = true ∧
    (thr (one { thread with sr := { thread.sr with dbg := true } }) 0).sr.dbg = true := by decide +kernel

/-- R490: the word at the breakpoint does not issue, and the thread comes to rest as stopped for the debugger. -/
theorem test_breakpoint : holds .debugStop broken (fun t => ((thr t 0).frz.map fun z => (z.fault.isNone, z.taken)) == some (true, 2) && (thr t 0).c.pc == 10) = true := by
  decide +kernel

/-! ## Residency, collectives, packets -/

/-- A page request in a group of virtual function 1, index 3, on die 0. -/
def asked : PrgGroup := { vf := 1, idx := 3, pages := [{ vf := 1, pasid := 9, page := 5 }] }

/-- The module with a die's state. -/
def withDie (d : Die) (s : State) : State := { s with dies := [(0, d)] }

/-- A hub whose cache maps the lowest 2 MiB of process 0 to host memory at 0. -/
def hubbed (s : State) : State := { s with dies := [(4, { agent := [{ base := 0, size := 2097152, target := 0, r := true, w := true }] })] }

/-- What that hub finds at host memory. -/
theorem hub_host (s : State) (p a n : Nat) (wr : Bool) (hw : wr = true → isCodePage (hubbed s) p 0 (a / 4096) = false ∧ migHeld (hubbed s) p a = false)
    (hh : homeOf (hubbed s) p a n = .ok (.host a)) (hn : 0 < n) (hr : a + n ≤ 2097152) : HubHome (hubbed s) p 0 a n wr (.host a) :=
  ⟨_, ⟨List.mem_singleton.mpr rfl, Nat.le_of_ble_eq_true rfl, fun _ h _ => List.mem_singleton.mp h, by simp [covering]; omega, by simpa using hr, rfl⟩, by cases wr <;> rfl,
    by simpa using hw, by simpa using hh, .inl ⟨a, rfl⟩⟩

/-- Bytes within one page that it finds there. -/
theorem hub_bytes (s : State) (p g va : Nat) (bs : List Byte) (hg : g * 4096 ≤ va ∧ va + bs.length ≤ g * 4096 + 4096) (hr : va + bs.length ≤ 2097152)
    (hh : homeOf (hubbed s) p va bs.length = .ok (.host va)) (hb : homeRead (hubbed s) (.host va) bs.length = (bs, false)) : HubBytes (hubbed s) p 0 va bs := by
  intro k a n ha hn hp
  have hk : k = g := by omega
  subst hk
  have h1 : a = va := by omega
  have h2 : n = bs.length := by omega
  subst h1 h2
  exact ⟨.host a, hub_host s p a _ false (fun h => nomatch h) hh hp hr, by simpa using hb⟩

theorem get_upFrom {α : Type} (f : Nat → α) : ∀ (n a k : Nat) (x : α), ((upFrom a n).map f)[k]? = some x → k < n ∧ x = f (a + k)
  | 0, _, _, _, h => by simp [upFrom] at h
  | n + 1, a, 0, x, h => ⟨by omega, by simpa [upFrom] using h.symm⟩
  | n + 1, a, k + 1, x, h => by
    have h1 : ((upFrom (a + 1) n).map f)[k]? = some x := by simpa [upFrom] using h
    have h2 := get_upFrom f n (a + 1) k x h1
    exact ⟨by omega, by rw [h2.2]; congr 1; omega⟩

/-- The module with a migration command in partition 0. -/
def moving (stage : Nat) : State :=
  { one thread with parts := [(0, { frames := [8192], regs := { flqsize := 64 }, migs := [{ va := 4096, num := 1, deadline := 5, stage := stage }] })] }

/-- The answer of the host for page 5 of process 9: a page of 4 KiB at 36864. -/
def answer : XlatAnswer := { base := 20480, size := 4096, target := 36864, r := true, w := true }

theorem meets_ResidencyEvents : (9, 5) ∈ (die (withDie { reqs := [(9, 5)] } (one thread)) 0).reqs ∧ (9, 5) ∉ (die (withDie { reqs := [(9, 5)] } (one thread)) 0).stale ∧
    Answers answer 5 ∧ (∀ x ∈ (die (withDie { reqs := [(9, 5)] } (one thread)) 0).queued, x.2 ≠ (9, 5)) ∧
    (9, 5) ∈ (die (withDie { reqs := [(9, 5)], stale := [(9, 5)] } (one thread)) 0).stale ∧ meets 20480 4096 16384 8192 = true ∧
    (die (withDie { invals := [{ va := 0, size := 4096, waits := [(0, 7)] }] } (one thread)) 0).invals = [{ va := 0, size := 4096, waits := [(0, 7)] }] ∧
    stillUnder (withDie { invals := [{ va := 0, size := 4096, waits := [(0, 7)] }] } (one thread)) (0, 7) = false ∧
    (die (withDie { batch := [{ page := 5 }] } { one thread with clock := { halfNs := 4000 } }) 0).batch = [{ page := 5 }] ∧
    (die (withDie { batch := [{ page := 5 }] } { one thread with clock := { halfNs := 4000 } }) 0).batchNs +
      (part { one thread with clock := { halfNs := 4000 } } 0).regs.prtimer ≤ 4000 / 2 ∧
    asked ∈ (die (withDie { groups := [asked] } (one thread)) 0).groups ∧
    ((part (moving 0) 0).frames = [8192]) ∧ nextCommand (part (moving 0) 0) = some { va := 4096, num := 1, deadline := 5, stage := 0 } ∧
    nextCommand (part (moving 1) 0) = some { va := 4096, num := 1, deadline := 5, stage := 1 } ∧ flqRoomFor (moving 1) 0 1 = true ∧
    ((part (moving 5) 0).migs.find? (fun m => m.stage = 5 && m.num.toNat = 1)) = some { va := 4096, num := 1, deadline := 5, stage := 5 } ∧
    (find (moving 1).parts 0).isSome = true ∧ (part (moving 1) 0).cfg.hbmBase * 2 ^ 30 ≤ 3 * 4096 ∧
    3 * 4096 < ((part (moving 1) 0).cfg.hbmBase + (part (moving 1) 0).cfg.hbmSize) * 2 ^ 30 ∧
    0 < 1 ∧ 768 * 2 ^ 30 - 192 * 2 ^ 20 - 1 + 1 ≤ 768 * 2 ^ 30 - 192 * 2 ^ 20 ∧ prgFree (one thread) 1 = some 0 ∧ prgPages (one thread) 1 + 1 ≤ prgAllocOf (one thread) 1 ∧
    flqRoomFor (moving 4) 0 1 = true :=
  ⟨by decide, by decide, ⟨rfl, by decide, ⟨12, rfl⟩, by decide, by decide, by decide⟩, by decide, by decide, by decide, by decide, by decide, by decide, by decide, by decide, by decide, by decide,
    by decide, by decide +kernel, by decide, by decide, by decide, by decide, by decide, by decide, by decide +kernel, by decide +kernel, by decide⟩

/-- The page that a migration moves has a home. -/
theorem meets_ResidencyEvents_home : HubHome (hubbed (moving 3)) 0 0 4096 4096 false (.host 4096) ∧ homeOf (hubbed (moving 3)) 0 8192 4096 = .ok (.host 8192) ∧
    Unpoisoned (hubbed (moving 3)) ∧ Refuses { moving 1 with dies := [(4, { agent := [{ size := 8192, refused := true }] })] } 0 4096 ∧
    Refuses { moving 1 with dies := [(4, { told := [{ size := 8192, refused := true }] })] } 0 4096 :=
  ⟨hub_host _ _ _ _ _ (fun h => nomatch h) rfl (by decide) (by decide), rfl, ⟨fun _ => rfl, rfl, rfl⟩, ⟨_, rfl, .inl rfl⟩, ⟨_, rfl, .inr ⟨rfl, rfl, by decide⟩⟩⟩

/-- The host's transactions reach their function, fail their integrity check, or meet a module in recovery; an invalidation waits
for no access of the hub; a page of host memory answers UR; and a block lies in HBM under a key that is gone. -/
theorem meets_ResidencyEvents_host : FromHost (one thread) ∧ ({ one thread with arg := { badIde := true } } : State).arg.badIde = true ∧
    ({ one thread with sec := { life := .recovery } } : State).sec.life = .recovery ∧ hubUnder (one thread) 0 = false ∧
    hubBusy (moving 3) (.mig 1) 0 = false ∧ hostRejects { moving 3 with hostUr := [(4096, 8)] } (.host 4096) 4096 = true ∧ hostRejects (moving 3) (.host 4096) 4096 = false ∧
    deadKey { dead := [(0, 7)] } 1 = some 7 := ⟨⟨by decide, rfl⟩, rfl, rfl, by decide, by decide, by decide, by decide, by decide⟩

/-- A far request held in its die's list, with its page in the group that is answered. -/
theorem meets_ResidencyEvents_held : (thr (withDie { groups := [asked] } (one { thread with id := { pasid := 9 }, far := [{ va := 20484, held := 1 }] })) 0).far[0]? = some { va := 20484, held := 1 } ∧
    ∃ q ∈ asked.pages, q.pasid = 9 ∧ q.page = 20484 / 4096 := ⟨rfl, ⟨_, List.mem_singleton.mpr rfl, rfl, rfl⟩⟩

/-- R353, R369: the host's answer is kept by the agent; a migration that is given up counts as abandoned. -/
theorem test_residency : holds .translationCompletion { withDie { reqs := [(9, 5)] } (one thread) with arg := { a := 0, b := 9, c := 5, xlat := answer } }
      (fun t => (die t 0).reqs.isEmpty && (die t 0).agent.map (fun e => (e.base, e.target)) == [(20480, 36864)]) = true ∧
    holds .migack { moving 5 with arg := { b := 1, flag := true } } (fun t => (part t 0).migs.isEmpty && (part t 0).stats.aband == 1) = true := by decide +kernel

/-- A collective of two ranks: channel 0 in from module 1, channel 1 out; op 0 receives, op 1 sends. -/
def ranks2 : Coll :=
  { n := 2, open_ := true, gen := 3, chans := [{ dir := 1, peer := 1, pch := 4, depth := 2 }, { dir := 0, peer := 1, pch := 5, depth := 2 }],
    ops := [{ kind := 2, a := { kind := 2 } }, { kind := 2, a := { kind := 2 } }], tmo := 1 }

/-- The module with that collective and the arguments of an event of it. -/
def collAt (c : Coll) (x d : Nat) : State :=
  { coll c with launches := [(4, { group := some { gen := 3, n := 2, members := [(0, 0), (1, 0)], arrived := [0] } })], arg := { a := 0, b := 5, c := x, d := d, beat := { smod := 1 } } }

/-- The collective with the first chunk present in its slot. -/
def arrived2 : Coll := { ranks2 with chst := [(0, { slots := [(0, { head := some (0, 1), lines := (upFrom 0 64).map fun k => (k, {}) })] })] }

theorem meets_CollectiveEvents : find (part (coll ranks2) 0).colls 5 = some ranks2 ∧ find (part (coll { ranks2 with open_ := false }) 0).colls 5 = some { ranks2 with open_ := false } ∧
    (chanOf ranks2 0).dir = 1 ∧ (chst ranks2 0).consumed ≤ 1 ∧ 1 < (chst ranks2 0).consumed + (chanOf ranks2 0).depth ∧ headBad ranks2 0 1 0 1 = false ∧
    (opSt arrived2 0).started = false ∧ (opSt arrived2 0).deps = 0 ∧ present arrived2 0 (opOf arrived2 0).a = true ∧ present arrived2 0 (opOf arrived2 0).b = true ∧
    (opSt { arrived2 with opst := [(0, { started := true })] } 0).started = true ∧ (opSt { arrived2 with opst := [(0, { started := true })] } 0).complete = false ∧
    (opOf arrived2 0).o.kind ≠ 2 ∧ spanBad arrived2 (opOf arrived2 0) false (operandVal (coll arrived2) arrived2 0 (opOf arrived2 0).a []) = false ∧
    (opSt arrived2 1).complete = false ∧ 1 < arrived2.ops.length ∧ noticeKey ranks2.gen ranks2.r ∉ ranks2.done ∧ timerRuns { ranks2 with timerNs := 2000 } = true ∧
    occupied (coll { ranks2 with timerNs := 2000 }) 0 = true ∧ (thr (coll { ranks2 with timerNs := 2000 }) 0).dying = false ∧
    (thr (coll { ranks2 with timerNs := 2000 }) 0).frz = none ∧ (part (coll { ranks2 with timerNs := 2000 }) 0).saved = [] := by decide +kernel

/-- A chunk from the member of another module, an op whose operands lie in no buffer, and a participant that takes a fault. -/
theorem meets_CollectiveEvents_find : accepts (collAt ranks2 0 0) 0 ({ smod := 1 } : Beat) = true ∧ accepts (coll ranks2) 0 ({ smod := 1 } : Beat) = false ∧ fromMember (collAt ranks2 0 0) 0 = true ∧ fromMember (coll ranks2) 0 = false ∧
    OperandFound (collAt arrived2 0 0) arrived2 (opOf arrived2 0).a false [] ∧ OperandFound (collAt arrived2 0 0) arrived2 (opOf arrived2 0).o true [] ∧ HomesApart [] ∧
    LinesFound (hubbed (coll ranks2)) ranks2 4096 64 false ((upFrom 0 64).map fun k => .host (4096 + 64 * k)) ∧
    Takes (collAt { ranks2 with timerNs := 2000 } 0 0) { ranks2 with timerNs := 2000 } 0 :=
  ⟨by decide, by decide, by decide, by decide, rfl, rfl, fun _ _ _ _ _ h _ => by simp at h, ⟨rfl, fun k h hk => by
    obtain ⟨h1, rfl⟩ := get_upFrom _ _ _ _ _ hk
    simp only [Nat.zero_add]
    refine hub_host _ _ _ _ _ (fun h => nomatch h) ?_ (by decide) (by omega)
    unfold homeOf
    have e : (hubbed (coll ranks2)).hub.window = ({} : State).hub.window := rfl
    have e2 : (hubbed (coll ranks2)).hub.windows = [] := rfl
    simp only [e, e2, List.find?_nil]
    rw [if_neg]
    simp; omega⟩, by unfold Takes; decide⟩

/-- An UPD op over 0 to 2 whose gradient has come with the span of one rank, as its head tells as soon as it is there. -/
def partial2 : Coll := { ranks2 with wf := 2, bases := [4096], ops := [{ kind := 4, hi := 2, a := { kind := 2 }, b := { kind := 1 }, o := { kind := 3 } }] }

/-- A span that does not match, at an op and at a head; an operand whose page the host refuses; and the master words of an UPD op. -/
theorem meets_CollectiveEvents_faults : spanBad partial2 (opOf partial2 0) false { lo := 0, hi := 1 } = true ∧ headBad partial2 0 0 0 1 = true ∧
    spanBad partial2 (opOf partial2 0) false { lo := 0, hi := 2 } = false ∧ (opOf partial2 0).kind = 4 ∧ masterVa partial2 (opOf partial2 0) = 4096 ∧
    Refuses { coll ranks2 with dies := [(4, { agent := [{ size := 8192, refused := true }] })] } 0 (chunkVa { ranks2 with bases := [4096] } { kind := 1 }) ∧
    hubBusy (coll ranks2) (.run 5 3 0) 0 = false ∧ liveAs (coll ranks2) 0 9 = none :=
  ⟨by decide, by decide, by decide, by decide, by decide, ⟨_, rfl, .inl rfl⟩, by decide, by decide⟩

/-- R398: a chunk head whose span is not that of the op that reads it ends the run with a fault of its participant. -/
theorem test_bad_span : holds .chunk { collAt partial2 0 0 with arg := { b := 5, beat := { smod := 1 }, chunk := { smod := 1, pch := 4, head := true, gen := 3, lo := 0, hi := 1 } } }
      (fun t => (find (part t 0).colls 5).map (fun c => (c.open_, c.status)) == some (false, 1) && ((thr t 0).frz.bind fun z => z.fault.map fun f => f.code) == some 10) = true := by
  decide +kernel

/-- An op that sends, whose channel's limit of this generation lets it. -/
theorem meets_CollectiveEvents_send : (opOf { ranks2 with ops := [{ kind := 1, o := { kind := 2, index := 1 } }] } 0).o.kind = 2 ∧
    (chst { ranks2 with chst := [(1, { limit := 1, limGen := 3 })] } 1).limGen = ranks2.gen ∧
    chunkNo (writesChan 1) { ranks2 with ops := [{ kind := 1, o := { kind := 2, index := 1 } }] } 0 < (chst { ranks2 with chst := [(1, { limit := 1, limGen := 3 })] } 1).limit := by decide

/-- R393, R401: an op starts once its chunk is there; done from the last rank closes the run. -/
theorem test_run : holds .opStart (collAt arrived2 0 0) (fun t => (find (part t 0).colls 5).map (fun c => (opSt c 0).started) == some true) = true ∧
    holds .done { collAt { ranks2 with done := [noticeKey 3 0] } 3 1 with cur := 0 } (fun t => (find (part t 0).colls 5).map (fun c => (c.open_, c.status)) == some (false, 0)) = true := by decide +kernel

/-- A packet of one flit, at a place, for partition 0, context 0. -/
def parcel (l : PktAt) (k : Nat) : Packet := { flow := 5, loc := l, dkind := k, q := 2, addr := 4096, data := [{ bytes := toBytes 64 0x0403020107 }], seq := 9, gen := 4 }

/-- The module with one packet. -/
def carrying (p : Packet) : State := { coll {} with packets := [p] }

theorem meets_PacketEvents : (carrying (parcel (.router 0) 0)).packets[0]? = some (parcel (.router 0) 0) ∧ (parcel (.router 0) 0).due ≤ 0 ∧
    linkBusy (carrying (parcel (.router 0) 0)) 0 (parcel (.router 0) 0) = false ∧ (part (carrying (parcel (.router 0) 0)) 0).draining = none ∧
    find (part (carrying (parcel (.router 0) 0)) 0).flows (0 * 65536 + 5) = none ∧ (moveOn (carrying (parcel (.router 0) 0)) (parcel (.router 0) 0) 0).2 = 0 ∧
    occupied (carrying { parcel (.tile 0) 0 with dctx := 1 }) 1 = false ∧ occupied (carrying (parcel (.tile 0) 0)) 0 = true ∧ (thr (carrying (parcel (.tile 0) 0)) 0).dying = false ∧
    (thr (carrying (parcel (.tile 0) 0)) 0).id.part = 0 ∧ (parcel (.tile 0) 0).len < queueFree (carrying (parcel (.tile 0) 0)) (thr (carrying (parcel (.tile 0) 0)) 0) 2 ∧
    (tile (carrying (parcel (.tile 0) 1)) 0).poison = [] ∧ (parcel (.tile 0) 1).data.length = (parcel (.tile 0) 1).len ∧
    (∀ g ∈ (parcel (.tile 0) 1).data, g.poison = false ∧ g.bytes.length = 64) := by decide +kernel

theorem meets_PacketEvents_place : Allocated (thr (carrying (parcel (.tile 0) 1)) 0) 4096 64 ∧ Allocated (thr (carrying (parcel (.tile 0) 1)) 0) 8184 8 := by unfold Allocated; decide

/-- The module with that packet at router 0 and an entry for its flow there. -/
def routed (e : FRec) (p : Packet) : State :=
  { carrying p with parts := [(0, { cfg := { quads := [0], flowHi := 100 }, flows := [(5, { frec := { e with id := 5 } })] })] }

/-- The entry of a packet's flow, of its generation or not, that sends on, holds or combines; a packet at the hub; and a dkind-3 delivery at its home. -/
theorem meets_PacketEvents_entries : entryAt (routed { action := 2, gen := 4 } (parcel (.router 0) 0)) 0 0 5 = some { frec := { id := 5, action := 2, gen := 4 } } ∧
    spanOutside { id := 5, action := 2, gen := 4 } (parcel (.router 0) 0) = false ∧ spanOutside { id := 5, action := 1, gen := 4 } (parcel (.router 0) 0) = true ∧
    Machine.stopped (routed { action := 2, gen := 4 } (parcel (.router 0) 0)) (.router 0) actionLink = false ∧
    followers (routed { action := 3, gen := 4 } (parcel (.router 0) 0)) 0 0 5 = [] ∧
    canGo (carrying (parcel (.router 0) 0)) 0 (moveOn (carrying (parcel (.router 0) 0)) (parcel (.router 0) 0) 0).1 = true ∧
    spanOutside { id := 5, action := 1, gen := 4, n := 2, slo := 0, shi := 2 } { parcel (.router 0) 0 with rlo := 0, rhi := 1 } = false ∧ isNode 2 0 1 = true ∧
    (evalNodes 0 3 2 4096 [valueOf { parcel (.router 0) 0 with rlo := 0, rhi := 1 } (leafOp 0 3) 3, { seq := 9, lo := 1, hi := 2, flits := [{ bytes := toBytes 64 1 }] }]).1.map (fun v => (v.lo, v.hi)) = [(0, 2)] ∧
    Next (carrying (parcel .hub 0)) 0 (parcel .hub 0) ∧ (thr (carrying (parcel (.tile 0) 2)) 0).mq.boundBy ≠ some 0 ∧
    sendOrder (carrying (parcel .home 3)) 0 (parcel .home 3) = false ∧ flitsOfBlock (parcel .home 3) 4096 = 1 ∧
    PieceAt (carrying { parcel .home 3 with tr := [(1, 8192)] }) { parcel .home 3 with tr := [(1, 8192)] } 4096 64 (.host 8192) :=
  ⟨by decide +kernel, by decide, by decide, by decide +kernel, by decide +kernel, by decide +kernel, by decide, by decide, by decide +kernel, ⟨rfl, by decide, by decide⟩, by decide,
    by decide, by decide, .inl ⟨(1, 8192), rfl, rfl⟩⟩

/-- Two entries at router 0: one for the packet's flow and one for flow 6. -/
def routed2 (e : FRec) (y : FlowEntry) (p : Packet) : State :=
  { carrying p with parts := [(0, { cfg := { quads := [0], flowHi := 100 }, flows := [(5, { frec := { e with id := 5 } }), (6, y)] })] }

/-- A packet of the span 0 to 1 at router 0. -/
def spanned : Packet := { parcel (.router 0) 1 with rlo := 0, rhi := 1 }

/-- Entries that scan, transpose, normalise and update, with what each needs; and an input that an entry makes an error packet of. -/
theorem meets_PacketEvents_actions : spanOutside { id := 5, action := 4, gen := 4, shi := 1 } spanned = false ∧ mustWait { frec := { id := 5, action := 4, gen := 4, shi := 1, akib := 1 } } 9 = false ∧
    (insertRank (valueOf spanned (fun y => y) 2) []).length = 1 - 0 ∧ (insertRank (valueOf spanned (fun y => y) 2) []).length ≠ 2 - 0 ∧
    ({ frec := { action := 5 } } : FlowEntry).busy ≤ 0 ∧ entryAt (routed2 { action := 6, gen := 4, hflow := 6 } { frec := { id := 6, action := 3 }, hold := some (9, []) } spanned) 0 0 6 =
      some { frec := { id := 6, action := 3 }, hold := some (9, []) } ∧ spanned.seq.ult 10 = true ∧ (9 : BitVec 32) ≠ 8 ∧ spanned.seq.ult 8 = false ∧
    (ownerOf (routed { action := 7, gen := 4, wf := 2, n := 1, oaddr := 4096, param := 0x3F800000 } spanned) 0 0 4096 64).isSome = true ∧
    Erring (one thread) 0 { frec := { action := 3, len := 2 } } spanned ∧ Erring (one thread) 0 { frec := { action := 4, len := 2 } } spanned ∧
    (part (carrying spanned) 0).draining = none ∧ ({ carrying spanned with parts := [(0, { draining := some 9 })] } : State).parts ≠ [] :=
  ⟨by decide, by decide, by decide +kernel, by decide +kernel, by decide, by decide, by decide, by decide, by decide, by decide +kernel, by unfold Erring; decide, by unfold Erring; decide,
    by decide, by decide⟩

/-- R299: a scan of one rank sends its prefix back to that rank's thread; R301: an input whose HOLD value has not come waits. -/
theorem test_scan : holds .packetLookup (routed { action := 4, gen := 4, shi := 1, wf := 2, oq := 3, akib := 1 } spanned)
      (fun t => t.packets.map (fun q => (q.dkind, q.dtile, q.dctx, q.q, q.rlo, q.rhi)) == [(0, 0, 0, 3, 0, 1)]) = true ∧
    holds .packetLookup (routed2 { action := 6, gen := 4, hflow := 6, wf := 2 } { frec := { id := 6, action := 3 } } spanned)
      (fun t => t.packets.isEmpty && (entryAt t 0 0 5).map (fun x => x.wait.length) == some 1) = true := by decide +kernel

/-- R302: an update with rate 1 of a master of 0 stores the gradient with its sign turned; R296: an input of the wrong length makes
an error packet of its own length. -/
theorem test_update : holds .packetLookup (routed { action := 7, gen := 4, wf := 2, n := 1, oaddr := 4096, param := 0x3F800000, hflow := 6 } spanned)
      (fun t => readBytes (tile t 0).mem 4096 4 == [7, 1, 2, 0x83] && t.packets.map (fun q => (q.flow, q.rlo, q.rhi)) == [(6, 0, 1)]) = true ∧
    holds .packetLookup (routed { action := 3, gen := 4, len := 2, otile := 7 } spanned) (fun t => t.packets.map (fun q => (q.err, q.data.length, q.dtile)) == [(true, 1, 7)] &&
      (countAt (tile t 0) 0).error == 1) = true := by decide +kernel

/-- R291, R316: a packet enters its queue; a dkind-1 packet is written at its address. -/
theorem test_delivery : holds .delivery (carrying (parcel (.tile 0) 0)) (fun t => (look [] (thr t 0).rx 2).map (fun r => (r.pkt.flow, r.arrived)) == [(5, 1)] && t.packets.isEmpty) = true ∧
    holds .delivery (carrying { parcel (.tile 0) 1 with flag := 4224 }) (fun t => [4096, 4100, 4224, 4228].map (readByte (tile t 0).mem) == [7, 4, 9, 4]) = true := by decide +kernel
/-! ## Queues, launches, groups -/

/-- Queue 0 of virtual function 0 with one entry at 4096, and host memory that the hub reaches. -/
def listing (m : Memory) : State :=
  hubbed { one thread with host := m, hub := { ready := true }, queues := [(0, { base := 4096, size := 16, tail := 1, enable := true })],
                           parts := [(0, { images := [(0, {})] })] }

/-- A fence, a wait for any value, a wait for 1 at 8192, and a launch of the record at 8192 (23 R466). -/
def fenceEntry : Memory := [(4096, 2)]
def waitAny : Memory := [(4096, 3)]
def waitOne : Memory := [(4096, 3), (4121, 32), (4128, 1), (4136, 1)]
def launchEntry : Memory := [(4096, 1), (4121, 32), (8192, 1), (8195, 1), (8256, 1), (8272, 1), (8273, 1)]

/-- The 64 bytes that host memory holds at an address. -/
def lineAt (m : Memory) (a : Nat) : List Byte := readBytes m a 64

/-- A launch over: one node, complete, that posts nothing. -/
def overLaunch : Launch := { nodes := [(0, { st := .complete })] }

/-- The module with a node of one member in the pool of die 0, and what the quad's sensor read. -/
def pooled (mw : Nat) : State :=
  { one thread with parts := [(0, { cfg := { quads := [0] } })], clock := { halfNs := 20000 }, sensors := [(0, { milliwatt := mw })],
                    launches := [(0, { nodes := [(0, { nrec := { size := 1 }, st := .ready })] })], dies := [(0, { pool := [{}] })] }

theorem lineAt_length (m : Memory) (a : Nat) : (lineAt m a).length = 64 := rfl

theorem entry_is (m : Memory) (h : homeRead (listing m) (.host 4096) 64 = (lineAt m 4096, false)) : EntryIs (listing m) 0 0 0 (lineAt m 4096) :=
  .inr (.inr ⟨rfl, rfl, by rfl, hub_bytes _ 0 1 4096 _ (by rw [lineAt_length]; decide) (by rw [lineAt_length]; decide) rfl h⟩)

theorem meets_QueueAndLaunchEvents : takable (listing fenceEntry) 0 0 0 = true ∧ (0 : Nat) = (queueOf (listing fenceEntry) 0 0).head.toNat ∧ (queueOf (listing fenceEntry) 0 0).ended = [] ∧
    EntryIs (listing fenceEntry) 0 0 0 (lineAt fenceEntry 4096) ∧ entryGood (lineAt fenceEntry 4096) = true ∧ field (lineAt fenceEntry 4096) 0 1 = 2 ∧ field (lineAt fenceEntry 4096) 16 8 = 0 ∧
    EntryIs (listing waitAny) 0 0 0 (lineAt waitAny 4096) ∧ entryGood (lineAt waitAny 4096) = true ∧ waitHolds (lineAt waitAny 4096) 0 = true ∧ Passed (listing waitAny) 0 0 0 ∧
    EntryIs (listing waitOne) 0 0 0 (lineAt waitOne 4096) ∧ entryGood (lineAt waitOne 4096) = true ∧ waitHolds (lineAt waitOne 4096) 0 = false ∧
    (queueOf (listing waitAny) 0 0).lastTick ≤ tickOf (listing waitAny) 0 ∧ HubBytes (listing waitOne) 0 0 8192 (List.replicate 8 0) ∧
    settled (queueOf (listing waitOne) 0 0) 0 = none ∧ settled { begun := [(3, (lineAt waitOne 4096, some 0))] } 3 = some 0 :=
  ⟨by decide +kernel, by decide, by decide, entry_is _ (by decide +kernel), by decide +kernel, by decide +kernel, by decide +kernel, entry_is _ (by decide +kernel), by decide +kernel,
    by decide +kernel, by intro k h; simp [indicesTo, upFrom, queueOf, look, listing, hubbed, queueKey] at h, entry_is _ (by decide +kernel), by decide +kernel, by decide +kernel,
    by decide +kernel, hub_bytes _ 0 2 8192 _ (by decide) (by decide) rfl (by decide +kernel), rfl, rfl⟩

/-- R467, R469: a wait that has begun polls on after its queue is overrun; R480: at a second reset a queue stops where it is. -/
theorem test_begun_wait : (match exec .wait (listing waitOne) with
      | .next t => takable (modQueue 0 0 (fun x => { x with enable := false, ovr := true }) t) 0 0 0
      | _ => false) = true ∧ takable (modQueue 0 0 (fun x => { x with enable := false }) (listing waitOne)) 0 0 0 = false ∧
    (restartQueue { enable := true, head := 3, restart := 1, resets := 2 }).head = 3 := by decide +kernel

/-- A launch of one node without predecessors; an entry and a record that break a rule; and a launch of two modules. -/
theorem meets_QueueAndLaunchEvents_launch : EntryIs (listing launchEntry) 0 0 0 (lineAt launchEntry 4096) ∧ entryGood (lineAt launchEntry 4096) = true ∧ field (lineAt launchEntry 4096) 0 1 = 1 ∧
    field (lineAt launchEntry 4096) 24 8 = 8192 ∧ RecordBytes (listing launchEntry) 0 0 0 8192 0 64 (lineAt launchEntry 8192) ∧ headerGood (listing launchEntry) 0 (lineAt launchEntry 8192) = true ∧
    field (lineAt launchEntry 8192) 0 2 = 1 ∧ field (lineAt launchEntry 8192) 3 1 = 1 ∧ RecordBytes (listing launchEntry) 0 0 0 8192 64 64 (lineAt launchEntry 8256) ∧
    cut 64 1 (lineAt launchEntry 8256) = [lineAt launchEntry 8256] ∧ nodeRecGood (lineAt launchEntry 8256) = true ∧ field (lineAt launchEntry 8256) 20 2 = 0 ∧
    predsGood [parseNode (lineAt launchEntry 8256)] = true ∧ (install 0 (launchInst 0) (cut 64 0 []) (cut 64 0 []) (listing launchEntry)).isSome = true ∧
    EntryIs (listing []) 0 0 0 (lineAt [] 4096) ∧ entryGood (lineAt [] 4096) = false ∧ CanComplete (listing []) 0 0 0 ∧ headerGood (listing []) 0 (lineAt [] 8192) = false ∧
    parseGroup (listing []) 2 (toBytes 4 3 ++ toBytes 12 2 ++ toBytes 8 0 ++ toBytes 8 1) = some { gen := 3, n := 2, members := [(0, 0), (1, 0)], queues := [(0, 0), (0, 0)] } ∧
    parseGroup (listing []) 2 (toBytes 32 0) = none ∧ (∀ y ∈ (part (listing []) 0).early, y.1 ≠ 3) := by
  refine ⟨entry_is _ (by decide +kernel), by decide +kernel, by decide +kernel, by decide +kernel, .inr ⟨(fun _ _ h => nomatch h), rfl, hub_bytes _ 0 2 8192 _ (by decide) (by decide) rfl (by decide +kernel)⟩,
    by decide +kernel, by decide +kernel, by decide +kernel, .inr ⟨(fun _ _ h => nomatch h), rfl, hub_bytes _ 0 2 8256 _ (by decide) (by decide) rfl (by decide +kernel)⟩, by decide +kernel,
    by decide +kernel, by decide +kernel, by decide +kernel, by decide +kernel, entry_is _ (by decide +kernel), by decide +kernel, .inl rfl, by decide +kernel, by decide +kernel, by decide +kernel, by decide⟩

theorem meets_QueueAndLaunchEvents_rest : launchOver overLaunch = true ∧ installQuiet (one thread) overLaunch.part (launchInst 0) = true ∧ overLaunch.group = none ∧ overLaunch.cpl = 0 ∧
    poolMove (pooled 0) 0 = some (.place {} [0]) ∧ poolMove (pooled 18000) 0 = some (.reserve {} [0]) ∧
    launchQuiet (one thread) 0 overLaunch = true ∧ (part { one thread with parts := [(0, { draining := some 0 })] } 0).draining = some 0 ∧ (∀ k ∈ (one thread).packets, k.part ≠ 0) ∧ (queuesOf (one thread) 0).Nodup ∧
    (∀ k ∈ queuesOf (listing fenceEntry) 0, (queueOf (listing fenceEntry) k.1 k.2).resets = 0) := by decide +kernel

/-- The tail that a write brings overruns a queue of 16 or not (R465). -/
theorem meets_QueueAndLaunchEvents_tail : (queueOf (listing fenceEntry) 0 0).size.toNat < ((17 : Word).setWidth 32 - (queueOf (listing fenceEntry) 0 0).head).toNat ∧
    ((16 : Word).setWidth 32 - (queueOf (listing fenceEntry) 0 0).head).toNat ≤ (queueOf (listing fenceEntry) 0 0).size.toNat := by decide +kernel

/-- R467, R470: a fence moves QHEAD; a launch starts with its one node ready, which R475 then places on tile 0. -/
theorem test_queue : holds .queueFence (listing fenceEntry) (fun t => (queueOf t 0 0).head == 1 && (queueOf t 0 0).fenced) = true ∧
    holds .wait (listing waitOne) (fun t => (queueOf t 0 0).head == 0 && (queueOf t 0 0).lastTick == 1) = true ∧
    holds .launch (listing launchEntry) (fun t => t.launches.map (fun e => (e.2.nnodes, e.2.image)) == [(1, 0)] && (queueOf t 0 0).started == [0]) = true ∧
    holds .placement (pooled 0) (fun t => occupied t 1 && (thr t 1).id.team == 0) = true := by decide +kernel

/-- A group of two modules, of which this module 0 has rank 0. -/
def group : Group := { gen := 3, n := 2, members := [(0, 0), (1, 0)], arrived := [0] }

/-- The module in a launch with a group; `arg` names generation 3 and module 1. -/
def grouped (g : Group) (ns : Nat) : State :=
  { one thread with launches := [(4, { group := some g })], clock := { halfNs := ns }, arg := { a := 0, b := 1, c := 3 } }

theorem meets_GroupEvents : groupLaunch (one thread) 0 3 = none ∧ (find (one thread).parts 0).isSome = true ∧ groupLaunch (grouped group 0) 0 3 = some 4 ∧
    find (grouped group 0).launches 4 = some { group := some group } ∧ group.failed = false ∧ group.released = false ∧ rankOf group 1 = 1 ∧
    group.startNs + (part (grouped group 200000) 0).regs.ltimeout ≤ 200000 / 2 ∧ group.sentNs + 1000 ≤ 200000 / 2 ∧
    look 0 group.seen 1 + (part (grouped group 200000) 0).regs.kalive ≤ 200000 / 2 ∧ 1 < group.n ∧ 1 ≠ group.rank ∧
    (queueOf (listing []) 0 0).enable = true ∧ (queueOf (listing []) 0 0).ovr = false ∧
    ((queueOf (listing []) 0 0).tail - (queueOf (listing []) 0 0).head).toNat < (queueOf (listing []) 0 0).size.toNat ∧
    (part { one thread with parts := [(0, { kept := [group] })] } 0).kept[0]? = some group ∧ (find (grouped { group with released := true } 0).parts 0).isSome = true := by decide +kernel

/-- R407, R409: the last arrival releases the barrier; a fail before it ends the launch with status 3. -/
theorem test_group : holds .arrive (grouped group 0) (fun t => (launch t 4).group.map (fun g => (g.arrived, g.released)) == some ([0, 1], true)) = true ∧
    holds .fail (grouped group 0) (fun t => (launch t 4).status == 3) = true := by decide +kernel

/-! ## Partitions, images, teams -/

/-- An image file of one empty code section (02 R55, R56). -/
def imageFile : List Byte :=
  [0x46, 0x4C, 0x51, 0x37] ++ toBytes 2 1 ++ toBytes 2 1 ++ toBytes 4 64 ++ toBytes 4 0 ++ toBytes 8 96 ++ toBytes 40 0 ++ toBytes 32 1

/-- A module that is ready, with no partition. -/
def readyModule : State := { sec := { life := .ready } }

/-- A team of one whose member has come to rest for a pre-emption, with an area of 1 MiB at 65536, which the agent of die 0 maps. -/
def preempted : State :=
  { one { thread with frz := some { taken := 1, closed := true } } with
    teams := [(0, { members := [0], live := [0], preempt := true })], parts := [(0, { areas := [65537] })],
    dies := [(0, { agent := [{ base := 0, size := 2097152, target := 0, r := true, w := true }] })] }

theorem meets_PartitionEvents : readyModule.sec.life = .ready ∧ find readyModule.parts 2 = none ∧ cfgGood { quads := [3] } = true ∧ cfgApart readyModule { quads := [3] } = true ∧
    (find (one thread).parts 0).isSome = true ∧ (part (one thread) 0).draining = none ∧ find (part (one thread) 0).images 1 = none ∧ imageGood imageFile = true ∧
    (sectionsOf imageFile [0] 3).flatMap (fun x => cut 64 (x.2.1.length / 64) x.2.1) = [] ∧ (sectionsOf imageFile [0] 4).flatMap (fun x => cut 64 (x.2.1.length / 64) x.2.1) = [] ∧
    wellPlaced imageFile [0] = true ∧ install 0 (imageInst 1) [] [] (one thread) = some (one thread) ∧
    find (part (imaged queued) 0).images 1 = some { code := [(0, [0x0004, 0x0044]), (1, [0x0002]), (3, [0x0002])] } ∧
    (∀ e ∈ (imaged queued).launches, ¬(e.2.part = 0 ∧ e.2.image = 1)) ∧ installQuiet (imaged queued) 0 (imageInst 1) = true ∧
    (∀ e ∈ ([(0, { celsius := 94 })] : SMap Sensor), e.2.celsius < 95) ∧
    (∃ e ∈ ([(0, { hotNs := some 0 })] : SMap Sensor), ∃ n, e.2.hotNs = some n ∧ n + 1000000 ≤ 2000000 / 2) ∧
    enabled (one thread) 7 = true ∧ 7 ∉ (one thread).sec.lost ∧ namedTeam (one thread) 0 0 = some 0 ∧ (team (one thread) 0).preempt = false :=
  ⟨by decide, by decide, by decide, by decide, by decide, by decide, by decide, by decide +kernel, by decide +kernel, by decide +kernel, by decide +kernel, rfl, by decide, by decide, by decide,
    by decide, ⟨_, List.mem_singleton.mpr rfl, 0, rfl, by decide⟩, by decide, by decide, by decide +kernel, by decide⟩

theorem length_upFrom : ∀ n a, (upFrom a n).length = n
  | 0, _ => rfl
  | n + 1, a => congrArg (· + 1) (length_upFrom n (a + 1))

/-- The pages that the agent of die 0 finds from an address. -/
theorem pages_found (s : State) (pasid va n : Nat) (wr : Bool) (hd : (die s 0).agent = [{ base := 0, size := 2097152, target := 0, r := true, w := true }]) (hp : pasid = 0)
    (hr : va + 4096 * n ≤ 2097152) : PagesFound s 0 pasid wr va n ((upFrom 0 n).map fun k => va + 4096 * k) := by
  subst hp
  refine ⟨by simp [length_upFrom], fun k a hk => ?_⟩
  obtain ⟨h1, rfl⟩ := get_upFrom _ _ _ _ _ hk
  refine ⟨{ base := 0, size := 2097152, target := 0, r := true, w := true }, ⟨by rw [hd]; exact List.mem_singleton.mpr rfl, by rw [hd]; exact Nat.le_of_ble_eq_true rfl, ?_, ?_, ?_, rfl⟩, by cases wr <;> rfl, ?_⟩
  · intro f hf _
    rw [hd] at hf
    exact List.mem_singleton.mp hf
  · simp [covering]; omega
  · simp; omega
  · simp

theorem meets_PartitionEvents_save : (find preempted.teams 0).isSome = true ∧ (find preempted.parts (team preempted 0).part).isSome = true ∧ (team preempted 0).preempt = true ∧
    (team preempted 0).savedAt = none ∧ liveOf preempted 0 ≠ [] ∧ (∀ m ∈ liveOf preempted 0, savable preempted m = true) ∧ (part preempted 0).areas = [65537] ∧
    teamNeed ((liveOf preempted 0).map (thr preempted)) ≤ (65537 : Word).toNat % 4096 * 2 ^ 20 ∧ (∀ m ∈ liveOf preempted 0, boundOutside (liveOf preempted 0) (thr preempted m) = false) ∧
    PagesFound preempted 0 0 true ((65537 : Word).toNat / 4096 * 4096) (ceilDiv (teamNeed ((liveOf preempted 0).map (thr preempted))) 4096)
      ((upFrom 0 (ceilDiv (teamNeed ((liveOf preempted 0).map (thr preempted))) 4096)).map fun k => 65536 + 4096 * k) ∧
    PageRefused { preempted with dies := [(0, { agent := [{ base := 0, size := 2097152, target := 0, r := true }] })] } 0 0 true 65536 ∧
    boundOutside [0] { thread with mq := { bound := some spent } } = true :=
  ⟨by decide, by decide, by decide, by decide, by decide +kernel, by decide +kernel, by decide, by decide +kernel, by decide +kernel, pages_found _ _ _ _ _ rfl rfl (by decide +kernel),
    ⟨_, List.mem_singleton.mpr rfl, by decide, fun _ h _ => List.mem_singleton.mp h, by decide, .inr rfl⟩, by decide +kernel⟩

/-- Eight bytes of a save's image. -/
def sealed8 : List Byte := sealedBytes 0 0 8 []

theorem eight (l : List Byte) (h : l.length = 8) : (upFrom 0 8).map (fun k => l.getD k 0) = l := by
  match l, h with
  | [_, _, _, _, _, _, _, _], _ => rfl

/-- A saved team whose node waits in the pool, or has the places that it names, with its image at 65536. -/
def savedWith (pl : List (Nat × Nat)) : State :=
  { pooled 0 with
    teams := [(0, { members := [0], savedAt := some 0 })], host := (upFrom 0 8).map fun k => (65536 + k, sealed8.getD k 0),
    parts := [(0, { cfg := { quads := [0] }, saved := [{ area := 65536, bytes := 8, members := [(0, {})], mems := [([], [])], mons := [[]], placed := pl }] })],
    dies := [(0, { pool := if pl = [] then [{ team := some 0 }] else [], agent := [{ base := 0, size := 2097152, target := 0, r := true, w := true }] })] }

/-- A saved team that has its tile back. -/
def saved8 : State := savedWith [(0, 0)]

theorem meets_PartitionEvents_restore : poolMove (savedWith []) 0 = some (.place { team := some 0 } [0]) ∧ (savedTeam saved8 0 0).map SavedTeam.placed = some [(0, 0)] ∧
    (find saved8.parts 0).isSome = true ∧ (part saved8 0).draining = none ∧ (savedTeam saved8 0 0).map (fun v => (v.area, v.bytes, v.members.length, v.mems.length)) = some (65536, 8, 1, 1) ∧
    (find saved8.teams 0).isSome = true ∧ PagesFound saved8 0 0 false 65536 1 [65536] ∧ AreaAt saved8 0 [65536] [.host 65536] ∧ (freeCtx saved8 0).isSome = true ∧
    areaRead { saved8 with hostPoison := [65536] } 8 [.host 65536] ≠ (sealedBytes 0 0 8 [], false) :=
  ⟨by decide +kernel, by decide +kernel, by decide, by decide, by decide +kernel, by decide, pages_found saved8 0 65536 1 false rfl rfl (by decide), ⟨rfl, fun k a hk => by
    cases k with
    | zero => exact ⟨.host 65536, rfl, by simp at hk; subst hk; rfl, fun _ _ h => nomatch h⟩
    | succ k => simp at hk⟩, by decide +kernel, fun h => by
    have h1 := congrArg Prod.snd h
    exact absurd h1 (by decide +kernel)⟩

theorem take_bytes (m : Memory) : ∀ (k n a : Nat), k ≤ n → (readBytes m a n).take k = readBytes m a k
  | 0, _, _, _ => rfl
  | _ + 1, 0, _, h => absurd h (by omega)
  | k + 1, n + 1, a, h => congrArg (readByte m a :: ·) (take_bytes m k n (a + 1) (by omega))

theorem clean_empty (a n : Nat) : poisonedIn [] a n = false := by simp [poisonedIn]

theorem meets_PartitionEvents_sealed : areaRead saved8 8 [.host 65536] = (sealedBytes 0 0 8 [], false) := by
  have h := eight (sealedBytes 0 0 8 []) (by simp [sealedBytes, padTo]; omega)
  have e : areaRead saved8 8 [.host 65536] = ((upFrom 0 8).map fun k => (sealedBytes 0 0 8 []).getD k 0, false) := by
    simp only [areaRead, homeRead, hostRead, List.map_cons, List.map_nil, List.flatMap_cons, List.flatMap_nil, List.append_nil,
      take_bytes _ 8 4096 _ (by decide)]
    rw [show saved8.hostPoison = [] from rfl, clean_empty]
    rfl
  rw [e, h]

/-- R464, R440: a partition is created with two keys of its own; a team that is saved leaves its contexts. -/
theorem test_partition : holds .partitionCreate { readyModule with arg := { a := 2, cfg := { quads := [3] } } } (fun t => (find t.parts 2).map (fun x => (x.key, x.saveKey)) == some (1, 2)) = true ∧
    holds .preempt { one thread with arg := { a := 0, v := 0 } } (fun t => (team t 0).preempt && ((thr t 0).frz.map Freeze.taken) == some 1) = true := by decide +kernel

/-! ## Registers and the module -/

/-- A thread that the debugger has stopped, with DBGSEL naming its g1. -/
def atStop : State := { one { thread with frz := some { taken := 2, closed := true } } with parts := [(0, { regs := { dbgsel := 0x1001 } })], arg := { a := 0, v := 99 } }

theorem meets_RegisterEvents : (find (one thread).parts 0).isSome = true ∧ (one thread).sec.tdisp = [] ∧ ownEvent 0x000 = false ∧ ownEvent 0x008 = false ∧ ownEvent 0x030 = false ∧
    ownEvent 0x048 = false ∧ ownEvent 0x050 = false ∧ ownEvent 0x068 = false ∧ ownEvent 0x0B0 = false ∧ (queueOf (one thread) 3 7).enable = false ∧
    (part (one thread) 0).regs.recctl ≠ 2 ∧ (part { one thread with parts := [(0, { regs := { recctl := 2 } })] } 0).regs.recctl = 2 ∧
    namedTeam (one thread) 0 1 = none ∧ namedTeam atStop 0 0 = some 0 ∧ dbgThread (one thread) 0 = none ∧ dbgThread atStop 0 = some 0 ∧
    (part atStop 0).regs.dbgsel.toNat % 2 ^ 32 = 0x1000 + 1 ∧ dbgStopped (thr atStop 0) = true ∧ (thr atStop 0).held = [] ∧ heldRuns atStop 0 = [] ∧
    (thr atStop 0).frz = some { taken := 2, closed := true } ∧ (0 : Nat) ∈ liveOf atStop 0 ∧
    tdispOf { one thread with sec := { tdisp := [(3, .locked)] } } 3 = .locked ∧ (part (one thread) 0).regs.flqbase ≠ (0x1000 : Word) &&& ~~~(0xFFF : Word) ∧
    (part { one thread with parts := [(0, { logWait := [[1]], regs := { flqsize := 64, flqtail := 64 } })] } 0).logWait = [[1]] ∧
    (selector (dbgSelector atStop 0)).bind (frozenItem atStop 0) = some 7 ∧ (selector (dbgSelector (one thread) 0)).isSome = true := by decide +kernel

/-- No page request waits; a transaction reaches its function, or fails its check, or meets recovery; a member has its debug bit, or not. -/
theorem meets_RegisterEvents_host : NoBatch (one thread) ∧ FromHost (one thread) ∧ ({ one thread with arg := { badIde := true } } : State).arg.badIde = true ∧
    ({ one thread with sec := { life := .recovery } } : State).sec.life = .recovery ∧ ((64 : Word) - 0).toNat = 2 ^ 6 ∧
    (thr (one { thread with sr := { thread.sr with dbg := true } }) 0).sr.dbg = true ∧ (thr (one thread) 0).sr.dbg = false :=
  ⟨fun _ => ⟨rfl, rfl, Nat.lt_of_sub_eq_succ rfl⟩, ⟨by decide, rfl⟩, rfl, rfl, by decide, by decide, by decide⟩

/-- R361: a larger FLQSIZE lets the record that waits be written; R497: in recovery a read is not answered. -/
theorem test_register : holds .registerWrite { one thread with parts := [(0, { logWait := [[1, 2]] })], arg := { a := 0, b := 0x008, v := 64 } }
      (fun t => (part t 0).logWait.isEmpty && (part t 0).regs.flqtail == 1 && readBytes t.host 0 2 == [1, 2]) = true ∧
    holds .registerWrite { one thread with sec := { life := .recovery }, arg := { a := 120, b := 0x0F0000, flag := true } } (fun t => t.out.isEmpty) = true := by decide +kernel

/-- R492: the debugger writes g1 and reads it; the team resumes. -/
theorem test_debug : holds .dbgdataWrite atStop (fun t => gOf (thr t 0) 1 == 99 && (part t 0).regs.dbgstat == 0) = true ∧
    holds .dbgdataRead atStop (fun t => t.out == [.hostData 7]) = true ∧ holds .dbgres { atStop with arg := { a := 0, v := 0 } } (fun t => (thr t 0).frz.isNone) = true := by decide +kernel

/-- R496: a debug stop that meets a pre-emption of the same network cycle goes before it, and the pre-emption is pending. -/
theorem test_stop_wins : (match (thr (interrupt 2 0 (interrupt 1 0 (one thread))) 0).frz with
    | some z => z.taken == 2 && z.pending == 1
    | none => false) = true ∧ (match (thr (interrupt 1 0 (interrupt 2 0 (one thread))) 0).frz with
    | some z => z.taken == 2 && z.pending == 1
    | none => false) = true := by decide +kernel

/-- R488, R489, R496: of two triggers the lower one acts, and its record comes first; events follow in order of context and stream, two
records at most in a network cycle. -/
theorem test_trace : (tickTrace { ctl := BitVec.ofNat 64 (2 ^ 63 + 2 ^ 24), trigs := [(5, [50]), (3, [30])], evs := [(9, [9]), (2, [2])] }) =
      { ctl := BitVec.ofNat 64 (2 ^ 63 + 2 ^ 62 + 2 ^ 24 + 3 * 2 ^ 20), buf := [(0, 30), (4, 2)], next := 2 } ∧
    (tickTrace { ctl := BitVec.ofNat 64 (2 ^ 63), evs := [(9, [9]), (2, [2]), (8, [8])] }) =
      { ctl := BitVec.ofNat 64 (2 ^ 63), buf := [(0, 2), (4, 8)], next := 2, lost := 1 } := by decide +kernel

/-- A module with port 1 trained and a route to module 9 through it. -/
def linked (p : Port) : State := { one thread with hub := { ports := [(1, p)], routes := [(9, 1)] }, arg := { a := 1 } }

/-- A beat of 64 zero bytes from module 1 for this module 0. -/
def beatOf (k v : Nat) : Beat := { smod := 1, kind := k, vc := v, payload := List.replicate 64 0 }

/-- The head of a dkind-3 packet of two flits for address 0x10000000000. -/
def headOf : Beat := { beatOf 0 0 with payload := [5, 0, 0, 3] ++ List.replicate 12 0 ++ [2] ++ List.replicate 20 0 ++ [1] ++ List.replicate 26 0 }

/-- The third port up, with keys and the counts of its beats. -/
def live (tx rx : Nat) : State := linked { up := true, txKey := 4, rxKey := 5, txBeats := tx, rxBeats := rx }

theorem meets_ModuleEvents : ({} : BootInput).stages.length = 0 ∧ readyModule.sec.life = .ready ∧ (find (one thread).parts (3 / 4)).isSome = true ∧ FromHost (one thread) ∧
    (portOf (live 0 0) 1).up = true ∧ (portOf (live 0 0) 1).rxBeats + 1 < 2 ^ 48 - 1 ∧ (portOf (live 0 0) 1).txBeats < 2 ^ 48 - 1 ∧ beatGood (beatOf 0 0) = true ∧
    beatGood { beatOf 5 0 with dmod := 9 } = true ∧ (9 : Nat) ≠ (live 0 0).hub.module ∧ find (live 0 0).hub.routes 9 = some 1 ∧ (live 0 0).hub.held = [] ∧
    (portOf (linked { stop := [0] }) 1).stop = [0] ∧ (portOf (linked { txKey := 4 }) 1).txKey ≠ 0 ∧ (portOf (linked { txKey := 4 }) 1).up = false ∧
    2 ^ 48 - 1 ≤ (portOf (live (2 ^ 48 - 1) 0) 1).txBeats ∧ 2 ^ 48 - 1 ≤ (portOf (live 0 (2 ^ 48 - 1)) 1).rxBeats ∧ (beatOf 5 0).dmod = (live 0 0).hub.module ∧
    (portOf (linked { shown := true }) 1).shown = true ∧ ({} : State).hub.time.lastPtp + 1953125 ≤ 1953125 ∧ ({ master := some 1 } : TimeEng).master = some 1 := by unfold FromHost; decide +kernel

theorem meets_ModuleEvents_beats : accepts (live 0 0) 0 (beatOf 0 0) = false ∧ accepts (collAt ranks2 0 0) 0 (beatOf 0 0) = true ∧
    beatGood headOf = true ∧ field headOf.payload 3 1 % 4 = 3 ∧ 1 ≤ field headOf.payload 16 1 ∧ (headPacket headOf.payload).len = 2 ∧ (headPacket headOf.payload).flag = 0 ∧
    [FOp.add, .swap, .cas, .band, .bor, .bxor, .min, .max][2]? = some .cas ∧ beatGood (beatOf 2 0) = true ∧ beatGood (beatOf 4 0) = true ∧
    collOf (coll ranks2) 0 5 = some ranks2 ∧ (∀ r ∈ ranks2.chans, ¬(r.dir = 1 ∧ r.peer = 1 ∧ r.pch = 0)) ∧
    find ({ ranks2 with chst := [(1, { limit := 1, limGen := 3 })] } : Coll).chst 1 = some { limit := 1, limGen := 3 } ∧ ranks2.gen = BitVec.ofNat 32 3 ∧
    readyModule.sec.slots.length = 5 := by decide +kernel

/-- Homes that a peer's request finds, and does not find, in the slice of its partition. -/
theorem meets_ModuleEvents_home : homeOf { one thread with parts := [(0, { cfg := { hbmSize := 1 } })] } 0 0x10000000000 128 = .ok (.hbm 0) ∧
    ∀ o, homeOf (one thread) 0 4096 8 ≠ .ok (.hbm o) := by
  refine ⟨by simp [homeOf, windowSize, part, one, look], fun o h => ?_⟩
  have e : homeOf (one thread) 0 4096 8 = .ok (.host 4096) := rfl
  rw [e] at h
  exact nomatch h

/-- R380, R498, R503: a beat that is not authentic takes its port down; a module reset without its boot stages ends in recovery. -/
theorem test_module : holds .beat { live 0 0 with arg := { a := 1, beat := { authentic := false, payload := List.replicate 64 0 } } }
      (fun t => !(portOf t 1).up && (portOf t 1).txKey == 0 && (portOf t 1).rxKey == 0) = true ∧
    holds .moduleReset (one thread) (fun t => t.sec.life == .recovery && t.threads.isEmpty && t.parts.isEmpty) = true := by decide +kernel

/-- R381: a beat for another module waits where its route's neighbour has raised stop, and leaves at the go. -/
theorem test_stop_go : (match exec .beat { linked { up := true, stop := [0] } with arg := { a := 1, beat := { beatOf 5 0 with dmod := 9 } } } with
    | .next t => t.out.isEmpty && t.hub.held.length == 1 && holds .beat ({ t with arg := { a := 1, flag := true } }) (fun u => u.hub.held.isEmpty && u.out.length == 1)
    | _ => false) = true := by decide +kernel

/-- R503: KEY_EXCHANGE keys a port only once this module has attested itself there and has found the other good. -/
theorem test_port_keys : holds .keyExchange { linked { shown := true } with sec := { life := .ready }, arg := { b := 1, c := 1, flag := true } }
      (fun t => ((portOf t 1).txKey, (portOf t 1).rxKey) == (1, 2)) = true ∧
    holds .keyExchange { linked {} with sec := { life := .ready }, arg := { b := 1, c := 1, flag := true } } (fun t => (portOf t 1).txKey == 0) = true := by decide +kernel

/-- FIPS 202: the SHA3-256 digest of no bytes begins a7 ff c6 f8 (log entry 120). -/
theorem test_sha3 : (sha3 []).take 4 = [0xA7, 0xFF, 0xC6, 0xF8] ∧ (sha3 []).length = 32 := by decide +kernel

/-! ## Encodings and steps -/

theorem meets_EncodeDecode : wellFormed .C (.add 1 2 3) = true ∧ wellFormed .V (.vst 0 5 1 1 2 (tok 3 true false)) = true := by decide

theorem meets_DecodeEncode : decodeAt .C [0x1445, 0x0000] = .ok (.add 1 2 3, 2) ∨ decodeAt .C (encode (.add 1 2 3)) = .ok (.add 1 2 3, 2) := .inr rfl

/-- The state after reset with ADD g1, g2, g3 placed where the next step fetches it. -/
def placed : State := State.reset.withFetchWord 32 (encodeNat (.add 1 2 3))

theorem meets_StepRuns : placed.clock.phase = .issue [.ctl 0 0] ∧ canIssue (setPhase (.issue []) placed) 0 0 = true ∧ heldC (setPhase (.issue []) placed) 0 = false ∧
    (tile (setPhase (.issue []) placed) 0).coreAt ≠ some (setPhase (.issue []) placed).clock.now ∧
    ((thr (setPhase (.issue []) placed) 0).frz.isNone && breaks (setPhase (.issue []) placed) 0 0) = false := by decide +kernel

theorem meets_StepRuns_decode : decodeAt (Stream.ofCode 0) (halvesAt (setPhase (.issue []) placed) 0 0) = .ok (.add 1 2 3, 2) := rfl

/-- The vector engine in the block call of context 0. -/
def owned (st : Nat) : State := { engine st thread call with tiles := [(0, { eng := [(st, { owner := some 0 })] })] }

/-- An engine word and a streamer's word at issue. -/
theorem meets_StepRuns_engines : (look ({} : EngArb) (tile (owned 1) 0).eng 1).owner = some 0 ∧
    canIssue (owned 1) 0 1 = true ∧ canIssue (engine 3 thread call) 0 3 = true ∧
    inCall (engine 3 thread call) 0 3 = true := by decide +kernel

/-- An input that is due at the landing of a network cycle. -/
theorem meets_StepRuns_input : ({ one thread with inputs := [{ what := .framepush }] } : State).clock.phase = .land ∧
    placeOf (fun (z : Input) => z.at_ ≤ 0) 0 [({ what := .framepush } : Input)] = some 0 ∧ encodeLen .framepush = 0 := by decide

theorem meets_StepKeepsMemories : Memory.wf State.reset.host = true ∧ Memory.wf State.reset.hbm.mem = true ∧ (∀ n, Memory.wf (tile State.reset n).mem = true) ∧
    (∃ t, step State.reset = .next t) := ⟨rfl, rfl, fun _ => rfl, _, rfl⟩

/-- The first step after a word is placed runs it: ADDI g5, g0, 9 writes 9. -/
theorem test_step : (match step (State.reset.withFetchWord 32 (encodeNat (.addi 5 0 9))) with
    | .next t => gOf (thr t 0) 5 == 9 && (thr t 0).c.pc == 2
    | _ => false) = true := by decide +kernel
end Sys2Proof.Tests
end

section
/-!
PROOFS. Every step keeps the memories canonical (O59; 00 R4, 08 R195, 12 R317). A memory changes in three ways only: bytes
are written, a range is cleared, or the memory is replaced by the empty one. The first part shows that each keeps the
canonical form. Then follows, in the order of the model's files, one lemma `canonical_f` for each function `f` that makes a
state: with the lemmas of the functions that `f` calls, which its proof cites, it says that `f` keeps the memories
canonical. Where the body of `f` touches no memory the proof is the hypothesis itself. `exec`, the turns of a network cycle
and the step come last.
-/
namespace Sys2Proof.Laws

open Sys2Proof.Machine Sys2Proof.Safety

/-! ## What happens to one memory -/

theorem wfFrom_filter {m : Memory} {lo : Nat} (keep : Nat × Byte → Bool) (hw : wfFrom lo m = true) :
    wfFrom lo (m.filter keep) = true := by
  induction m generalizing lo with
  | nil => rfl
  | cons p rest ih =>
    obtain ⟨a, b⟩ := p
    simp only [wfFrom, Bool.and_eq_true, decide_eq_true_eq] at hw
    obtain ⟨⟨ha, hb⟩, hrest⟩ := hw
    simp only [List.filter_cons]
    split
    · simp only [wfFrom, Bool.and_eq_true, decide_eq_true_eq]
      exact ⟨⟨ha, hb⟩, ih hrest⟩
    · exact wfFrom_mono (by omega) (ih hrest)

/-- A memory from which a range is cleared keeps the canonical form. -/
theorem wf_filter {m : Memory} (h : Memory.wf m = true) (keep : Nat × Byte → Bool) : Memory.wf (m.filter keep) = true :=
  wfFrom_filter keep h

/-- A memory into which another is copied byte by byte keeps the canonical form, whatever the other holds. -/
theorem wf_foldl_writeByte {m : Memory} (h : Memory.wf m = true) (l : List (Nat × Byte)) :
    Memory.wf (l.foldl (fun m e => writeByte m e.1 e.2) m) = true :=
  List.foldlRecOn (motive := fun m => Memory.wf m = true) l _ h fun _ hm e _ => wf_writeByte hm e.1 e.2

/-- A write of the bytes whose addresses pass a test keeps the canonical form. -/
theorem wf_writeRunIf {m : Memory} (h : Memory.wf m = true) (ok : Nat → Bool) (a : Nat) (r : Run) :
    Memory.wf (writeRunIf ok m a r) = true := by
  induction r generalizing m a with
  | nil => exact h
  | cons x rest ih =>
    cases x with
    | none => exact ih h (a + 1)
    | some b =>
      refine ih ?_ (a + 1)
      split
      · exact wf_writeByte h a b
      · exact h

/-! ## What happens to the memory of a tile -/

section
variable {t : Tile} (h : Memory.wf t.mem = true)
include h

theorem wf_foldl_tile {α : Type} {f : Tile → α → Tile} (l : List α)
    (hf : ∀ t x, Memory.wf t.mem = true → Memory.wf (f t x).mem = true) : Memory.wf (l.foldl f t).mem = true :=
  List.foldlRecOn (motive := fun t => Memory.wf t.mem = true) l f h fun t ht x _ => hf t x ht

theorem wf_storeBytes (bs a) : Memory.wf (storeBytes bs a t).mem = true := wf_storeRun h ..

theorem wf_poisonWord (w) : Memory.wf (poisonWord w t).mem = true := by
  unfold poisonWord; split <;> exact h

theorem wf_memError (hard w) : Memory.wf (memError hard w t).mem = true := by
  unfold memError; split
  · exact wf_poisonWord h w
  · split <;> exact h

theorem wf_updateElem (w a vs) : Memory.wf (updateElem w a vs t).mem = true := by
  simp only [updateElem]; split
  · exact h
  · exact wf_storeBytes h ..

theorem wf_deliverLocal (p) : Memory.wf (deliverLocal p t).mem = true := by
  have hd := wf_foldl_tile h (p.data.zip (upFrom 0 p.len)) (f := fun t f =>
    storeRun (f.1.bytes.map some) (p.addr + 64 * f.2) (fun _ => f.1.poison) t) fun t x ht => wf_storeRun ht ..
  unfold deliverLocal; split
  · exact hd
  · exact wf_storeBytes hd ..

theorem wf_writePacket (r a) : Memory.wf (writePacket r a t).mem = true :=
  wf_foldl_tile (wf_storeBytes h ..) _ fun _ _ ht => wf_storeRun ht ..

theorem wf_fillRange (a n bs) : Memory.wf (fillRange a n bs t).mem = true := wf_writeBytes (wf_filter h _) a bs

theorem wf_resetTile : Memory.wf (resetTile t).mem = true := h

theorem wf_tickTile (s n) : Memory.wf (tickTile s n t).mem = true := h

theorem wf_writeDebug (now n v) : Memory.wf (writeDebug now n v t).mem = true := by
  unfold writeDebug; repeat' split
  all_goals exact h

end

/-! ## What happens to the memory of the device -/

section
variable {m : Hbm} (h : Memory.wf m.mem = true)
include h

theorem wf_layOpen (b) : Memory.wf (layOpen m b).mem = true := by
  unfold layOpen; split
  · exact h
  · exact wf_writeBytes h ..

theorem wf_layOpenAll (o n) : Memory.wf (layOpenAll m o n).mem = true := by
  unfold layOpenAll; split
  · exact h
  · exact List.foldlRecOn (motive := fun m => Memory.wf m.mem = true) _ layOpen h fun m hm b _ => wf_layOpen hm b

theorem wf_zeroSlice (c) : Memory.wf (zeroSlice c m).mem = true := wf_filter h _

theorem wf_sealSlice (k c) : Memory.wf (sealSlice k c m).mem = true := h

theorem wf_poisonBlock (b) : Memory.wf (poisonBlock b m).mem = true := by
  simpa only [poisonBlock] using h

end

/-! ## The memories of a state -/

/-- The memories of a table of tiles are in their canonical form. -/
def CanonicalTiles (m : SMap Tile) : Prop := ∀ n, Memory.wf (look {} m n).mem = true

/-- An outcome that is no next state, or a next state with canonical memories. -/
def CanonicalNext : Out → Prop
  | .next t => MemoryCanonical t
  | _ => True

theorem canonicalNext_next {s : State} : CanonicalNext (.next s) ↔ MemoryCanonical s := Iff.rfl

theorem canonicalNext_fault {r : Fault} : CanonicalNext (.fault r) := trivial

theorem find_mapVals {α : Type} (f : Nat → α → α) (m : SMap α) (k : Nat) : find (mapVals f m) k = (find m k).map (f k) := by
  induction m with
  | nil => rfl
  | cons p rest ih =>
    obtain ⟨a, v⟩ := p
    by_cases hk : a = k
    · subst hk; simp [mapVals, find]
    · simpa [mapVals, find, hk] using ih

theorem canonicalTiles_mapVals {m : SMap Tile} (h : CanonicalTiles m) {f : Nat → Tile → Tile}
    (hf : ∀ n t, Memory.wf t.mem = true → Memory.wf (f n t).mem = true) : CanonicalTiles (mapVals f m) := by
  intro n
  have hn := h n
  rw [look_eq_find] at hn ⊢
  rw [find_mapVals]
  cases hm : find m n with
  | none => rfl
  | some t => exact hf n t (by simpa [hm] using hn)

theorem memoryCanonical_iff {s : State} :
    MemoryCanonical s ↔ Memory.wf s.host = true ∧ Memory.wf s.hbm.mem = true ∧ CanonicalTiles s.tiles := Iff.rfl

section
variable {s : State} (h : MemoryCanonical s)
include h

theorem wf_host : Memory.wf s.host = true := h.1

theorem wf_hbm : Memory.wf s.hbm.mem = true := h.2.1

theorem canonicalTiles_tiles : CanonicalTiles s.tiles := h.2.2

theorem wf_tile (n : Nat) : Memory.wf (tile s n).mem = true := h.2.2 n

theorem canonical_modTile (n : Nat) {f : Tile → Tile}
    (hf : ∀ t, Memory.wf t.mem = true → Memory.wf (f t).mem = true) : MemoryCanonical (modTile n f s) := by
  refine ⟨h.1, h.2.1, fun m => ?_⟩
  rw [tile_modTile]; split
  · exact hf _ (wf_tile h n)
  · exact wf_tile h m

theorem canonical_getD {o : Option State} (ho : ∀ t, o = some t → MemoryCanonical t) : MemoryCanonical (o.getD s) := by
  cases o with
  | none => exact h
  | some t => exact ho t rfl

theorem canonical_foldl {α : Type} {f : State → α → State} (l : List α)
    (hf : ∀ s x, MemoryCanonical s → MemoryCanonical (f s x)) : MemoryCanonical (l.foldl f s) :=
  List.foldlRecOn l f h fun s hs x _ => hf s x hs

end

theorem canonical_foldl_snd {α β : Type} {f : β × State → α → β × State} {x : β × State} (h : MemoryCanonical x.2) (l : List α)
    (hf : ∀ x y, MemoryCanonical x.2 → MemoryCanonical (f x y).2) : MemoryCanonical (l.foldl f x).2 :=
  List.foldlRecOn (motive := fun x => MemoryCanonical x.2) l f h fun x hx y _ => hf x y hx

section
variable {s : State} (h : MemoryCanonical s)
include h

/-! ## Answers of an instruction, threads, and the moves they share -/

theorem canonical_modThr (tid f) : MemoryCanonical (modThr tid f s) := h

theorem canonical_modMe (f) : MemoryCanonical (modMe f s) := h

theorem canonical_modPart (p f) : MemoryCanonical (modPart p f s) := h

theorem canonical_modDie (d f) : MemoryCanonical (modDie d f s) := h

theorem canonical_modLaunch (l f) : MemoryCanonical (modLaunch l f s) := h

theorem canonical_modTeam (t f) : MemoryCanonical (modTeam t f s) := h

theorem canonical_modSaved (p tm m f) : MemoryCanonical (modSaved p tm m f s) := h

theorem canonical_emit (m) : MemoryCanonical (emit m s) := h

theorem canonical_setTdisp (vf x) : MemoryCanonical (setTdisp vf x s) := h

theorem canonical_integrityFails (vf) : MemoryCanonical (integrityFails vf s) := by
  unfold integrityFails; split <;> exact h

theorem canonical_fromHost (vf) {f} (hf : ∀ s, MemoryCanonical s → CanonicalNext (f s)) :
    CanonicalNext (fromHost vf f s) := by
  unfold fromHost; split
  · exact h
  · split
    · exact canonical_integrityFails h vf
    · exact hf s h

theorem canonical_sendHeld : MemoryCanonical (sendHeld s) :=
  canonical_foldl (by exact h) _ fun _ _ hs => canonical_emit hs _

theorem canonical_modCount (n p f) : MemoryCanonical (modCount n p f s) := canonical_modTile h _ fun _ ht => ht

theorem canonical_traceEv (tid always bit type st mpc pos a b) :
    MemoryCanonical (traceEv tid always bit type st mpc pos a b s) :=
  canonical_modTile h _ fun _ ht => by dsimp only; split <;> exact ht

theorem canonical_trigger (tid n st mpc pos) : MemoryCanonical (trigger tid n st mpc pos s) :=
  canonical_modTile h _ fun _ ht => by dsimp only; split <;> exact ht

theorem canonical_remember (host a n) : MemoryCanonical (remember host a n s) := h

theorem canonical_hostWrite (a bs) : MemoryCanonical (hostWrite a bs s) :=
  ⟨wf_writeBytes h.1 a bs, h.2⟩

theorem canonical_flqWrite (p bs) : MemoryCanonical (flqWrite p bs s) := canonical_hostWrite h ..

theorem canonical_flqPut (p bs) : MemoryCanonical (flqPut p bs s) := by
  unfold flqPut; split
  · exact canonical_flqWrite h ..
  · exact h

theorem canonical_flqFlush (p k) : MemoryCanonical (flqFlush p k s) := by
  fun_induction flqFlush p k s <;> grind [canonical_modPart, canonical_flqWrite]

theorem canonical_logPut (tid kind stream v) : MemoryCanonical (logPut tid kind stream v s).2 := by
  grind [logPut, canonical_modThr, canonical_modPart, canonical_hostWrite]

theorem canonical_logFill (a v) : MemoryCanonical (logFill a v s) := canonical_hostWrite h ..

theorem canonical_diverge (tid flags idx) : MemoryCanonical (diverge tid flags idx s) :=
  canonical_flqPut (canonical_modThr h ..) ..

theorem canonical_logTake (tid kind stream) : MemoryCanonical (logTake tid kind stream s).2 := by
  unfold logTake; dsimp only; split
  · exact canonical_diverge h ..
  · split
    · exact h
    · exact canonical_diverge h ..

theorem canonical_consume (tid kind stream v) : MemoryCanonical (consume tid kind stream v s).2 := by
  grind [consume, canonical_logPut, canonical_logTake]

theorem canonical_countFault (tid f) : MemoryCanonical (countFault tid f s) := by
  grind [countFault, canonical_modTile, canonical_modCount, canonical_trigger, canonical_diverge]

theorem canonical_raise (tid f holdC) : MemoryCanonical (raise tid f holdC s) := by
  unfold raise; split
  · exact canonical_countFault (canonical_modThr h ..) ..
  · split
    · split
      · exact h
      · exact canonical_countFault (canonical_modThr h ..) ..
    · split <;> exact h

theorem canonical_setHead (tid st x) : MemoryCanonical (setHead tid st x s) := h

theorem canonical_waitFlag (n) : CanonicalNext (waitFlag n s) := h

theorem canonical_waitStuck (n) : CanonicalNext (waitStuck n s) := h

theorem canonical_waitBusy : CanonicalNext (waitBusy s) := h

theorem canonical_faultAt (f) : CanonicalNext (faultAt f s) := canonical_raise h ..

theorem canonical_illegalAt (r) : CanonicalNext (illegalAt r s) := canonical_faultAt h ..

theorem canonical_issued (tid st) : MemoryCanonical (issued tid st s) := h

theorem canonical_wordDone (n f) : MemoryCanonical (wordDone n f s) :=
  canonical_modTile (canonical_modMe (canonical_issued h ..) _) _ fun _ ht => ht

theorem canonical_doneC (n f) : CanonicalNext (doneC n f s) := by
  unfold doneC; split
  · trivial
  · exact canonical_wordDone h ..

theorem canonical_doneCS (n) {f} (hf : ∀ s, MemoryCanonical s → MemoryCanonical (f s)) :
    CanonicalNext (doneCS n f s) := by
  have hd := canonical_doneC h n fun t => t
  unfold doneCS; split
  next s1 h1 => rw [h1] at hd; exact hf s1 hd
  next => exact hd

theorem canonical_freeEngine (tid st) : MemoryCanonical (freeEngine tid st s) :=
  canonical_modTile h _ fun _ ht => by dsimp only; split <;> exact ht

theorem canonical_advEng (n) : MemoryCanonical (advEng n s) := by
  unfold advEng; dsimp only; split
  · exact canonical_freeEngine (canonical_modMe h _) ..
  · exact h

theorem canonical_engDone (n tk retired) : MemoryCanonical (engDone n tk retired s) :=
  canonical_advEng (canonical_issued (canonical_modMe h _) ..) _

theorem canonical_issueEng (n tk retired) {f} (hf : ∀ wid s, MemoryCanonical s → MemoryCanonical (f wid s)) :
    CanonicalNext (issueEng n tk retired f s) := by
  unfold issueEng; split
  · trivial
  · exact hf _ _ (canonical_engDone h ..)

theorem canonical_engWord (n tk retired check) {f} (hf : ∀ wid s, MemoryCanonical s → MemoryCanonical (f wid s)) :
    CanonicalNext (engWord n tk retired check f s) := by
  unfold engWord; split
  · trivial
  · split
    · exact canonical_waitFlag h _
    · split
      · exact canonical_faultAt h _
      · exact canonical_issueEng h n tk retired hf

theorem canonical_modCall (f) : MemoryCanonical (modCall f s) := h

theorem canonical_arriveBar (tid n) : MemoryCanonical (arriveBar tid n s) := h

theorem canonical_setShared (d kind v) : MemoryCanonical (setShared d kind v s) := canonical_consume h ..

/-! ## Flags and tokens -/

theorem canonical_writeP (tid st n bits v mpc pos) : MemoryCanonical (writeP tid st n bits v mpc pos s) := by
  unfold writeP; split
  · exact h
  · exact canonical_traceEv (canonical_modThr h ..) ..

theorem canonical_traceMem (tid st bit mpc pos a n cls wr) : MemoryCanonical (traceMem tid st bit mpc pos a n cls wr s) := canonical_traceEv h ..

theorem canonical_traceHere (bit a n cls wr) : MemoryCanonical (traceHere bit a n cls wr s) :=
  canonical_traceMem h ..

/-! ## Control flow -/

theorem canonical_alu (d v) : CanonicalNext (alu d v s) := canonical_doneC h ..

theorem canonical_divWord (d a b f) : CanonicalNext (divWord d a b f s) := by
  unfold divWord; split
  · trivial
  · split
    · exact canonical_faultAt h _
    · exact canonical_alu h ..

theorem canonical_predWord (p v) : CanonicalNext (predWord p v s) :=
  canonical_doneCS h _ fun _ hs => canonical_writeP hs ..

theorem canonical_cmpWord (p a b rel) : CanonicalNext (cmpWord p a b rel s) := canonical_predWord h ..

theorem canonical_cmpiWord (p a imm rel) : CanonicalNext (cmpiWord p a imm rel s) := canonical_predWord h ..

theorem canonical_target (n v) : CanonicalNext (target n v s) := canonical_doneC h ..

theorem canonical_branchWord (p n link) : CanonicalNext (branchWord p n link s) := by
  unfold branchWord; dsimp only; split
  · exact canonical_doneC h ..
  · split
    · exact h
    · exact canonical_doneCS h _ fun _ hs => canonical_traceEv (canonical_modMe hs _) ..

theorem canonical_loadWord (d a cls size off sgn) : CanonicalNext (loadWord d a cls size off sgn s) := by
  unfold loadWord; split
  · trivial
  · split
    · exact h
    · dsimp only; split
      · exact canonical_faultAt h _
      · exact canonical_doneCS h _ fun _ hs => canonical_modMe (canonical_traceMem hs ..) _

theorem canonical_storeWord (d a cls size off) : CanonicalNext (storeWord d a cls size off s) := by
  unfold storeWord; split
  · trivial
  · split
    · exact h
    · dsimp only; split
      · exact canonical_faultAt h _
      · exact canonical_doneCS h _ fun _ hs => canonical_modTile (canonical_traceMem hs ..) _ fun _ ht =>
            wf_storeBytes ht ..

theorem canonical_execTrig (n) : CanonicalNext (execTrig n s) :=
  canonical_doneCS h _ fun _ hs => canonical_trigger hs ..

theorem canonical_execTrap (code) : CanonicalNext (execTrap code s) :=
  canonical_doneCS h _ fun _ hs => canonical_raise hs ..

/-! ## Command and result queues -/

theorem canonical_appOnly {k} (hk : ∀ s, MemoryCanonical s → CanonicalNext (k s)) : CanonicalNext (appOnly k s) := by
  unfold appOnly; repeat' split
  · trivial
  · exact canonical_illegalAt h _
  · exact hk s h

theorem canonical_execEnq (st off one) : CanonicalNext (execEnq st off one s) := by
  unfold execEnq; refine canonical_appOnly h fun s h => ?_
  split
  · exact canonical_doneC h ..
  · exact h

theorem canonical_execFork (a mask) : CanonicalNext (execFork a mask s) := by
  unfold execFork; refine canonical_appOnly h fun s h => ?_
  split
  · exact h
  · exact canonical_doneC h ..

theorem canonical_execJoin (mask) : CanonicalNext (execJoin mask s) := by
  unfold execJoin; refine canonical_appOnly h fun s h => ?_
  split
  · exact canonical_doneC h ..
  · exact h

theorem canonical_execGive (x) : CanonicalNext (execGive x s) := by
  unfold execGive; refine canonical_appOnly h fun s h => ?_
  split
  · exact h
  · exact canonical_doneC h ..

theorem canonical_execTake (x) : CanonicalNext (execTake x s) := by
  unfold execTake; refine canonical_appOnly h fun s h => ?_
  split
  · exact h
  · exact canonical_doneC h ..

theorem canonical_execTokenRelease : CanonicalNext (execTokenRelease s) := by
  unfold execTokenRelease; dsimp only; split
  · split
    · trivial
    · exact h
  · trivial

theorem canonical_takeEngine (tid st) : MemoryCanonical (takeEngine tid st s) := by
  unfold takeEngine; split
  · exact canonical_modTile h _ fun _ ht => ht
  · exact h

theorem canonical_emptyCall (tid st) : MemoryCanonical (emptyCall tid st s) := by
  unfold emptyCall; split
  · exact canonical_modTile (canonical_modThr h ..) _ fun _ ht => ht
  · exact h

theorem canonical_serveCall (tid st) : MemoryCanonical (serveCall tid st s) := by
  unfold serveCall; dsimp only; split
  · exact canonical_takeEngine (canonical_modThr h ..) ..
  · exact h
  · split
    · exact canonical_raise h ..
    · split
      · exact canonical_emptyCall h ..
      · exact canonical_takeEngine (canonical_modThr h ..) ..

theorem canonical_execBlockCall : CanonicalNext (execBlockCall s) := by
  unfold execBlockCall; dsimp only; split
  · split
    · exact canonical_serveCall h ..
    · trivial
  · split
    · exact canonical_serveCall h ..
    · trivial

/-! ## The vector engine -/

theorem canonical_landResult (tid r) : MemoryCanonical (landResult tid r s) := by
  unfold landResult; split
  · exact canonical_writeP (canonical_modThr h ..) ..
  · exact h

theorem canonical_execResultLanding : CanonicalNext (execResultLanding s) := by
  unfold execResultLanding; dsimp only; split
  · split
    · exact canonical_landResult (canonical_modThr h ..) ..
    · trivial
  · trivial

theorem canonical_addFly (r) : MemoryCanonical (addFly r s) := h

theorem canonical_vWord (unit lat wb d f) : CanonicalNext (vWord unit lat wb d f s) := by
  unfold vWord; exact canonical_engWord h _ _ _ _ fun _ _ hs => canonical_addFly hs _

theorem canonical_vF1 (unit lat ty wb d a f) : CanonicalNext (vF1 unit lat ty wb d a f s) :=
  canonical_vWord h ..

theorem canonical_vF2 (unit lat ty wb d a b f) : CanonicalNext (vF2 unit lat ty wb d a b f s) :=
  canonical_vWord h ..

theorem canonical_vTrans (ty wb d a g) : CanonicalNext (vTrans ty wb d a g s) := canonical_vWord h ..

theorem canonical_vFused (ty wb d a b c np nz) : CanonicalNext (vFused ty wb d a b c np nz s) := by
  unfold vFused; exact canonical_vWord h ..

theorem canonical_vI2 (unit lat wb d a b f) : CanonicalNext (vI2 unit lat wb d a b f s) := canonical_vWord h ..

theorem canonical_vI1 (wb d a f) : CanonicalNext (vI1 wb d a f s) := canonical_vWord h ..

theorem canonical_vCvt (ty wb d a f) : CanonicalNext (vCvt ty wb d a f s) := canonical_vWord h ..

theorem canonical_vCmp (p rel) : CanonicalNext (vCmp p rel s) := by
  unfold vCmp; exact canonical_engWord h _ _ _ _ fun _ _ hs => canonical_addFly hs _

theorem canonical_vPerm (wb d f) : CanonicalNext (vPerm wb d f s) := canonical_vWord h ..

theorem canonical_execVpass (wb d a tk) : CanonicalNext (execVpass wb d a tk s) := by
  unfold execVpass; exact canonical_engWord h _ _ _ _ fun _ _ hs => canonical_addFly hs _

theorem canonical_execVnop : CanonicalNext (execVnop s) := canonical_engWord h _ _ _ _ fun _ _ hs => hs

theorem canonical_vLoad (e wb d g step cls tk) : CanonicalNext (vLoad e wb d g step cls tk s) := by
  unfold vLoad; exact canonical_engWord h _ _ _ _ fun _ _ hs => canonical_addFly (canonical_traceMem hs ..) _

theorem canonical_vStore (e p v g step cls tk) : CanonicalNext (vStore e p v g step cls tk s) := by
  unfold vStore; exact canonical_engWord h _ _ _ _ fun _ _ hs =>
        canonical_modTile (canonical_traceMem hs ..) _ fun _ ht => wf_storeRun ht ..

theorem canonical_beginLong (tk base a b) : MemoryCanonical (beginLong tk base a b s) := h

theorem canonical_longFault (f) : CanonicalNext (longFault f s) := canonical_faultAt h ..

theorem canonical_progressed : MemoryCanonical (progressed s) := h

theorem canonical_worked : MemoryCanonical (worked s) := h

theorem canonical_stepLong (f) : MemoryCanonical (stepLong f s) := h

theorem canonical_endLong (n) : MemoryCanonical (endLong n s) := canonical_advEng h ..

theorem canonical_gatherElem (d) : CanonicalNext (gatherElem d s) := by
  unfold gatherElem; dsimp only; split
  · exact canonical_longFault h _
  · split
    · exact h
    · exact canonical_addFly (canonical_endLong (canonical_progressed h) _) _

theorem canonical_scatterElem : CanonicalNext (scatterElem s) := by
  unfold scatterElem; dsimp only; split
  · exact canonical_longFault h _
  · split
    · exact canonical_stepLong (canonical_progressed (canonical_modTile h _ fun _ ht => wf_storeBytes ht ..)) _
    · exact canonical_addFly (canonical_endLong (canonical_progressed (canonical_modTile h _ fun _ ht =>
          wf_storeBytes ht ..)) _) _

theorem canonical_longWord (tk g vi vd cls wr) {elem} (he : ∀ s, MemoryCanonical s → CanonicalNext (elem s)) :
    CanonicalNext (longWord tk g vi vd cls wr elem s) := by
  unfold longWord; split
  · trivial
  · split
    · exact he s h
    · split
      · exact canonical_waitFlag h _
      · exact he _ (canonical_traceHere (canonical_beginLong h ..) ..)

theorem canonical_execVgath (d g vi cls tk) : CanonicalNext (execVgath d g vi cls tk s) :=
  canonical_longWord h _ _ _ _ _ _ fun _ hs => canonical_gatherElem hs _

theorem canonical_execVscat (d g vi cls tk) : CanonicalNext (execVscat d g vi cls tk s) :=
  canonical_longWord h _ _ _ _ _ _ fun _ hs => canonical_scatterElem hs

/-! ## Scattered updates and element lists -/

theorem canonical_tagWord (d f) : CanonicalNext (tagWord d f s) :=
  canonical_appOnly h fun _ hs => canonical_doneC hs ..

theorem canonical_doUpdate (tid) : MemoryCanonical (doUpdate tid s) := by
  unfold doUpdate; dsimp only; split
  · exact h
  · exact canonical_modThr (canonical_modTile h _ fun _ ht => wf_updateElem ht ..) ..

theorem canonical_loneUpdates (tl) : MemoryCanonical (loneUpdates tl s) :=
  canonical_foldl h _ fun _ _ hs => canonical_doUpdate hs _

theorem canonical_endScatter : MemoryCanonical (endScatter s) := canonical_endLong h ..

theorem canonical_pushCycle : CanonicalNext (pushCycle s) := by
  unfold pushCycle; dsimp only; split
  · split
    · exact canonical_endScatter (canonical_progressed (canonical_doUpdate h _))
    · exact canonical_progressed (canonical_doUpdate h _)
  · split
    · exact canonical_longFault (canonical_modCall (canonical_modMe h _) _) _
    · split
      · exact canonical_endScatter (canonical_progressed (canonical_modCall (canonical_modMe h _) _))
      · exact h

theorem canonical_execApush (vi vv tk) : CanonicalNext (execApush vi vv tk s) := by
  unfold execApush; split
  · trivial
  · split
    · exact canonical_pushCycle h
    · split
      · exact canonical_illegalAt h _
      · split
        · exact h
        · exact canonical_pushCycle (canonical_beginLong h ..)

theorem canonical_listCycle (f) : MemoryCanonical (listCycle f s) := by
  unfold listCycle; dsimp only; split
  · exact canonical_endScatter (canonical_modMe (canonical_doUpdate h _) _)
  · exact canonical_doUpdate h _

theorem canonical_listWord_ (tk base f) : CanonicalNext (listWord_ tk base f s) := by
  unfold listWord_; split
  · trivial
  · split
    · exact canonical_worked (canonical_listCycle h _)
    · split
      · exact h
      · exact canonical_listCycle (canonical_modMe (canonical_beginLong h ..) _) _

theorem canonical_faultOpen (base) : CanonicalNext (faultOpen base s) :=
  canonical_faultAt (canonical_modMe h ..) ..

theorem canonical_badOpen (base) : CanonicalNext (badOpen base s) := by
  unfold badOpen; split
  · exact canonical_faultOpen h _
  · exact canonical_waitBusy (canonical_doUpdate (canonical_modMe h _) _)

theorem canonical_execAopen (g op ty cls tk) : CanonicalNext (execAopen g op ty cls tk s) := by
  unfold execAopen; split
  · split
    · exact canonical_faultOpen h _
    · exact h
  · split
    · dsimp only; split
      · exact canonical_badOpen h _
      · exact canonical_listWord_ h ..
    · dsimp only; split
      · exact canonical_badOpen h _
      · exact canonical_listWord_ h ..

theorem canonical_execAnop : CanonicalNext (execAnop s) := canonical_engWord h _ _ _ _ fun _ _ hs => hs

/-! ## Accesses to memory and their homes -/

theorem canonical_countCmp (p rmw saved) : MemoryCanonical (countCmp p rmw saved s) := h

theorem canonical_countReads (p l) : MemoryCanonical (countReads p l s) := by
  unfold countReads; dsimp only; split <;> exact h

theorem canonical_hbmBlock (p bad a run b) : MemoryCanonical (hbmBlock p bad a run s b) := by
  unfold hbmBlock
  refine canonical_countCmp ?_ _ _ _
  exact ⟨h.1, wf_writeRunIf h.2.1 .., h.2.2⟩

theorem canonical_hbmWrite (p bad o run) : MemoryCanonical (hbmWrite p bad o run s) := by
  unfold hbmWrite; split
  · exact h
  · exact canonical_foldl (canonical_remember h ..) _ fun _ _ hs => canonical_hbmBlock hs ..

theorem canonical_outsideWrite (a bad run) : MemoryCanonical (outsideWrite a bad run s) :=
  ⟨wf_writeRun h.1 .., h.2⟩

theorem canonical_homeWrite (p x bad run) : MemoryCanonical (homeWrite p x bad run s) := by
  cases x with
  | hbm o => exact canonical_hbmWrite h ..
  | host a => exact canonical_outsideWrite h ..
  | peer m a => exact h
  | got bs bad => exact h

theorem canonical_hubSend (x wr bytes bad half) : MemoryCanonical (hubSend x wr bytes bad half s) := h

theorem canonical_hubWrite (u p pasid va x bad run half) : MemoryCanonical (hubWrite u p pasid va x bad run half s) := by
  unfold hubWrite; split
  · exact canonical_hubSend h ..
  · exact canonical_homeWrite h ..

theorem canonical_noteRefused (u p) : MemoryCanonical (noteRefused u p s) := h

theorem canonical_sendAts (d vf pasid page) : MemoryCanonical (sendAts d vf pasid page s) := h

theorem canonical_askHost (d vf pasid page) : MemoryCanonical (askHost d vf pasid page s) := by
  unfold askHost; dsimp only; split
  · exact h
  · split <;> exact h

theorem canonical_nextMiss (d) : MemoryCanonical (nextMiss d s) := by
  unfold nextMiss; split
  · exact h
  · split <;> exact h

theorem canonical_countNres (tl p) : MemoryCanonical (countNres tl p s) := canonical_modCount h ..

theorem canonical_countMiss (tl p pasid page wait) : MemoryCanonical (countMiss tl p pasid page wait s) := h

theorem canonical_agentXlat (d cap vf pasid va) : MemoryCanonical (agentXlat d cap vf pasid va s).2 := by
  unfold agentXlat; split
  · exact h
  · exact canonical_askHost h ..

theorem canonical_tileXlat (tl p vf pasid va) : MemoryCanonical (tileXlat tl p vf pasid va s).2 := by
  grind [tileXlat, canonical_modTile, canonical_countMiss, canonical_agentXlat]

theorem canonical_hubXlat (vf pasid va) : MemoryCanonical (hubXlat vf pasid va s).2 := by
  unfold hubXlat; split
  · exact h
  · exact canonical_agentXlat h ..

theorem canonical_recordGroups (d k) : MemoryCanonical (recordGroups d k s) := by
  fun_induction recordGroups d k s <;> grind [canonical_modDie, canonical_flqWrite, canonical_foldl]

theorem canonical_sendReady (d k) : MemoryCanonical (sendReady d k s) := by
  fun_induction sendReady d k s <;> grind [canonical_modDie, canonical_emit, canonical_foldl]

theorem canonical_sendGroups (d fuel) : MemoryCanonical (sendGroups d fuel s) := by
  unfold sendGroups; dsimp only; split
  · exact canonical_sendReady (canonical_recordGroups h ..) ..
  · exact canonical_recordGroups h ..

theorem canonical_closeBatch (d) : MemoryCanonical (closeBatch d s) := by
  unfold closeBatch; split
  · exact canonical_sendGroups (canonical_modDie h ..) ..
  · exact h

theorem canonical_installRefused (d pasid page) : MemoryCanonical (installRefused d pasid page s) := h

theorem canonical_enterPage (d q) : MemoryCanonical (enterPage d q s) := by
  unfold enterPage; split
  · exact h
  · split
    · exact h
    · dsimp only; split
      · exact canonical_closeBatch (canonical_modDie h ..) _
      · exact h

theorem canonical_hubHome (p vf pasid va n wr) : MemoryCanonical (hubHome p vf pasid va n wr s).2 := by
  grind [hubHome, canonical_modDie, canonical_hubXlat, canonical_enterPage]

theorem canonical_hubPeer (x) : MemoryCanonical (hubPeer x s).2 := by
  unfold hubPeer; split
  · exact h
  · split <;> exact h

theorem canonical_hubGo (u p vf pasid va n wr) : MemoryCanonical (hubGo u p vf pasid va n wr s).2 := by
  grind [hubGo, canonical_hubHome, canonical_hubPeer]

theorem canonical_tileWriteAs (tl p vf pasid va n) : MemoryCanonical (tileWriteAs tl p vf pasid va n s).2 := by
  grind [tileWriteAs, canonical_tileXlat]

theorem canonical_tileWrite (tid va n) : MemoryCanonical (tileWrite tid va n s).2 := canonical_tileWriteAs h ..

theorem canonical_holdAs (d q held answer) {n t} (hr : holdAs d q held answer s = .ok (n, t)) : MemoryCanonical t := by
  grind [holdAs, canonical_modDie, canonical_enterPage]

theorem canonical_holdAccess (tid held answer page) {n t} (hr : holdAccess tid held answer page s = .ok (n, t)) :
    MemoryCanonical t := by
  grind [holdAccess, canonical_holdAs]

theorem canonical_leaveHold (tid held) : MemoryCanonical (leaveHold tid held s) := by
  unfold leaveHold; split <;> exact h

theorem canonical_sentOnly (keep s0) : MemoryCanonical (sentOnly keep s0 s) := by
  unfold sentOnly
  exact canonical_foldl (by exact h) _ fun _ m hs => canonical_emit hs m

theorem canonical_onlyAsked (s1) : MemoryCanonical (onlyAsked s s1) := h

theorem canonical_afterFault (s1) : MemoryCanonical (afterFault s s1) := h

theorem canonical_waiting (name s0) : CanonicalNext (waiting name s0 s) := by
  unfold waiting; split
  · exact h
  · trivial

/-! ## Handles, formats and storage -/

theorem canonical_modHandle (p k f) : MemoryCanonical (modHandle p k f s) := h

theorem canonical_storageWrite (p k c x a bs bad half) : MemoryCanonical (storageWrite p k c x a bs bad half s) := by
  unfold storageWrite; split
  · exact canonical_modTile h _ fun _ ht => wf_storeRun ht ..
  · exact canonical_hubWrite h ..

theorem canonical_storageElem (p k c x a hi v bad) : MemoryCanonical (storageElem p k c x a hi v bad s) :=
  canonical_storageWrite h ..

theorem canonical_findPlace (p k c r a n wr) : MemoryCanonical (findPlace p k c r a n wr s).2 := by
  unfold findPlace; split
  · exact h
  · exact canonical_hubGo h ..

omit h in
theorem canonical_convertElem {st : HubAns × State} (h : MemoryCanonical st.2) (p k c old x) :
    MemoryCanonical (convertElem p k c old x st).2 := by
  grind [convertElem, canonical_storageElem, canonical_findPlace]

omit h in
theorem canonical_padElem {st : HubAns × State} (h : MemoryCanonical st.2) (p k c x) :
    MemoryCanonical (padElem p k c x st).2 := by
  grind [padElem, canonical_storageElem, canonical_findPlace]

omit h in
theorem canonical_padByte {st : HubAns × State} (h : MemoryCanonical st.2) (p k c o) :
    MemoryCanonical (padByte p k c o st).2 := by
  grind [padByte, canonical_storageWrite, canonical_findPlace]

omit h in
theorem canonical_padNibble {st : HubAns × State} (h : MemoryCanonical st.2) (p k c o) :
    MemoryCanonical (padNibble p k c o st).2 := by
  grind [padNibble, canonical_storageElem, canonical_findPlace]

theorem canonical_convertBlock (p k e c) : MemoryCanonical (convertBlock p k e c s).2 := by
  grind [convertBlock, canonical_convertElem, canonical_padElem, canonical_padByte, canonical_padNibble,
    canonical_foldl_snd]

theorem canonical_tokenDone (p c) : MemoryCanonical (tokenDone p c s) := by
  unfold tokenDone; split <;> exact h

theorem canonical_blockDone (p k e c) : MemoryCanonical (blockDone p k e c s) := by
  unfold blockDone; split
  · exact canonical_tokenDone (canonical_modPart h ..) ..
  · exact h

theorem canonical_relayFails (p k c) : MemoryCanonical (relayFails p k c s) :=
  canonical_tokenDone (canonical_modHandle h ..) ..

theorem canonical_execRelayoutBlock : CanonicalNext (execRelayoutBlock s) := by
  grind [execRelayoutBlock, canonical_noteRefused, canonical_onlyAsked, canonical_afterFault, canonical_waiting,
    canonical_modHandle, canonical_convertBlock, canonical_blockDone, canonical_relayFails, canonicalNext_next,
    canonicalNext_fault]

theorem canonical_sharedWord (d) {f} (hf : ∀ s, MemoryCanonical s → MemoryCanonical (f s).2) :
    CanonicalNext (sharedWord d f s) := by
  unfold sharedWord; repeat' split
  · trivial
  · exact canonical_waitBusy h
  · exact canonical_doneCS h 2 fun s1 h1 => canonical_setShared (hf s1 h1) ..

theorem canonical_recordWord (d a n) {f} (hf : ∀ bs s, MemoryCanonical s → MemoryCanonical (f bs s).2) :
    CanonicalNext (recordWord d a n f s) := by
  unfold recordWord; split
  · trivial
  · dsimp only; split
    · exact canonical_faultAt h _
    · exact canonical_sharedWord h d (hf _)

theorem canonical_defHandle (k bs) : MemoryCanonical (defHandle k bs s).2 := by
  unfold defHandle; split
  · exact h
  · dsimp only; split
    · exact h
    · split <;> exact h

theorem canonical_execHndDef (d a b) : CanonicalNext (execHndDef d a b s) := by
  grind [execHndDef, canonical_recordWord, canonical_defHandle]

theorem canonical_relayHandle (k bs) : MemoryCanonical (relayHandle k bs s).2 := by
  grind [relayHandle, canonical_modMe, canonical_modPart]

theorem canonical_execHndRelay (d a b) : CanonicalNext (execHndRelay d a b s) := by
  grind [execHndRelay, canonical_recordWord, canonical_relayHandle]

theorem canonical_execHndQry (d a item) : CanonicalNext (execHndQry d a item s) := by
  grind [execHndQry, canonical_sharedWord]

theorem canonical_dropHandle (k) : MemoryCanonical (dropHandle k s).2 := by
  unfold dropHandle; split
  · dsimp only; split <;> exact h
  · dsimp only; split
    · exact h
    · split
      · exact h
      · split <;> exact h

theorem canonical_execHndDrop (d a) : CanonicalNext (execHndDrop d a s) := by
  grind [execHndDrop, canonical_sharedWord, canonical_dropHandle]

theorem canonical_refHandle (p k up) : MemoryCanonical (refHandle p k up s) := h

/-! ## The matrix engine -/

theorem canonical_readElem (tid k x n) : MemoryCanonical (readElem tid k x n s).2 := by
  grind [readElem, canonical_countNres, canonical_tileXlat]

theorem canonical_readElems (tid k n l) : MemoryCanonical (readElems tid k n l s).2 := by
  fun_induction readElems tid k n l s <;> grind [canonical_readElem]

theorem canonical_stepA (tid n) : MemoryCanonical (stepA tid n s).2 := by
  grind [stepA, canonical_readElems]

theorem canonical_stepB (tid n) : MemoryCanonical (stepB tid n s).2 := by
  grind [stepB, canonical_readElems]

theorem canonical_stepZA (tid n) : MemoryCanonical (stepZA tid n s).2 := by
  unfold stepZA; split
  · dsimp only; split
    · exact canonical_readElems h ..
    · exact h

theorem canonical_stepZB (tid n) : MemoryCanonical (stepZB tid n s).2 := by
  unfold stepZB; split
  · dsimp only; split
    · exact canonical_readElems h ..
    · exact h

theorem canonical_doStep (tid n) : MemoryCanonical (doStep tid n s).2 := by
  fun_cases doStep tid n s <;>
    grind [canonical_stepA, canonical_stepB, canonical_stepZA, canonical_stepZB, canonical_modThr]

theorem canonical_doStep_some (tid n) {r x} (hr : doStep tid n s = (some (.ok r), x)) : MemoryCanonical r := by
  revert hr
  fun_cases doStep tid n s <;>
    grind [canonical_stepA, canonical_stepB, canonical_stepZA, canonical_stepZB, canonical_modThr]

theorem canonical_modArr (tl f) : MemoryCanonical (modArr tl f s) := canonical_modTile h _ fun _ ht => ht

theorem canonical_pauseNest (tid) : MemoryCanonical (pauseNest tid s) :=
  canonical_modArr (canonical_modThr h ..) ..

theorem canonical_regainNest (tid) : MemoryCanonical (regainNest tid s) :=
  canonical_modArr (canonical_modThr h ..) ..

theorem canonical_nestStep {credit} (hc : ∀ a b s, MemoryCanonical s → MemoryCanonical (credit a b s)) :
    CanonicalNext (nestStep credit s) := by
  unfold nestStep; dsimp only; split
  · split
    · exact canonical_regainNest h _
    · trivial
  · split
    · trivial
    · split
      · exact canonical_pauseNest h _
      · split
        · trivial
        · split
          · split
            · exact canonical_modThr h ..
            · split
              · trivial
              · exact canonical_modThr h ..
          · split
            next hr =>
              have h1 := canonical_modThr (canonical_doStep_some h _ _ hr)
              have h2 := fun a b f g => hc a b _ (h1 f g)
              grind [canonical_pauseNest, canonicalNext_next]
            next hr => grind [canonical_doStep, canonical_pauseNest, canonical_raise, canonicalNext_next]
            next hr => grind [canonical_doStep, canonical_pauseNest, canonical_waiting, canonicalNext_next]
          · exact canonical_modThr h ..
          · trivial

theorem canonical_endNest (tid) : MemoryCanonical (endNest tid s) := by
  unfold endNest; split
  · exact h
  · dsimp only; split
    · exact canonical_modThr (canonical_modArr (canonical_foldl h _ fun _ _ hs =>
          canonical_refHandle hs ..) ..) ..
    · exact canonical_modThr (canonical_foldl h _ fun _ _ hs => canonical_refHandle hs ..) ..

theorem canonical_execSelfTest : CanonicalNext (execSelfTest s) := by
  unfold execSelfTest; dsimp only; split
  · trivial
  · split
    · split
      · split
        · exact canonical_endNest (canonical_modArr h ..) _
        · exact canonical_raise (canonical_endNest (canonical_modArr h ..) _) ..
      · trivial
    · trivial

theorem canonical_mWord (lat tk check f) : CanonicalNext (mWord lat tk check f s) := by
  unfold mWord; refine canonical_engWord h _ _ _ _ fun _ s h => ?_
  split <;> exact h

theorem canonical_execMclr (a tk) : CanonicalNext (execMclr a tk s) := by
  unfold execMclr; split
  · exact h
  · exact canonical_mWord h ..

theorem canonical_execMgo (a cls tk) : CanonicalNext (execMgo a cls tk s) := by
  grind [execMgo, canonical_modMe, canonical_waitFlag, canonical_waitBusy, canonical_faultAt, canonical_illegalAt,
    canonical_issueEng, canonical_refHandle, canonical_modArr, canonicalNext_fault, canonical_foldl]

theorem canonical_execMwait (tk) : CanonicalNext (execMwait tk s) := by
  unfold execMwait; split
  · trivial
  · split
    · exact h
    · split
      · split <;> exact h
      · exact canonical_issueEng h _ _ _ fun _ _ hs => hs

theorem canonical_emitRow (a out) : MemoryCanonical (emitRow a out s) := by
  unfold emitRow; dsimp only; split
  · exact canonical_modCall (canonical_modTile h _ fun _ ht => wf_storeBytes ht ..) _
  · split
    · exact canonical_stepLong (canonical_modTile h _ fun _ ht => wf_storeBytes ht ..) _
    · exact canonical_modMe (canonical_endLong (canonical_modTile h _ fun _ ht => wf_storeBytes ht ..) _) _

theorem canonical_execMemit (g a out _cls tk) : CanonicalNext (execMemit g a out _cls tk s) := by
  unfold execMemit; split
  · trivial
  · split
    · exact canonical_worked (canonical_emitRow h ..)
    · split
      · exact h
      · dsimp only; split
        · exact h
        · split
          · exact canonical_faultAt h _
          · exact canonical_emitRow (canonical_beginLong h ..) ..

theorem canonical_endTest : MemoryCanonical (endTest s) := canonical_endLong (canonical_modArr h ..) ..

theorem canonical_execMtest (tk) : CanonicalNext (execMtest tk s) := by
  unfold execMtest; split
  · trivial
  · split
    · split
      · exact canonical_worked (canonical_endTest h)
      · exact h
    · split
      · exact h
      · split
        · exact h
        · exact canonical_modArr (canonical_beginLong h ..) ..

theorem canonical_execMnop : CanonicalNext (execMnop s) := canonical_engWord h _ _ _ _ fun _ _ hs => hs

/-! ## Copies and their conversions -/

theorem canonical_takeLogs (tid kind st k) : MemoryCanonical (takeLogs tid kind st k s).2 := by
  fun_induction takeLogs tid kind st k s <;> grind [canonical_logPut]

theorem canonical_takeRecords (tid kind st k) : MemoryCanonical (takeRecords tid kind st k s).2 := by
  fun_induction takeRecords tid kind st k s <;> grind [canonical_logTake]

theorem canonical_startCopy (c) : MemoryCanonical (startCopy c s) := by
  grind [startCopy, canonical_modMe, canonical_refHandle, canonical_takeLogs, canonical_takeRecords, canonical_foldl]

theorem canonical_copyWord (kind g k nr cls tk) : CanonicalNext (copyWord kind g k nr cls tk s) := by
  fun_cases copyWord kind g k nr cls tk s <;> grind [canonical_modMe, canonical_waitFlag, canonical_waitBusy,
    canonical_faultAt, canonical_issueEng, canonical_traceMem, canonical_startCopy, canonicalNext_fault]

theorem canonical_execKwait (mask tk) : CanonicalNext (execKwait mask tk s) := by
  unfold execKwait; split
  · trivial
  · split
    · exact h
    · split
      · exact h
      · split
        · exact h
        · exact canonical_issueEng h _ _ _ fun _ _ hs => canonical_modMe hs _

theorem canonical_copyNop : CanonicalNext (copyNop s) := by
  unfold copyNop; split
  · exact h
  · exact canonical_engWord h _ _ _ _ fun _ _ hs => hs

theorem canonical_readSource (tid i fmt c forced x0) : MemoryCanonical (readSource tid i fmt c forced x0 s).2 := by
  grind [readSource, canonical_emit, canonical_countNres, canonical_tileXlat, canonical_enterPage]

theorem canonical_readSlot (tid i fmt c forced k k1) : MemoryCanonical (readSlot tid i fmt c forced k k1 s).2 := by
  fun_induction readSlot tid i fmt c forced k k1 s <;> grind [canonical_readSource]

theorem canonical_writePiece (tid i p q) : MemoryCanonical (writePiece tid i p q s) := by
  unfold writePiece; split
  · split
    · exact canonical_modTile h _ fun _ ht => wf_storeRun ht ..
    · split
      · exact canonical_homeWrite h ..
      · split
        · exact canonical_homeWrite h ..
        · exact h

theorem canonical_rowPieces (tid fmt c row k l l1) : MemoryCanonical (rowPieces tid fmt c row k l l1 s).2 := by
  fun_induction rowPieces tid fmt c row k l l1 s <;> grind [canonical_tileWrite]

theorem canonical_modCopy (tid i f) : MemoryCanonical (modCopy tid i f s) := h

theorem canonical_stopCopy (tid i row cause a c) : MemoryCanonical (stopCopy tid i row cause a c s) := by
  unfold stopCopy; split
  · exact h
  · split
    · split
      · exact h
      · exact canonical_raise (canonical_modCopy h ..) ..
    · split
      · exact canonical_modCopy (canonical_leaveHold h ..) ..
      · exact canonical_raise (canonical_modCopy (canonical_leaveHold h ..) ..) ..

theorem canonical_unsent (s0) : MemoryCanonical (unsent s0 s) := canonical_sentOnly h ..

theorem canonical_dispatchRow (name tid i c w f) : CanonicalNext (dispatchRow name tid i c w f s) := by
  fun_cases dispatchRow name tid i c w f s <;> grind [canonical_holdAccess, canonical_leaveHold, canonical_onlyAsked,
    canonical_waiting, canonical_writePiece, canonical_rowPieces, canonical_modCopy, canonical_stopCopy,
    canonicalNext_next, canonicalNext_fault, canonical_foldl]

theorem canonical_retireCopy (tid i) : MemoryCanonical (retireCopy tid i s) := by
  unfold retireCopy; split
  · split <;> exact h
  · exact h

theorem canonical_execTransferSlot : CanonicalNext (execTransferSlot s) := by
  grind [execTransferSlot, canonical_countReads, canonical_onlyAsked, canonical_waiting, canonical_readSlot,
    canonical_modCopy, canonical_stopCopy, canonical_unsent, canonical_dispatchRow, canonical_retireCopy,
    canonicalNext_next, canonicalNext_fault]

theorem canonical_ackRow (tid i j cause c) : CanonicalNext (ackRow tid i j cause c s) := by
  unfold ackRow; split
  · trivial
  · split
    · exact h
    · exact canonical_stopCopy (canonical_modCopy h ..) ..

theorem canonical_peerRow (tid i cause bad vs blocks bs c) : CanonicalNext (peerRow tid i cause bad vs blocks bs c s) := by
  grind [peerRow, canonical_modCopy, canonical_stopCopy, canonicalNext_next, canonicalNext_fault]

theorem canonical_waitingRow (tid i c) : CanonicalNext (waitingRow tid i c s) := by
  unfold waitingRow; split
  · trivial
  · dsimp only; split
    · trivial
    · exact canonical_dispatchRow h ..

theorem canonical_hubAnswer (j cause bad bs) : CanonicalNext (hubAnswer j cause bad bs s) := by
  unfold hubAnswer; split
  · trivial
  · split
    · trivial
    · exact h

theorem canonical_hubAck (j cause) : CanonicalNext (hubAck j cause s) := by
  unfold hubAck; split
  · trivial
  · split
    · trivial
    · exact h

theorem canonical_execRowResponse : CanonicalNext (execRowResponse s) := by
  grind [execRowResponse, canonical_ackRow, canonical_peerRow, canonical_waitingRow, canonical_hubAnswer,
    canonical_hubAck, canonicalNext_fault]

theorem canonical_writeResidency (tid c) : MemoryCanonical (writeResidency tid c s) := by
  unfold writeResidency; split
  · exact canonical_foldl h _ fun _ _ hs => canonical_logFill hs ..
  · exact canonical_writeP (canonical_foldl h _ fun _ _ hs => canonical_logFill hs ..) ..

theorem canonical_unrefCopy (p c) : MemoryCanonical (unrefCopy p c s) :=
  canonical_foldl h _ fun _ _ hs => canonical_refHandle hs ..

theorem canonical_endCopy (tid i c) : MemoryCanonical (endCopy tid i c s) := h

theorem canonical_execCopyCompletion : CanonicalNext (execCopyCompletion s) := by
  grind [execCopyCompletion, canonical_modThr, canonical_arriveBar, canonical_modCopy, canonical_writeResidency,
    canonical_unrefCopy, canonical_endCopy, canonicalNext_next, canonicalNext_fault]

/-! ## Routers and packets -/

theorem canonical_modPacket (i f) : MemoryCanonical (modPacket i f s) := h

theorem canonical_dropPacket (i) : MemoryCanonical (dropPacket i s) := h

theorem canonical_addPackets (l) : MemoryCanonical (addPackets l s) := h

theorem canonical_modEntry (p router flow f) : MemoryCanonical (modEntry p router flow f s) := h

theorem canonical_sendOut (t e l) : MemoryCanonical (sendOut t e l s) := h

theorem canonical_sendError (t e p) : MemoryCanonical (sendError t e p s) := by
  unfold sendError; split
  · split
    · exact canonical_modCount (canonical_modCount (canonical_modEntry h ..) ..) ..
    · exact canonical_addPackets (canonical_modCount (canonical_modEntry h ..) ..) _
  · split
    · exact canonical_addPackets (canonical_modCount (canonical_modEntry h ..) ..) _
    · exact canonical_modCount (canonical_modCount (canonical_modEntry h ..) ..) ..

theorem canonical_dropLate (t e p) : MemoryCanonical (dropLate t e p s) :=
  canonical_modCount (canonical_modEntry h ..) ..

theorem canonical_actCombine (t x p) {r} (hr : actCombine t x p s = some r) : MemoryCanonical r := by
  grind [actCombine, canonical_modEntry, canonical_sendOut, canonical_sendError]

theorem canonical_scanOut (t e p l) : MemoryCanonical (scanOut t e p l s) := by
  grind [scanOut, canonical_modCount, canonical_sendOut, canonical_foldl]

theorem canonical_actScan (t x p) {r} (hr : actScan t x p s = some r) : MemoryCanonical r := by
  grind [actScan, canonical_modEntry, canonical_sendError, canonical_scanOut]

theorem canonical_actTranspose (t x p) {r} (hr : actTranspose t x p s = some r) : MemoryCanonical r := by
  grind [actTranspose, canonical_modEntry, canonical_sendOut, canonical_sendError]

theorem canonical_normOut (t e x held p) : MemoryCanonical (normOut t e x held p s) := by
  grind [normOut, canonical_sendOut, canonical_sendError]

theorem canonical_actNormalise (t x p) {r} (hr : actNormalise t x p s = some r) : MemoryCanonical r := by
  grind [actNormalise, canonical_modEntry, canonical_sendError, canonical_dropLate, canonical_normOut]

theorem canonical_wakeNormalise (p t x q held) : MemoryCanonical (wakeNormalise p t x q held s) := by
  grind [wakeNormalise, canonical_modEntry, canonical_dropLate, canonical_normOut, canonical_foldl]

theorem canonical_failNormalise (p t hflow) : MemoryCanonical (failNormalise p t hflow s) :=
  canonical_foldl h _ fun _ _ hs => canonical_foldl (canonical_modEntry hs ..) _ fun _ _ hs =>
    canonical_sendError hs ..

theorem canonical_actHold (t x p) : MemoryCanonical (actHold t x p s) := by
  unfold actHold; dsimp only; split
  · exact canonical_sendError h ..
  · split
    · exact canonical_sendOut (canonical_wakeNormalise (canonical_modEntry h ..) ..) ..
    · exact canonical_wakeNormalise (canonical_modEntry h ..) ..

theorem canonical_actUpdate (t x p) : MemoryCanonical (actUpdate t x p s) := by
  unfold actUpdate; dsimp only; split
  · exact canonical_sendError h ..
  · exact canonical_sendOut (canonical_modTile h _ fun _ ht => wf_storeRun ht ..) ..

theorem canonical_actOn (t x p) {r} (hr : actOn t x p s = some r) : MemoryCanonical r := by
  grind [actOn, canonical_sendOut, canonical_actCombine, canonical_actScan, canonical_actTranspose,
    canonical_actNormalise, canonical_actHold, canonical_actUpdate]

theorem canonical_shiftPacket (i) : MemoryCanonical (shiftPacket s i) := by
  unfold shiftPacket; split
  · exact h
  · split
    · exact h
    · dsimp only; split
      · exact h
      · split
        · exact canonical_modTile (canonical_modThr (canonical_modPacket h ..) ..) _ fun _ ht => ht
        · exact canonical_modTile (canonical_modPacket h ..) _ fun _ ht => ht

theorem canonical_shiftAll : MemoryCanonical (shiftAll s) :=
  canonical_foldl h _ fun _ _ hs => canonical_shiftPacket hs _

theorem canonical_passOn (t i p miss) : CanonicalNext (passOn t i p miss s) := by
  grind [passOn, canonical_modCount, canonical_dropPacket, canonical_addPackets, canonicalNext_next, canonicalNext_fault]

theorem canonical_leaveHub (i p l) : CanonicalNext (leaveHub i p l s) := by
  unfold leaveHub; split
  · exact h
  · trivial

theorem canonical_hubDiscard (i p) : MemoryCanonical (hubDiscard i p s) := h

theorem canonical_execPacketLookup : CanonicalNext (execPacketLookup s) := by
  fun_cases execPacketLookup s <;> grind [canonical_modCount, canonical_modPacket, canonical_dropPacket,
    canonical_dropLate, canonical_actOn, canonical_passOn, canonical_leaveHub, canonical_hubDiscard, canonicalNext_next,
    canonicalNext_fault]

theorem canonical_discard (tl i p f) : CanonicalNext (Machine.discard tl i p f s) := canonical_modCount h ..

theorem canonical_enterQueue (tid i p) : CanonicalNext (enterQueue tid i p s) := by
  unfold enterQueue; split
  · dsimp only; split
    · trivial
    · split <;> exact h
  · dsimp only; split
    · trivial
    · split <;> exact h

theorem canonical_deliverTile (tl i p) : CanonicalNext (deliverTile tl i p s) := by
  grind [deliverTile, canonical_modThr, canonical_modTile, canonical_dropPacket, canonical_discard, canonical_enterQueue,
    wf_deliverLocal, canonicalNext_next, canonicalNext_fault]

theorem canonical_pieceHome (p va n) : MemoryCanonical (pieceHome p va n s).2 := by
  unfold pieceHome; split
  · exact h
  · exact canonical_tileWriteAs h ..

theorem canonical_refuseDelivery (i cause va p) : MemoryCanonical (refuseDelivery i cause va p s) := by
  grind [refuseDelivery, canonical_modDie, canonical_modSaved, canonical_raise, canonical_dropPacket]

theorem canonical_unhold (p) : MemoryCanonical (unhold p s) := by
  unfold unhold; split <;> exact h

theorem canonical_piecesGone (i n p) : MemoryCanonical (piecesGone i n p s) := by
  unfold piecesGone; split <;> exact h

theorem canonical_awaitPeer (i n va pa p) : MemoryCanonical (awaitPeer i n va pa p s) := canonical_unhold h ..

theorem canonical_deliverPeer (i m va pa p) : CanonicalNext (deliverPeer i m va pa p s) := by
  grind [deliverPeer, canonical_emit, canonical_onlyAsked, canonical_waiting, canonical_pieceHome, canonical_awaitPeer,
    canonicalNext_next]

theorem canonical_deliverPiece (i va n p x) : CanonicalNext (deliverPiece i va n p x s) := by
  fun_cases deliverPiece i va n p x s <;> grind [canonical_emit, canonical_homeWrite, canonical_unhold,
    canonical_piecesGone, canonical_awaitPeer, canonical_deliverPeer, canonicalNext_next, canonicalNext_fault]

theorem canonical_deliverHome (i p) : CanonicalNext (deliverHome i p s) := by
  fun_cases deliverHome i p s <;> grind [canonical_holdAs, canonical_onlyAsked, canonical_waiting, canonical_modPacket,
    canonical_pieceHome, canonical_refuseDelivery, canonical_deliverPiece, canonicalNext_next, canonicalNext_fault]

theorem canonical_peerDelivered (no seq cause) : CanonicalNext (peerDelivered no seq cause s) := by
  unfold peerDelivered; split
  · split
    · exact canonical_refuseDelivery h ..
    · dsimp only; split <;> exact h
  · exact h

theorem canonical_execDelivery : CanonicalNext (execDelivery s) := by
  grind [execDelivery, canonical_hubDiscard, canonical_discard, canonical_deliverTile, canonical_deliverHome,
    canonical_peerDelivered, canonicalNext_next, canonicalNext_fault]

/-! ## Flows -/

theorem canonical_translatePages (tid l x l1 x1) : MemoryCanonical (translatePages tid l x l1 x1 s).2 := by
  fun_induction translatePages tid l x l1 x1 s <;> grind [canonical_tileXlat, canonical_tileWrite]

theorem canonical_waitAsked (s1) : CanonicalNext (waitAsked s s1) := h

theorem canonical_sendPacket (tk t cls p) : CanonicalNext (sendPacket tk t cls p s) := by
  grind [sendPacket, canonical_modMe, canonical_modTile, canonical_issueEng, canonical_traceMem, canonical_addPackets]

theorem canonical_execFsend (a b cls tk) : CanonicalNext (execFsend a b cls tk s) := by
  unfold execFsend; split
  · trivial
  · split
    · exact canonical_waitFlag h _
    · dsimp only; repeat' split
      all_goals grind [canonical_faultAt, canonical_waitBusy, canonical_sendPacket, canonical_translatePages,
        canonical_waitAsked, canonical_holdAccess]

theorem canonical_logArrival (tid st q r) : MemoryCanonical (logArrival tid st q r s) := by
  unfold logArrival; split
  · exact h
  · exact canonical_consume h ..

theorem canonical_execVrecv (wb d q tk) : CanonicalNext (execVrecv wb d q tk s) := by
  unfold execVrecv; split
  · trivial
  · split
    · exact h
    · split
      · exact h
      · dsimp only; split
        · exact h
        · split
          · exact canonical_faultAt h _
          · split
            · exact h
            · exact canonical_issueEng h _ _ _ fun _ _ hs =>
                  canonical_addFly (canonical_modMe (canonical_logArrival hs ..) _) _

theorem canonical_execFrecv (a b _cls tk) : CanonicalNext (execFrecv a b _cls tk s) := by
  grind [execFrecv, canonical_modMe, canonical_modTile, canonical_raise, canonical_waitFlag, canonical_waitBusy,
    canonical_faultAt, canonical_issueEng, canonical_logArrival, wf_writePacket, canonicalNext_fault]

theorem canonical_drainResult (tid k) : MemoryCanonical (drainResult tid k s) := by
  fun_induction drainResult tid k s <;> grind [canonical_modThr, canonical_addPackets]

theorem canonical_giveCredit (tid n) : MemoryCanonical (giveCredit tid n s) := by
  unfold giveCredit; split
  · exact h
  · exact canonical_drainResult (canonical_modThr h ..) ..

theorem canonical_execNestStep : CanonicalNext (execNestStep s) :=
  canonical_nestStep h fun a b _ hs => canonical_giveCredit hs a b

theorem canonical_execMrd (wb d a row half tk) : CanonicalNext (execMrd wb d a row half tk s) := by
  grind [execMrd, canonical_modMe, canonical_waitFlag, canonical_waitStuck, canonical_waitBusy, canonical_issueEng,
    canonical_addFly, canonical_drainResult, canonicalNext_fault]

theorem canonical_execFbind (a b tk) : CanonicalNext (execFbind a b tk s) := by
  unfold execFbind; exact canonical_engWord h _ _ _ _ fun _ _ hs => canonical_modThr (canonical_modMe hs _) ..

theorem canonical_unbind (tid) : MemoryCanonical (unbind tid s) := by
  unfold unbind; split <;> exact h

theorem canonical_breakBindings (tid) : MemoryCanonical (breakBindings tid s) := by
  unfold breakBindings; dsimp only; split
  · exact canonical_unbind (canonical_unbind h _) _
  · exact canonical_unbind h _

theorem canonical_execFunbind (tk) : CanonicalNext (execFunbind tk s) := by
  unfold execFunbind; split
  · trivial
  · split
    · exact h
    · split
      · exact h
      · exact canonical_issueEng h _ _ _ fun _ _ hs => canonical_unbind hs _

theorem canonical_installFlow (p inst e) : MemoryCanonical (installFlow p inst e s) := h

theorem canonical_removeFlows (p test) : MemoryCanonical (removeFlows p test s) := by
  grind [removeFlows, canonical_modPart, canonical_failNormalise, canonical_foldl]

theorem canonical_removeFlow (p f) : MemoryCanonical (removeFlow p f s) := canonical_removeFlows h ..

theorem canonical_execFlowDef (a _cls tk) : CanonicalNext (execFlowDef a _cls tk s) := by
  unfold execFlowDef; exact canonical_engWord h _ _ _ _ fun _ _ hs => canonical_installFlow hs ..

theorem canonical_execFlowDel (a tk) : CanonicalNext (execFlowDel a tk s) := by
  unfold execFlowDel; dsimp only; split
  · exact canonical_engWord h _ _ _ _ fun _ _ hs => canonical_removeFlow hs ..
  · exact canonical_engWord h _ _ _ _ fun _ _ hs => hs

theorem canonical_execFlowStat (a b _cls tk) : CanonicalNext (execFlowStat a b _cls tk s) := by
  unfold execFlowStat; exact canonical_engWord h _ _ _ _ fun _ _ hs => canonical_modTile hs _ fun _ ht =>
        wf_storeBytes ht ..

theorem canonical_execFnop : CanonicalNext (execFnop s) := canonical_engWord h _ _ _ _ fun _ _ hs => hs

/-! ## Accesses to far memory -/

theorem canonical_addFar (r listed) : MemoryCanonical (addFar r listed s) := h

theorem canonical_farLogs (nr r) : MemoryCanonical (farLogs nr r s).2 := by
  grind [farLogs, canonical_logPut, canonical_logTake]

theorem canonical_issueFar (r) : CanonicalNext (issueFar r s) := by
  grind [issueFar, canonical_doneCS, canonical_traceMem, canonical_addFar, canonical_farLogs]

theorem canonical_farWord (va size logs ord) {k} (hk : ∀ s, MemoryCanonical s → CanonicalNext (k s)) :
    CanonicalNext (farWord va size logs ord k s) := by
  grind [farWord, canonical_faultAt, canonical_waitBusy, canonicalNext_fault]

theorem canonical_farLoad (size d a cls ord nr) : CanonicalNext (farLoad size d a cls ord nr s) := by
  grind [farLoad, canonical_faultAt, canonical_countNres, canonical_tileXlat, canonical_waitAsked, canonical_issueFar,
    canonical_farWord]

theorem canonical_farWrite (r) : CanonicalNext (farWrite r s) := by
  fun_cases farWrite r s <;> grind [canonical_faultAt, canonical_tileWrite, canonical_holdAccess, canonical_waitAsked,
    canonical_issueFar]

theorem canonical_farStore (size d a cls ord) : CanonicalNext (farStore size d a cls ord s) :=
  canonical_farWord h _ _ _ _ fun _ hs => canonical_farWrite hs _

theorem canonical_farAtomic (size d a cls ord op) : CanonicalNext (farAtomic size d a cls ord op s) :=
  canonical_farWord h _ _ _ _ fun _ hs => canonical_farWrite hs _

theorem canonical_execFenceC (mask) : CanonicalNext (execFenceC mask s) := by
  unfold execFenceC; split
  · trivial
  · split
    · exact h
    · exact canonical_doneC h ..

theorem canonical_execFenceS (_sc) : CanonicalNext (execFenceS _sc s) := by
  unfold execFenceS; split
  · trivial
  · split
    · exact h
    · exact canonical_doneC h ..

theorem canonical_modFar (tid i f) : MemoryCanonical (modFar tid i f s) := h

theorem canonical_loadValue (r x) : MemoryCanonical (loadValue r x s).2 := by
  unfold loadValue; split <;> exact h

theorem canonical_performFamo (tid i r x) : MemoryCanonical (performFamo tid i r x s) := by
  unfold performFamo; split
  · dsimp only; split
    · exact canonical_foldl (by exact h) _ fun _ _ hs => canonical_modFar hs ..
    · exact canonical_foldl (canonical_homeWrite (by exact h) ..) _ fun _ _ hs => canonical_modFar hs ..

theorem canonical_performAt (tid i r x) : MemoryCanonical (performAt tid i r x s) := by
  grind [performAt, canonical_homeWrite, canonical_modFar, canonical_loadValue, canonical_performFamo]

theorem canonical_dropFar (tid i r) : MemoryCanonical (dropFar tid i r s) := h

theorem canonical_refuseFar (tid i cause r) : MemoryCanonical (refuseFar tid i cause r s) := by
  unfold refuseFar; split
  · exact canonical_dropFar (canonical_leaveHold h ..) ..
  · split
    · exact canonical_raise (canonical_modThr (canonical_dropFar (canonical_leaveHold h ..) ..) ..) ..
    · exact canonical_raise (canonical_dropFar (canonical_leaveHold h ..) ..) ..

theorem canonical_goFar (tid i r x) : MemoryCanonical (goFar tid i r x s) := by
  unfold goFar; split
  · exact canonical_emit (canonical_modFar (canonical_modFar (canonical_leaveHold h ..) ..) ..) _
  · exact canonical_performAt (canonical_modFar (canonical_leaveHold h ..) ..) ..

theorem canonical_loadAgain (tid i r) : CanonicalNext (loadAgain tid i r s) := by
  grind [loadAgain, canonical_tileXlat, canonical_enterPage, canonical_onlyAsked, canonical_waiting, canonical_refuseFar,
    canonical_goFar, canonicalNext_next]

theorem canonical_writeAgain (tid i r) : CanonicalNext (writeAgain tid i r s) := by
  fun_cases writeAgain tid i r s <;> grind [canonical_tileWrite, canonical_holdAccess, canonical_onlyAsked,
    canonical_waiting, canonical_modFar, canonical_refuseFar, canonical_goFar, canonicalNext_next, canonicalNext_fault]

theorem canonical_execFarRequest : CanonicalNext (execFarRequest s) := by
  unfold execFarRequest; dsimp only; split
  · trivial
  · split
    · trivial
    · split
      · exact canonical_goFar h ..
      · split
        · exact canonical_loadAgain h ..
        · exact canonical_writeAgain h ..

theorem canonical_landReply (tid i r) : MemoryCanonical (landReply tid i r s) := by
  unfold landReply; split
  · exact h
  · split
    · split
      · exact h
      · exact canonical_raise (canonical_dropFar h ..) ..
    · split
      · split
        · exact canonical_writeP (canonical_dropFar (canonical_modThr (canonical_foldl h _ fun _ _ hs =>
              canonical_logFill hs ..) ..) ..) ..
        · exact canonical_dropFar (canonical_modThr (canonical_foldl h _ fun _ _ hs =>
              canonical_logFill hs ..) ..) ..
      · split
        · exact canonical_writeP (canonical_dropFar (canonical_modThr (canonical_foldl h _ fun _ _ hs =>
              canonical_logFill hs ..) ..) ..) ..
        · exact canonical_dropFar (canonical_modThr (canonical_foldl h _ fun _ _ hs =>
              canonical_logFill hs ..) ..) ..

theorem canonical_execFarReply : CanonicalNext (execFarReply s) := by
  grind [execFarReply, canonical_refuseFar, canonical_landReply, canonicalNext_next, canonicalNext_fault]

theorem canonical_execBara (n) : CanonicalNext (execBara n s) := by
  unfold execBara; refine canonical_appOnly h fun s h => ?_
  split
  · exact h
  · split
    · exact h
    · exact canonical_doneCS h _ fun _ hs => canonical_arriveBar hs ..

theorem canonical_waitPhase (n) : CanonicalNext (waitPhase n s) := by
  unfold waitPhase; split
  · exact h
  · exact canonical_doneC h ..

theorem canonical_execBarw (n) : CanonicalNext (execBarw n s) := by
  unfold execBarw; refine canonical_appOnly h fun s h => ?_
  split
  · exact canonical_waitPhase h _
  · split
    · exact h
    · exact canonical_doneC h ..

theorem canonical_execBar (n) : CanonicalNext (execBar n s) := by
  unfold execBar; refine canonical_appOnly h fun s h => ?_
  split
  · exact canonical_waitPhase h _
  · split
    · exact h
    · split <;> exact h

/-! ## Residency and pages -/

theorem canonical_enterPages (d q k e k1) : MemoryCanonical (enterPages d q k e k1 s).2.2 := by
  fun_induction enterPages d q k e k1 s <;> grind [canonical_enterPage]

theorem canonical_execPageReq (d a b) : CanonicalNext (execPageReq d a b s) := by
  grind [execPageReq, canonical_modMe, canonical_waitBusy, canonical_doneCS, canonical_setShared, canonical_enterPages,
    canonicalNext_fault]

theorem canonical_execTranslationCompletion : CanonicalNext (execTranslationCompletion s) := by
  unfold execTranslationCompletion; dsimp only; split
  · trivial
  · refine canonical_fromHost h _ fun s h => ?_
    split
    · exact h
    · split
      · trivial
      · exact canonical_nextMiss (canonical_modDie h ..) _

theorem canonical_wakeHeld (d held hit) : MemoryCanonical (wakeHeld d held hit s) := h

theorem canonical_purge (bad) : MemoryCanonical (purge bad s) := by
  grind [purge, memoryCanonical_iff, canonicalTiles_mapVals]

theorem canonical_refusePages (d qs) : MemoryCanonical (refusePages d qs s) := by
  grind [refusePages, canonical_installRefused, canonical_wakeHeld, canonical_foldl]

theorem canonical_settleBatch (d) : MemoryCanonical (settleBatch d s) := by
  unfold settleBatch; dsimp only; split
  · exact canonical_closeBatch (canonical_sendGroups h ..) _
  · exact canonical_sendGroups h ..

theorem canonical_settleBatches : MemoryCanonical (settleBatches s) :=
  canonical_foldl h _ fun _ _ hs => canonical_settleBatch hs _

theorem canonical_grantPage (q) : MemoryCanonical (grantPage s q) := by
  unfold grantPage; split
  · exact canonical_modDie (canonical_purge h _) ..
  · exact canonical_purge h _

theorem canonical_execPrgResponse : CanonicalNext (execPrgResponse s) := by
  unfold execPrgResponse; dsimp only; split
  · trivial
  · refine canonical_fromHost h _ fun s h => ?_
    split
    · exact canonical_settleBatches (canonical_wakeHeld
        (canonical_foldl (canonical_modDie h ..) _ fun _ q hs => canonical_grantPage hs q) ..)
    · exact canonical_settleBatches (canonical_refusePages (canonical_modDie h ..) ..)
    · exact canonical_settleBatches (canonical_foldl (canonical_refusePages (by exact h) ..) _ fun _ _ hs =>
        canonical_refusePages (canonical_modDie hs ..) ..)

theorem canonical_execPageRequestEnable : CanonicalNext (execPageRequestEnable s) := by
  unfold execPageRequestEnable; refine canonical_fromHost h _ fun s h => ?_
  split
  · exact canonical_settleBatches (by exact h)
  · exact h

theorem canonical_execBatchTimer : CanonicalNext (execBatchTimer s) := by
  unfold execBatchTimer; dsimp only; split
  · trivial
  · split
    · exact canonical_closeBatch h _
    · trivial

theorem canonical_wakePart (p) : MemoryCanonical (wakePart p s) :=
  canonical_foldl h _ fun _ _ hs => canonical_wakeHeld hs ..

theorem canonical_endMigrations (hit) : MemoryCanonical (endMigrations hit s) := by
  grind [endMigrations, canonical_modPart, canonical_wakePart, canonical_foldl]

theorem canonical_execAtsInvalidation : CanonicalNext (execAtsInvalidation s) := by
  grind [execAtsInvalidation, canonical_modDie, canonical_fromHost, canonical_wakeHeld, canonical_purge,
    canonical_endMigrations, canonicalNext_next, canonicalNext_fault, canonical_foldl]

theorem canonical_execInvalidationCompletion : CanonicalNext (execInvalidationCompletion s) := by
  unfold execInvalidationCompletion; split
  · split
    · trivial
    · exact h
  · trivial

theorem canonical_enterMigrate (va deadline) : MemoryCanonical (enterMigrate va deadline s).2 := by
  unfold enterMigrate; split
  · exact h
  · dsimp only; split <;> exact h

theorem canonical_execMigrate (d a b) : CanonicalNext (execMigrate d a b s) := by
  unfold execMigrate; split
  · trivial
  · split
    · exact h
    · exact canonical_doneCS h _ fun _ hs => canonical_setShared (canonical_enterMigrate hs ..) ..

theorem canonical_modMig (p num f) : MemoryCanonical (modMig p num f s) := h

theorem canonical_giveUp (p f) : MemoryCanonical (giveUp p f s) :=
  canonical_wakePart (canonical_modPart h ..) ..

theorem canonical_abandon (p m) : MemoryCanonical (abandon p m s) := canonical_giveUp h ..

theorem canonical_failMig (p m flags) : MemoryCanonical (failMig p m flags s) := canonical_giveUp h ..

theorem canonical_pageCopied (p m bad) : MemoryCanonical (pageCopied p m bad s) := by
  unfold pageCopied; split
  · exact canonical_failMig h ..
  · exact h

theorem canonical_copyPage (p m src) : MemoryCanonical (copyPage p m src s) := by
  grind [copyPage, canonical_countReads, canonical_hubWrite, canonical_modMig, canonical_failMig, canonical_pageCopied]

theorem canonical_recordMig (p m) : MemoryCanonical (recordMig p m s) := by
  grind [recordMig, canonical_modPart, canonical_flqWrite, canonical_modMig]

theorem canonical_execMigrationCommand : CanonicalNext (execMigrationCommand s) := by
  grind [execMigrationCommand, canonical_modPart, canonical_noteRefused, canonical_hubHome, canonical_hubGo,
    canonical_onlyAsked, canonical_waiting, canonical_modMig, canonical_failMig, canonical_pageCopied, canonical_copyPage,
    canonical_recordMig, canonicalNext_next, canonicalNext_fault]

theorem canonical_execMigack : CanonicalNext (execMigack s) := by
  unfold execMigack; split
  · dsimp only; split
    · exact h
    · split
      · exact canonical_abandon (canonical_modPart h ..) ..
      · exact canonical_abandon h ..
  · dsimp only; split
    · exact h
    · split <;> exact h

theorem canonical_execFramepush : CanonicalNext (execFramepush s) := h

theorem canonical_execPpatwr : CanonicalNext (execPpatwr s) := by
  unfold execPpatwr; split <;> (dsimp only; split <;> exact h)

theorem canonical_execHostWindowAccess : CanonicalNext (execHostWindowAccess s) := by
  grind [execHostWindowAccess, canonical_emit, canonical_countReads, canonical_hbmWrite, wf_layOpenAll,
    canonicalNext_next, canonicalNext_fault, memoryCanonical_iff]

/-! ## Monitors -/

theorem canonical_putMon (i m) : MemoryCanonical (putMon i m s) := canonical_modTile h _ fun _ ht => ht

theorem canonical_monWord (d b allowed) {k} (hk : ∀ x s, MemoryCanonical s → CanonicalNext (k x s)) :
    CanonicalNext (monWord d b allowed k s) :=
  canonical_appOnly h fun s h => by
    dsimp only; repeat' split
    · exact canonical_waitBusy h
    · exact canonical_doneC h ..
    · exact hk _ s h

theorem canonical_scanStep (tl i) : MemoryCanonical (scanStep tl i s) := by
  grind [scanStep, canonical_modThr, canonical_modTile]

theorem canonical_scanAll : MemoryCanonical (scanAll s) :=
  canonical_foldl h _ fun _ _ hs => canonical_scanStep hs ..

theorem canonical_execMonArm (d a b) : CanonicalNext (execMonArm d a b s) := by
  unfold execMonArm; refine canonical_monWord h _ _ _ fun _ s h => ?_
  split
  · exact canonical_doneC h ..
  · split
    · exact canonical_doneC h ..
    · dsimp only; split
      · exact canonical_faultAt h _
      · split
        · exact canonical_doneC h ..
        · exact canonical_doneCS h _ fun _ hs => canonical_modMe (canonical_putMon hs ..) _

theorem canonical_execMonRef (d a b) : CanonicalNext (execMonRef d a b s) := by
  grind [execMonRef, canonical_modMe, canonical_doneC, canonical_doneCS, canonical_putMon, canonical_monWord]

theorem canonical_execMonRd (d b) : CanonicalNext (execMonRd d b s) := by
  unfold execMonRd; refine canonical_monWord h _ _ _ fun _ s h => ?_
  split
  · exact canonical_doneC h ..
  · split <;> exact canonical_doneC h ..

theorem canonical_execMonOff (d b) : CanonicalNext (execMonOff d b s) := by
  grind [execMonOff, canonical_modMe, canonical_modTile, canonical_doneC, canonical_doneCS, canonical_monWord]

theorem canonical_disarm (tid) : MemoryCanonical (disarm tid s) := canonical_modTile h _ fun _ ht => ht

theorem canonical_takeDrift (tid r) : MemoryCanonical (takeDrift tid r s) := by
  unfold takeDrift; split
  · exact h
  · exact canonical_raise h ..

theorem canonical_checkMonitor (t b i) : MemoryCanonical (checkMonitor t b s i) := by
  grind [checkMonitor, canonical_modTile, canonical_takeDrift, canonical_foldl]

theorem canonical_execPhaseCompletion : CanonicalNext (execPhaseCompletion s) := by
  grind [execPhaseCompletion, canonical_modThr, canonical_modTeam, canonical_checkMonitor, canonicalNext_next,
    canonicalNext_fault, canonical_foldl]

/-! ## The pool of banked memory -/

theorem canonical_poolPut (n) : MemoryCanonical (poolPut n s) :=
  canonical_foldl h _ fun _ _ hs => canonical_modDie hs ..

theorem canonical_enterPool (n) : MemoryCanonical (enterPool n s) := by
  unfold enterPool; split
  · exact canonical_poolPut h _
  · exact h

theorem canonical_refillPool (p k) : MemoryCanonical (refillPool p k s) := by
  fun_induction refillPool p k s <;> grind [canonical_modPart, canonical_poolPut]

theorem canonical_leavePool (p l n) : MemoryCanonical (leavePool p l n s) :=
  canonical_refillPool (canonical_foldl h _ fun _ _ hs => canonical_modDie hs ..) ..

theorem canonical_startMember (id r t) : MemoryCanonical (startMember id r t s).2 := by
  grind [startMember, canonical_modTile, wf_fillRange, memoryCanonical_iff]

theorem canonical_drawPower (e ts) : MemoryCanonical (drawPower e ts s) := canonical_foldl h _ fun _ _ hs => hs

theorem canonical_placeNode (n ts) : MemoryCanonical (placeNode n ts s) := by
  grind [placeNode, canonical_modLaunch, canonical_leavePool, canonical_startMember, canonical_drawPower,
    memoryCanonical_iff, canonical_foldl_snd]

theorem canonical_reserveFor (d n ts) : MemoryCanonical (reserveFor d n ts s) := h

theorem canonical_placeSaved (n t ts) : MemoryCanonical (placeSaved n t ts s) :=
  canonical_leavePool (canonical_drawPower (canonical_modPart h ..) ..) ..

theorem canonical_execPlacement : CanonicalNext (execPlacement s) := by
  unfold execPlacement; split
  · split
    · exact canonical_placeSaved h ..
    · exact canonical_placeNode h ..
  · exact h
  · trivial

theorem canonical_failLaunch (l status) : MemoryCanonical (failLaunch l status s) :=
  canonical_modPart (canonical_modLaunch (canonical_foldl h _ fun _ _ hs => canonical_leavePool hs ..) ..) ..

theorem canonical_readyNode (l n) : MemoryCanonical (readyNode l n s) := by
  unfold readyNode; dsimp only; split
  · exact h
  · split
    · exact canonical_failLaunch h ..
    · exact canonical_enterPool (canonical_modLaunch h ..) _

theorem canonical_completeNode (l n) : MemoryCanonical (completeNode l n s) := by
  unfold completeNode; dsimp only; split
  · exact h
  · exact canonical_foldl (canonical_modLaunch h ..) _ fun _ _ hs => canonical_readyNode hs ..

/-! ## Ends of threads -/

theorem canonical_dropStored (p tl rs) : MemoryCanonical (dropStored p tl rs s) :=
  canonical_foldl h _ fun _ _ hs => canonical_modPart hs ..

theorem canonical_leaveEngines (tid) : MemoryCanonical (leaveEngines tid s) :=
  canonical_foldl h _ fun _ _ hs => canonical_freeEngine hs ..

theorem canonical_releaseCtx (tid) : MemoryCanonical (releaseCtx tid s) := by
  grind [releaseCtx, canonical_breakBindings, canonical_disarm, canonical_dropStored, canonical_leaveEngines,
    memoryCanonical_iff]

theorem canonical_leaveTeam (tid killed) : MemoryCanonical (leaveTeam tid killed s) := by
  grind [leaveTeam, canonical_modLaunch, canonical_modTeam, canonical_completeNode, memoryCanonical_iff]

theorem canonical_tellReset (g) : MemoryCanonical (tellReset g s) :=
  canonical_foldl h _ fun _ _ hs => canonical_emit hs _

theorem canonical_resetPartition (p) : MemoryCanonical (resetPartition p s) := by
  grind [resetPartition, canonical_modPart, wf_resetTile, canonical_tellReset, memoryCanonical_iff,
    canonicalTiles_mapVals, canonical_foldl]

theorem canonical_spawnTiller (tid ctx) : MemoryCanonical (spawnTiller tid ctx s) := h

theorem canonical_servePending (tl) : MemoryCanonical (servePending tl s) := by
  grind [servePending, canonical_modTile, canonical_spawnTiller]

theorem canonical_needTiller (tid) : MemoryCanonical (needTiller tid s) := by
  grind [needTiller, canonical_modTile, canonical_servePending]

theorem canonical_endTiller (tid) : MemoryCanonical (endTiller tid s) := by
  grind [endTiller, canonical_modThr, canonical_servePending, memoryCanonical_iff]

theorem canonical_revoke (tid) : MemoryCanonical (revoke tid s) := by
  unfold revoke; split
  · split
    · exact canonical_modTile (canonical_modThr h ..) _ fun _ ht => ht
    · exact canonical_modTile h _ fun _ ht => ht
  · exact canonical_modTile h _ fun _ ht => ht

theorem canonical_bury (tid) : MemoryCanonical (bury tid s) := by
  unfold bury; split
  · exact canonical_releaseCtx h _
  · exact h

theorem canonical_killMember (tid) : MemoryCanonical (killMember tid s) :=
  canonical_bury (canonical_servePending (canonical_modThr (canonical_leaveTeam (canonical_leaveEngines
    (canonical_disarm (canonical_breakBindings (canonical_endNest
    (canonical_revoke h _) _) _) _) _) ..) ..) _) _

theorem canonical_killThread (tid) : MemoryCanonical (killThread tid s) := by
  unfold killThread; split
  · exact h
  · split
    · exact canonical_resetPartition h _
    · exact canonical_killMember h _

theorem canonical_supervise (tid) : MemoryCanonical (supervise tid s) := by
  unfold supervise; split
  · exact canonical_resetPartition h _
  · exact canonical_killThread h _

theorem canonical_countEsc (tid) : MemoryCanonical (countEsc tid s) := by
  grind [countEsc, canonical_modTile, canonical_emit]

theorem canonical_escalate (tid) : MemoryCanonical (escalate tid s) :=
  canonical_supervise (canonical_countEsc h ..) ..

theorem canonical_tillerFault (tid) : MemoryCanonical (tillerFault tid s) := by
  unfold tillerFault; split
  · split
    · exact canonical_supervise (canonical_endTiller (canonical_countEsc h _) _) _
    · exact canonical_endTiller (canonical_countEsc h _) _
  · exact canonical_endTiller (canonical_countEsc h _) _

theorem canonical_retireMember (tid) : MemoryCanonical (retireMember tid s) :=
  canonical_releaseCtx (canonical_leaveTeam h ..) ..

theorem canonical_coreServed (tid) : MemoryCanonical (coreServed tid s) := canonical_modTile h _ fun _ ht => ht

theorem canonical_execRetire : CanonicalNext (execRetire s) := by
  grind [execRetire, canonical_modMe, canonical_waitBusy, canonical_endTiller, canonical_escalate, canonical_retireMember,
    canonical_coreServed, canonicalNext_next, canonicalNext_fault]

theorem canonical_execStallWatchdog : CanonicalNext (execStallWatchdog s) := by
  unfold execStallWatchdog; split
  · exact canonical_resetPartition h _
  · dsimp only; split
    · exact canonical_resetPartition (canonical_emit h _) _
    · trivial

/-! ## System registers -/

theorem canonical_tidxNext (tid n) : MemoryCanonical (tidxNext tid n s) := by
  unfold tidxNext; split
  · exact canonical_modTile h _ fun _ ht => ht
  · exact h

theorem canonical_execSrr (d n) : CanonicalNext (execSrr d n s) := by
  unfold execSrr; split
  · trivial
  · split
    · exact canonical_illegalAt h _
    · split
      · split
        · exact h
        · exact canonical_doneCS h _ fun _ hs => canonical_setShared hs ..
      · exact canonical_doneCS h _ fun _ hs => canonical_tidxNext (canonical_modMe hs _) ..

theorem canonical_execTwordRead : CanonicalNext (execTwordRead s) := canonical_execSrr (by exact h) ..

theorem canonical_execSrw (n a) : CanonicalNext (execSrw n a s) := by
  unfold execSrw; split
  · trivial
  · split
    · exact canonical_illegalAt h _
    · split
      · exact canonical_doneC h ..
      · split
        · exact canonical_doneCS h _ fun _ hs => canonical_modTile hs _ fun _ ht => wf_writeDebug ht ..
        · exact canonical_doneC h ..

/-! ## Faults, freezing and tillers -/

theorem canonical_finishM (tid) : MemoryCanonical (finishM tid s) := by
  unfold finishM; dsimp only; split
  · exact canonical_endTest (by exact h)
  · split
    · split
      · exact canonical_emitRow (by exact h) ..
      · exact h
    · exact h

theorem canonical_restScatter (tid) : MemoryCanonical (restScatter tid s) := by
  unfold restScatter; split
  · exact canonical_endScatter (canonical_modThr (by exact h) ..)
  · exact h

theorem canonical_closeFreeze (tid z) : MemoryCanonical (closeFreeze tid z s) := by
  unfold closeFreeze; split <;> (dsimp only; split <;> exact canonical_traceEv (canonical_modThr
        (canonical_modThr (canonical_restScatter h _) ..) ..) ..)

theorem canonical_execFreeze : CanonicalNext (execFreeze s) := by
  unfold execFreeze; dsimp only; split
  · trivial
  · split
    · trivial
    · split
      · trivial
      · split
        · exact canonical_closeFreeze (canonical_finishM h _) ..
        · split
          · exact canonical_tillerFault (canonical_closeFreeze (canonical_finishM h _) ..) _
          · exact canonical_needTiller (canonical_closeFreeze (canonical_finishM h _) ..) _

theorem canonical_interrupt (kind tid) : MemoryCanonical (interrupt kind tid s) := by
  unfold interrupt; split
  · exact h
  · split
    · exact h
    · split
      · exact h
      · split
        · exact h
        · split
          · exact h
          · split <;> exact h

theorem canonical_restartTimers (tid) : MemoryCanonical (restartTimers tid s) := h

theorem canonical_tellStop (tid) : MemoryCanonical (tellStop tid s) := by
  unfold tellStop; split <;> exact h

theorem canonical_resume (tid) : MemoryCanonical (resume tid s) := by
  grind [resume, canonical_modThr, canonical_modPart, canonical_raise, canonical_restartTimers, canonical_tellStop]

theorem canonical_debugStop (tid failing) : MemoryCanonical (debugStop tid failing s) := by
  unfold debugStop; split
  · exact canonical_tellStop (canonical_modThr h ..) _
  · exact h

theorem canonical_execEbrk : CanonicalNext (execEbrk s) := by
  unfold execEbrk; refine canonical_doneCS h _ fun s h => ?_
  split
  · exact canonical_debugStop h ..
  · exact h

theorem canonical_execDebugStop : CanonicalNext (execDebugStop s) := by
  unfold execDebugStop; split
  · dsimp only; split
    · split
      · exact canonical_modTeam (canonical_foldl h _ fun _ _ hs => canonical_interrupt hs ..) ..
      · trivial
    · trivial
  · dsimp only; split
    · exact canonical_modThr (canonical_debugStop h ..) ..
    · trivial

theorem canonical_frzWord (d a) {k} (hk : ∀ f s, MemoryCanonical s → CanonicalNext (k f s)) :
    CanonicalNext (frzWord d a k s) := by
  unfold frzWord; repeat' split
  · trivial
  · exact canonical_illegalAt h _
  · exact canonical_waitBusy h
  · exact canonical_doneC h ..
  · exact hk _ s h

theorem canonical_execFrzRd (d a b) : CanonicalNext (execFrzRd d a b s) := by
  unfold execFrzRd; refine canonical_frzWord h _ _ fun _ s h => ?_
  split <;> exact canonical_doneC h ..

theorem canonical_writeAlloc (f n v) : MemoryCanonical (writeAlloc f n v s).2 := by
  grind [writeAlloc, canonical_modThr, canonical_modTile, wf_fillRange, canonical_foldl]

theorem canonical_writePos (f st v) : MemoryCanonical (writePos f st v s).2 := by
  unfold writePos; split
  · exact h
  · dsimp only; split
    · exact h
    · split
      · exact h
      · split <;> exact h

theorem canonical_writeItem (f sel v) : MemoryCanonical (writeItem f sel v s).2 := by
  fun_cases writeItem f sel v s <;> grind [canonical_modThr, canonical_writeAlloc, canonical_writePos]

theorem canonical_frozenWrite (f sel v) : MemoryCanonical (frozenWrite f sel v s).2 := by
  unfold frozenWrite; split
  · exact h
  · split
    · exact h
    · exact canonical_writeItem h ..

theorem canonical_execFrzWr (d a b) : CanonicalNext (execFrzWr d a b s) :=
  canonical_frzWord h _ _ fun _ _ hs => canonical_doneCS hs _ fun _ hs =>
    canonical_modMe (canonical_frozenWrite hs ..) _

theorem canonical_execFrzRes (d a) : CanonicalNext (execFrzRes d a s) := by
  unfold execFrzRes; refine canonical_frzWord h _ _ fun _ s h => ?_
  split
  · exact h
  · exact canonical_doneCS h _ fun _ hs => canonical_resume (canonical_revoke (canonical_modMe hs _) _) _

theorem canonical_execFrzKill (d a) : CanonicalNext (execFrzKill d a s) :=
  canonical_frzWord h _ _ fun _ _ hs => canonical_doneCS hs _ fun _ hs =>
    canonical_killThread (canonical_revoke (canonical_modMe hs _) _) _

theorem canonical_execFrzArr (d a b) : CanonicalNext (execFrzArr d a b s) := by
  unfold execFrzArr; refine canonical_frzWord h _ _ fun _ s h => ?_
  split
  · dsimp only; split
    · exact canonical_doneC h ..
    · split
      · exact canonical_doneC h ..
      · exact h
  · dsimp only; split
    · exact canonical_doneC h ..
    · split
      · exact canonical_doneC h ..
      · exact canonical_doneCS h _ fun _ hs => canonical_arriveBar (canonical_modMe hs _) ..

theorem canonical_execFrzEsc (d a) : CanonicalNext (execFrzEsc d a s) :=
  canonical_frzWord h _ _ fun _ _ hs => canonical_doneCS hs _ fun _ hs =>
    canonical_escalate (canonical_revoke (canonical_modMe hs _) _) _

/-! ## Collective operations -/

theorem canonical_findLines (u c size va wr k) : MemoryCanonical (findLines u c size va wr k s).2 := by
  fun_induction findLines u c size va wr k s <;> grind [canonical_hubGo]

theorem canonical_writeLines (u c va hs ls) : MemoryCanonical (writeLines u c va hs ls s) :=
  canonical_foldl h _ fun _ _ hs => canonical_hubWrite hs ..

theorem canonical_modColl (p f g) : MemoryCanonical (modColl p f g s) := h

theorem canonical_readTable (c va size n) : MemoryCanonical (readTable c va size n s).2 :=
  canonical_findLines h ..

theorem canonical_loadColl (tk f l) : CanonicalNext (loadColl tk f l s) := by
  fun_cases loadColl tk f l s <;> grind [canonical_modPart, canonical_faultAt, canonical_issueEng, canonical_afterFault,
    canonical_waitAsked, canonical_readTable]

theorem canonical_execCollLoad (a b _cls tk) : CanonicalNext (execCollLoad a b _cls tk s) := by
  grind [execCollLoad, canonical_modPart, canonical_waitFlag, canonical_faultAt, canonical_issueEng, canonical_loadColl,
    canonicalNext_fault]

theorem canonical_notify (c m) : MemoryCanonical (notify c m s) :=
  canonical_foldl h _ fun _ _ hs => canonical_emit hs _

theorem canonical_abortRun (p f c) : MemoryCanonical (abortRun p f c s) :=
  canonical_notify (canonical_modColl h ..) ..

theorem canonical_sendLimits (f c) : MemoryCanonical (sendLimits f c s) :=
  canonical_foldl h _ fun _ _ hs => canonical_emit hs _

theorem canonical_execCollRun (a b cls tk) : CanonicalNext (execCollRun a b cls tk s) := by
  unfold execCollRun; dsimp only; split
  · exact canonical_engWord h _ _ _ _ fun _ _ hs => canonical_sendLimits (canonical_modColl hs ..) ..
  · exact canonical_engWord h _ _ _ _ fun _ _ hs => canonical_modColl hs ..

theorem canonical_execCollWait (a b _cls tk) : CanonicalNext (execCollWait a b _cls tk s) := by
  unfold execCollWait; split
  · trivial
  · split
    · exact h
    · split
      · exact canonical_faultAt h _
      · dsimp only; split
        · exact h
        · split
          · exact canonical_faultAt h _
          · exact canonical_issueEng h _ _ _ fun _ _ hs => canonical_modTile hs _ fun _ ht =>
                wf_storeBytes ht ..

theorem canonical_execCollAbort (b tk) : CanonicalNext (execCollAbort b tk s) := by
  unfold execCollAbort; dsimp only; split
  · exact canonical_engWord h _ _ _ _ fun _ _ hs => canonical_abortRun hs ..
  · exact canonical_engWord h _ _ _ _ fun _ _ hs => hs

theorem canonical_faultRun (p f r) : MemoryCanonical (faultRun p f r s) := by
  unfold faultRun; dsimp only; split
  · exact h
  · split
    · split
      · exact h
      · split
        · exact h
        · exact canonical_raise h ..
    · split <;> exact h

theorem canonical_spanMismatch (p f c) : MemoryCanonical (spanMismatch p f c s) :=
  canonical_faultRun (canonical_abortRun h ..) ..

theorem canonical_accessRun (p f cause va c) : MemoryCanonical (accessRun p f cause va c s) :=
  canonical_faultRun (canonical_abortRun h ..) ..

theorem canonical_takeChunk (p f ch b x) : MemoryCanonical (takeChunk p f ch b x s) := by
  grind [takeChunk, canonical_modColl, canonical_spanMismatch, memoryCanonical_iff]

theorem canonical_execChunk : CanonicalNext (execChunk s) := by
  unfold execChunk; split
  · dsimp only; split
    · exact canonical_takeChunk h ..
    · exact h

theorem canonical_takeLimit (p f ch gen lim) : MemoryCanonical (takeLimit p f ch gen lim s) := by
  unfold takeLimit; split
  · exact h
  · dsimp only; split <;> exact h

theorem canonical_execRingLimit : CanonicalNext (execRingLimit s) := by
  unfold execRingLimit; split
  · exact canonical_takeLimit h ..
  · exact h

theorem canonical_execOpStart : CanonicalNext (execOpStart s) := by
  unfold execOpStart; split
  · split
    · trivial
    · dsimp only; split
      · exact h
      · trivial

theorem canonical_findOperand (u c x wr) : MemoryCanonical (findOperand u c x wr s).2 := by
  unfold findOperand; split
  · exact canonical_findLines h ..
  · exact h

theorem canonical_freeSlot (p f i c ch) : MemoryCanonical (freeSlot p f i c s ch) := h

theorem canonical_tellDone (p f) : MemoryCanonical (tellDone p f s) := by
  unfold tellDone; dsimp only; split
  · exact canonical_modColl (canonical_notify h ..) ..
  · exact h

theorem canonical_completeOp (p f i c v) : MemoryCanonical (completeOp p f i c v s) := by
  unfold completeOp; dsimp only; split
  · exact canonical_tellDone (canonical_modColl (canonical_foldl (canonical_emit h _) _ fun _ _ hs =>
        canonical_freeSlot hs ..) ..) ..
  · exact canonical_tellDone (canonical_modColl (canonical_foldl h _ fun _ _ hs =>
        canonical_freeSlot hs ..) ..) ..

theorem canonical_findMasters (u c o wr) : MemoryCanonical (findMasters u c o wr s).2 := by
  unfold findMasters; split
  · exact canonical_findLines h ..
  · exact h

theorem canonical_findOp (u c o) : MemoryCanonical (findOp u c o s).2 := by
  unfold findOp
  refine List.foldlRecOn
    (motive := fun acc : Option (Except (Nat × Nat) (List (List Home))) × State => MemoryCanonical acc.2) _ _ h fun acc hacc g hg => ?_
  have hkeep (s : State) (h : MemoryCanonical s) : MemoryCanonical (g s).2 := by
    simp only [List.mem_cons, List.not_mem_nil, or_false] at hg
    obtain rfl | rfl | rfl | rfl | rfl := hg
    · exact canonical_findOperand h ..
    · split
      · exact h
      · exact canonical_findOperand h ..
    · exact canonical_findMasters h ..
    · exact canonical_findOperand h ..
    · exact canonical_findMasters h ..
  grind

theorem canonical_endOp (u p f i c v) : MemoryCanonical (endOp u p f i c v s) := by
  unfold endOp; split
  · exact h
  · exact canonical_completeOp h ..

theorem canonical_execOpCompletion : CanonicalNext (execOpCompletion s) := by
  grind [execOpCompletion, canonical_countReads, canonical_noteRefused, canonical_onlyAsked, canonical_afterFault,
    canonical_waiting, canonical_writeLines, canonical_spanMismatch, canonical_accessRun, canonical_completeOp,
    canonical_findOp, canonical_endOp, canonicalNext_next, canonicalNext_fault]

theorem canonical_execDone : CanonicalNext (execDone s) := by
  unfold execDone; split
  · split
    · exact h
    · split
      · exact h
      · dsimp only; split <;> exact h

theorem canonical_execAbortNotice : CanonicalNext (execAbortNotice s) := by
  unfold execAbortNotice; split
  · split
    · exact h
    · split
      · exact h
      · dsimp only; split
        · exact h
        · split <;> exact h

theorem canonical_execAbsent : CanonicalNext (execAbsent s) := by
  unfold execAbsent; split
  · exact h
  · split <;> exact h

theorem canonical_execPresent : CanonicalNext (execPresent s) := by
  unfold execPresent; split
  · exact h
  · split <;> exact h

theorem canonical_execCollectiveTimeout : CanonicalNext (execCollectiveTimeout s) := by
  unfold execCollectiveTimeout; split
  · split
    · trivial
    · split
      · exact canonical_faultRun (canonical_modColl h ..) ..
      · trivial

theorem canonical_markAbsent (p tid away) : MemoryCanonical (markAbsent p tid away s) :=
  canonical_foldl h _ fun _ _ hs => canonical_notify (canonical_modColl hs ..) ..

/-! ## Saving and restoring -/

theorem canonical_askPreempt (t) : MemoryCanonical (askPreempt t s) := by
  unfold askPreempt; split
  · exact h
  · exact canonical_foldl (canonical_modTeam h ..) _ fun _ _ hs => canonical_interrupt hs ..

theorem canonical_execPreempt : CanonicalNext (execPreempt s) := by
  unfold execPreempt; split
  · dsimp only; split
    · split
      · exact canonical_askPreempt h _
      · exact h
    · exact h
  · split
    · dsimp only; split
      · exact h
      · exact canonical_askPreempt (canonical_foldl h _ fun _ _ hs => canonical_notify hs ..) _
    · dsimp only; split
      · exact h
      · exact canonical_askPreempt (canonical_foldl h _ fun _ _ hs => canonical_notify hs ..) _

theorem canonical_areaPages (d vf pasid wr k k1) : MemoryCanonical (areaPages d vf pasid wr k k1 s).2 := by
  fun_induction areaPages d vf pasid wr k k1 s <;> grind [canonical_agentXlat]

theorem canonical_areaWrite (p hs bs) : MemoryCanonical (areaWrite p hs bs s) :=
  canonical_foldl h _ fun _ _ hs => canonical_homeWrite hs ..

theorem canonical_goOn (tid) : MemoryCanonical (goOn tid s) := by
  unfold goOn; split
  · split
    · exact h
    · exact canonical_resume h _
  · exact h

theorem canonical_refuseSave (t reason va) : MemoryCanonical (refuseSave t reason va s) :=
  canonical_foldl (canonical_modTeam (canonical_flqPut h ..) ..) _ fun _ _ hs => canonical_goOn hs _

theorem canonical_putAway (t tid) : MemoryCanonical (putAway t tid s) := by
  grind [putAway, canonical_modTile, canonical_modPart, canonical_leaveEngines, canonical_markAbsent, memoryCanonical_iff]

theorem canonical_saveTeam (t hs) : MemoryCanonical (saveTeam t hs s) := by
  grind [saveTeam, canonical_modPart, canonical_modTeam, canonical_flqPut, canonical_enterPool, canonical_areaWrite,
    canonical_putAway, memoryCanonical_iff, canonical_foldl]

theorem canonical_execContextSave : CanonicalNext (execContextSave s) := by
  fun_cases execContextSave s <;> grind [canonical_onlyAsked, canonical_waiting, canonical_resetPartition,
    canonical_refuseSave, canonical_saveTeam, canonicalNext_next, canonicalNext_fault]

theorem canonical_moveHandles (p t x tl) : MemoryCanonical (moveHandles p t x tl s) := h

theorem canonical_bringBack (p t x mem mons tl c) : MemoryCanonical (bringBack p t x mem mons tl c s) := by
  grind [bringBack, canonical_moveHandles, canonical_modTile, wf_fillRange, wf_foldl_writeByte, wf_foldl_tile,
    memoryCanonical_iff, wf_host, wf_hbm, canonicalTiles_tiles]

theorem canonical_restoreTeam (p sv) : MemoryCanonical (restoreTeam p sv s) :=
  canonical_flqPut (canonical_foldl (canonical_modTeam (canonical_foldl (canonical_modPart h ..) _
    fun _ _ hs => canonical_bringBack hs ..) ..) _ fun _ _ hs =>
    canonical_resume (canonical_markAbsent hs ..) _) ..

theorem canonical_execRestore : CanonicalNext (execRestore s) := by
  grind [execRestore, canonical_onlyAsked, canonical_waiting, canonical_resetPartition, canonical_restoreTeam,
    canonicalNext_next, canonicalNext_fault]

theorem canonical_execSavepush : CanonicalNext (execSavepush s) := h

/-! ## Launches -/

theorem canonical_modQueue (vf q f) : MemoryCanonical (modQueue vf q f s) := h

theorem canonical_writeCompletion (vf q cpl seq status) : MemoryCanonical (writeCompletion vf q cpl seq status s).2 := by
  grind [writeCompletion, canonical_flqPut, canonical_hubGo, canonical_hubWrite, canonical_modQueue]

theorem canonical_writeCompletion_some (vf q cpl seq status) {r x}
    (hr : writeCompletion vf q cpl seq status s = (some r, x)) : MemoryCanonical r := by
  grind [writeCompletion, canonical_flqPut, canonical_hubGo, canonical_hubWrite, canonical_modQueue]

/-- A run of a unit of the hub leaves the memories canonical. -/
def KeepsCanonical {α : Type} (r : HubRun α) : Prop := ∀ s, MemoryCanonical s → MemoryCanonical (r s).2

omit h in
theorem keepsCanonical_hubPure {α : Type} (x : α) : KeepsCanonical (hubPure x) := fun _ h => h

omit h in
theorem keepsCanonical_hubThen {α β : Type} {r : HubRun α} {k : α → HubRun β} (hr : KeepsCanonical r)
    (hk : ∀ x, KeepsCanonical (k x)) : KeepsCanonical (hubThen r k) := by
  intro s h
  have h1 := hr s h
  unfold hubThen; split
  next e => rwa [e] at h1
  next e => rwa [e] at h1
  next x s1 e => rw [e] at h1; exact hk x s1 h1

omit h in
theorem keepsCanonical_hubEach {α β : Type} {f : α → HubRun β} (hf : ∀ x, KeepsCanonical (f x)) (l : List α) :
    KeepsCanonical (hubEach f l) := by
  induction l with
  | nil => exact keepsCanonical_hubPure _
  | cons x rest ih =>
    exact keepsCanonical_hubThen (hf x) fun y => keepsCanonical_hubThen ih fun ys => keepsCanonical_hubPure _

omit h in
theorem keepsCanonical_hubPages (p vf pasid fuel va n) : KeepsCanonical (hubPages p vf pasid fuel va n) := by
  induction fuel generalizing va n with
  | zero => exact keepsCanonical_hubPure _
  | succ fuel ih =>
    unfold hubPages; split
    · exact keepsCanonical_hubPure _
    · intro s h
      have h1 := canonical_hubGo h .other p vf pasid va (min n (4096 - va % 4096)) false
      dsimp only; split
      next e => rwa [e] at h1
      next e => rwa [e] at h1
      next x s1 e =>
        rw [e] at h1
        exact keepsCanonical_hubThen (ih _ _) (fun _ => keepsCanonical_hubPure _) _ (canonical_countReads h1 ..)

omit h in
theorem keepsCanonical_hubBytes (p vf pasid va n) : KeepsCanonical (hubBytes p vf pasid va n) :=
  keepsCanonical_hubThen (keepsCanonical_hubPages _ _ _ _ _ _) fun _ _ h => h

omit h in
theorem keepsCanonical_entryBytes (vf q idx) : KeepsCanonical (entryBytes vf q idx) := by
  intro s h
  unfold entryBytes; dsimp only; split
  · exact h
  · exact h
  · exact keepsCanonical_hubBytes _ _ _ _ _ s h

omit h in
theorem keepsCanonical_holdsBack (vf q idx) : KeepsCanonical (holdsBack vf q idx) := by
  intro s h
  unfold holdsBack; dsimp only; split
  · exact h
  · exact keepsCanonical_hubThen (keepsCanonical_entryBytes _ _ _) (fun _ => keepsCanonical_hubPure _) s h

omit h in
theorem keepsCanonical_readRecord (p vf pasid a known) : KeepsCanonical (readRecord p vf pasid a known) := by
  have get (off n : Nat) : KeepsCanonical (match known with
      | some b => if off + n ≤ b.length then hubPure ((b.drop off).take n) else hubBytes p vf pasid (a + off) n
      | none => hubBytes p vf pasid (a + off) n) := by
    cases known with
    | none => exact keepsCanonical_hubBytes _ _ _ _ _
    | some b =>
      dsimp only; split
      · exact keepsCanonical_hubPure _
      · exact keepsCanonical_hubBytes _ _ _ _ _
  refine keepsCanonical_hubThen (get 0 64) fun hd s h => ?_
  dsimp only; split
  · exact h
  · refine keepsCanonical_hubThen (get 64 _) (fun nb => ?_) s h
    split
    · exact keepsCanonical_hubPure _
    · exact keepsCanonical_hubThen
        (keepsCanonical_hubEach (fun _ => keepsCanonical_hubThen (keepsCanonical_hubBytes _ _ _ _ _) fun _ => keepsCanonical_hubPure _) _)
        fun _ => keepsCanonical_hubPure _

theorem canonical_hubBytes (p vf pasid va n) : MemoryCanonical (hubBytes p vf pasid va n s).2 :=
  keepsCanonical_hubBytes _ _ _ _ _ s h

theorem canonical_entryBytes (vf q idx) : MemoryCanonical (entryBytes vf q idx s).2 := keepsCanonical_entryBytes _ _ _ s h

theorem canonical_readRecord (p vf pasid a known) : MemoryCanonical (readRecord p vf pasid a known s).2 :=
  keepsCanonical_readRecord _ _ _ _ _ s h

omit h in
/-- What LAUNCH and WAIT read first: whether entries hold this one back, and its bytes. -/
theorem keepsCanonical_heldEntry (vf q : Nat) (l : List Nat) (idx : Nat) :
    KeepsCanonical (hubThen (hubEach (holdsBack vf q) l) fun hs =>
      hubThen (entryBytes vf q idx) fun e => hubPure (hs.any id, e)) :=
  keepsCanonical_hubThen (keepsCanonical_hubEach (fun _ => keepsCanonical_holdsBack _ _ _) l) fun _ =>
    keepsCanonical_hubThen (keepsCanonical_entryBytes _ _ _) fun _ => keepsCanonical_hubPure _

theorem canonical_entryWaits (name vf q idx e st s1) : CanonicalNext (entryWaits name vf q idx e st s s1) := by
  unfold entryWaits
  grind [canonical_onlyAsked, canonical_waiting, canonical_modQueue, canonicalNext_next]

theorem canonical_completing (name vf q idx e status f) : CanonicalNext (completing name vf q idx e status f s) := by
  unfold completing; split
  · exact canonical_entryWaits h ..
  next hr => exact canonical_modQueue (canonical_writeCompletion_some h _ _ _ _ _ hr) ..

theorem canonical_execQtail : CanonicalNext (execQtail s) := by
  unfold execQtail; exact canonical_fromHost h _ fun _ hs => canonical_modQueue hs ..

theorem canonical_execQctl : CanonicalNext (execQctl s) := by
  unfold execQctl; exact canonical_fromHost h _ fun _ hs => canonical_modQueue hs ..

theorem canonical_loadHandle (p inst b) {r} (hr : loadHandle p inst b s = some r) : MemoryCanonical r := by
  grind [loadHandle, canonical_modPart]

theorem canonical_loadFlow (p inst b) {r} (hr : loadFlow p inst b s = some r) : MemoryCanonical r := by
  grind [loadFlow, canonical_installFlow]

theorem canonical_loadAll {f} (hf : ∀ b s r, MemoryCanonical s → f b s = some r → MemoryCanonical r) (l) {r}
    (hr : loadAll f l s = some r) : MemoryCanonical r := by
  induction l generalizing s with
  | nil => cases hr; exact h
  | cons b rest ih =>
    obtain ⟨s1, h1, h2⟩ := Option.bind_eq_some_iff.mp hr
    exact ih (hf b s s1 h h1) h2

theorem canonical_install (p inst hs fs) {r} (hr : install p inst hs fs s = some r) : MemoryCanonical r := by
  unfold install at hr
  dsimp only at hr
  split at hr
  · cases hr
  · obtain ⟨s1, h1, h2⟩ := Option.bind_eq_some_iff.mp hr
    have hs1 := canonical_loadAll h (fun _ _ _ hs e => canonical_loadHandle hs _ _ _ e) hs h1
    exact canonical_loadAll hs1 (fun _ _ _ hs e => canonical_loadFlow hs _ _ _ e) fs h2

theorem canonical_uninstall (p inst) : MemoryCanonical (uninstall p inst s) :=
  canonical_removeFlows (canonical_foldl h _ fun _ _ hs => canonical_modPart hs ..) ..

theorem canonical_releaseNodes (l) : MemoryCanonical (releaseNodes l s) :=
  canonical_foldl h _ fun _ _ hs => canonical_readyNode hs ..

theorem canonical_tryBarrier (l) : MemoryCanonical (tryBarrier l s) := by
  unfold tryBarrier; split
  · split
    · exact h
    · exact canonical_releaseNodes (canonical_modLaunch h ..) _
  · exact h

theorem canonical_failBarrier (l) : MemoryCanonical (failBarrier l s) :=
  canonical_failLaunch (canonical_modLaunch h ..) ..

theorem canonical_toMembers (g m) : MemoryCanonical (toMembers g m s) :=
  canonical_foldl h _ fun _ _ hs => canonical_emit hs _

theorem canonical_beginBarrier (l g) : MemoryCanonical (beginBarrier l g s) := by
  unfold beginBarrier; dsimp only; split
  · exact canonical_failBarrier (canonical_modLaunch (canonical_modPart (canonical_toMembers h ..) ..) ..) _
  · exact canonical_tryBarrier (canonical_modLaunch (canonical_modPart (canonical_toMembers h ..) ..) ..) _

theorem canonical_failEntry (vf q idx status e) : CanonicalNext (failEntry vf q idx status e s) :=
  canonical_completing h ..

theorem canonical_startLaunch (x) : MemoryCanonical (startLaunch x s) := by
  unfold startLaunch; split
  · exact canonical_beginBarrier (canonical_modQueue (by exact h) ..) ..
  · exact canonical_releaseNodes (canonical_modQueue (by exact h) ..) _

theorem canonical_replicate (e l x nb) : MemoryCanonical (replicate e l x nb s) := by
  grind [replicate, canonical_emit, canonical_foldl]

theorem canonical_launchFrom (vf q idx e hd ns) : CanonicalNext (launchFrom vf q idx e hd ns s) := by
  unfold launchFrom
  extract_lets p pasid m sent get go
  have hget : KeepsCanonical get :=
    keepsCanonical_hubThen (keepsCanonical_hubBytes _ _ _ _ _) fun _ =>
    keepsCanonical_hubThen (keepsCanonical_hubBytes _ _ _ _ _) fun _ =>
    keepsCanonical_hubThen (keepsCanonical_hubBytes _ _ _ _ _) fun _ => keepsCanonical_hubPure _
  have hgo (g : Option Group) (s : State) (h : MemoryCanonical s) : CanonicalNext (go g s) := by
    have h1 := hget s h
    dsimp only [go]; split
    · exact canonical_entryWaits h ..
    next hr => rw [hr] at h1; exact canonical_failEntry h1 ..
    next hr =>
      rw [hr] at h1; split
      · exact canonical_failEntry h1 ..
      next s2 h2 =>
        have h2 := canonical_install h1 _ _ _ _ h2
        refine canonical_startLaunch (s := ite _ _ _) ?_ _
        split
        · exact canonical_replicate h2 ..
        · exact h2
  have hb := canonical_hubBytes h p vf pasid (field hd 8 8) (16 + 8 * m)
  split
  · exact hgo none s h
  · split
    · exact canonical_entryWaits h ..
    next hr => rw [hr] at hb; exact canonical_failEntry hb ..
    next hr =>
      rw [hr] at hb; split
      · exact canonical_failEntry hb ..
      · exact hgo _ _ hb

theorem canonical_execLaunch : CanonicalNext (execLaunch s) := by
  unfold execLaunch
  have hg := keepsCanonical_heldEntry s.arg.a s.arg.b (lookedAt (queueOf s s.arg.a s.arg.b) s.arg.c) s.arg.c s h
  dsimp only; split
  · trivial
  · split
    · exact canonical_waiting (canonical_onlyAsked h _) ..
    · trivial
    next hr =>
      rw [hr] at hg
      grind [canonical_readRecord, canonical_entryWaits, canonical_failEntry, canonical_launchFrom, canonicalNext_fault]

theorem canonical_execQueueFence : CanonicalNext (execQueueFence s) := by
  grind [execQueueFence, canonical_onlyAsked, canonical_waiting, canonical_entryBytes, canonical_completing, canonicalNext_fault]

theorem canonical_execWait : CanonicalNext (execWait s) := by
  unfold execWait
  have hg := keepsCanonical_heldEntry s.arg.a s.arg.b (lookedAt (queueOf s s.arg.a s.arg.b) s.arg.c) s.arg.c s h
  dsimp only; split
  · trivial
  · split
    · exact canonical_waiting (canonical_onlyAsked h _) ..
    · trivial
    next hr =>
      rw [hr] at hg
      grind [canonical_hubBytes, canonical_completing, canonical_entryWaits, canonical_modQueue, canonical_onlyAsked,
        canonicalNext_next, canonicalNext_fault]

theorem canonical_bumpTable (x) : MemoryCanonical (bumpTable x s).2 := by
  grind [bumpTable, canonical_hubGo, canonical_hubWrite]

theorem canonical_bumpTable_some (x) {r y} (hr : bumpTable x s = (some r, y)) : MemoryCanonical r := by
  grind [bumpTable, canonical_hubGo, canonical_hubWrite]

theorem canonical_closeLaunch (l) : MemoryCanonical (closeLaunch l s) := by
  grind [closeLaunch, canonical_modPart, canonical_modQueue, canonical_uninstall, memoryCanonical_iff]

theorem canonical_execLaunchCompletion : CanonicalNext (execLaunchCompletion s) := by
  fun_cases execLaunchCompletion s <;> grind [canonical_onlyAsked, canonical_waiting, canonical_writeCompletion,
    canonical_writeCompletion_some, canonical_bumpTable_some, canonical_closeLaunch, canonicalNext_next,
    canonicalNext_fault]

theorem canonical_execArrive : CanonicalNext (execArrive s) := by
  unfold execArrive; split
  · split
    · exact h
    · exact canonical_tryBarrier (canonical_modLaunch h ..) _

theorem canonical_execLaunchTimeout : CanonicalNext (execLaunchTimeout s) := by
  unfold execLaunchTimeout; dsimp only; split
  · split
    · exact canonical_failBarrier (canonical_toMembers h ..) _
    · trivial
  · trivial

theorem canonical_execFail : CanonicalNext (execFail s) := by
  unfold execFail; split
  · split
    · exact h
    · split
      · split
        · exact h
        · exact canonical_failBarrier h _
      · exact h

theorem canonical_execReplicate : CanonicalNext (execReplicate s) := by
  unfold execReplicate; split; dsimp only; split <;> exact h

theorem canonical_execKeepAlive : CanonicalNext (execKeepAlive s) := by
  unfold execKeepAlive; split <;> exact h

theorem canonical_keepSending (p i) : CanonicalNext (keepSending p i s) := by
  unfold keepSending; split
  · split
    · exact canonical_modPart (canonical_toMembers h ..) ..
    · trivial
  · trivial

theorem canonical_execKeepAliveInterval : CanonicalNext (execKeepAliveInterval s) := by
  unfold execKeepAliveInterval; split
  · exact canonical_keepSending h ..
  · dsimp only; split
    · split
      · exact canonical_modLaunch (canonical_toMembers h ..) ..
      · trivial
    · trivial

theorem canonical_execMemberLost : CanonicalNext (execMemberLost s) := by
  unfold execMemberLost; split
  · dsimp only; split
    · exact h
    · split
      · trivial
      · split
        · exact canonical_resetPartition h _
        · exact h
  · dsimp only; split
    · trivial
    · split
      · exact canonical_resetPartition h _
      · trivial

theorem canonical_postNode (b bs) : MemoryCanonical (postNode b bs s).2 := by
  unfold postNode; dsimp only; split
  · exact h
  · split
    · exact h
    · split
      · exact canonical_readyNode (canonical_modLaunch h ..) ..
      · exact h

theorem canonical_execNodePost (d a b) : CanonicalNext (execNodePost d a b s) := by
  unfold execNodePost; refine canonical_appOnly h fun s h => ?_
  dsimp only; split
  · exact h
  · refine canonical_recordWord h _ _ _ fun _ s h => ?_
    exact canonical_postNode h ..

theorem canonical_signalNode (i) : MemoryCanonical (signalNode i s).2 := by
  unfold signalNode; dsimp only; split
  · exact h
  · split
    · exact h
    · split
      · exact canonical_readyNode (canonical_modLaunch h ..) ..
      · exact h

theorem canonical_execNodeDone (d a) : CanonicalNext (execNodeDone d a s) := by
  unfold execNodeDone; refine canonical_appOnly h fun s h => ?_
  dsimp only; split
  · exact h
  · exact canonical_doneCS h _ fun _ hs => canonical_modMe (canonical_signalNode hs _) _

theorem canonical_abandonEntries (l) : MemoryCanonical (abandonEntries l s).2 := by
  fun_induction abandonEntries l s <;> grind [canonical_entryBytes, canonical_writeCompletion, canonical_writeCompletion_some]

theorem canonical_abandonEntries_some (l) {r x} (hr : abandonEntries l s = (some r, x)) : MemoryCanonical r := by
  fun_induction abandonEntries l s <;> grind [canonical_entryBytes, canonical_writeCompletion, canonical_writeCompletion_some]

theorem canonical_reinstall (p) : MemoryCanonical (reinstall p s) :=
  canonical_foldl h _ fun _ _ hs => canonical_foldl (canonical_modPart hs ..) _ fun _ _ hs =>
    canonical_installFlow hs ..

theorem canonical_countScales (p) : MemoryCanonical (countScales p s) := h

theorem canonical_execDrainEnd : CanonicalNext (execDrainEnd s) := by
  grind [execDrainEnd, canonical_modPart, canonical_onlyAsked, canonical_waiting, canonical_modQueue,
    canonical_abandonEntries_some, canonical_reinstall, canonical_countScales, canonicalNext_next, canonicalNext_fault,
    canonical_foldl]

/-! ## The fabric -/

theorem canonical_modHub (f) : MemoryCanonical (modHub f s) := h

theorem canonical_modPort (n f) : MemoryCanonical (modPort n f s) := h

theorem canonical_portDown (n) : MemoryCanonical (portDown n s) := h

theorem canonical_setRoutes (l) : MemoryCanonical (setRoutes l s) := h

theorem canonical_execTrainingComplete : CanonicalNext (execTrainingComplete s) := by
  unfold execTrainingComplete; dsimp only; split
  · exact canonical_sendHeld (canonical_setRoutes (canonical_modPort h ..) _)
  · trivial

theorem canonical_execNewKeyPair : CanonicalNext (execNewKeyPair s) := by
  grind [execNewKeyPair, canonical_sendHeld, canonical_modPort, canonicalNext_next, canonicalNext_fault,
    memoryCanonical_iff]

theorem canonical_peerRequest (b) : MemoryCanonical (peerRequest b s) := by
  grind [peerRequest, canonical_emit, canonical_countReads, canonical_homeWrite]

theorem canonical_unboundBeat (b) : MemoryCanonical (unboundBeat b s) := by
  unfold unboundBeat; split
  · exact h
  · split <;> exact h

theorem canonical_peerDelivery (b p) : MemoryCanonical (peerDelivery b p s) := by
  grind [peerDelivery, canonical_emit, canonical_homeWrite]

theorem canonical_packetHead (n b) : MemoryCanonical (packetHead n b s) := by
  unfold packetHead; split
  · exact canonical_unboundBeat (canonical_modPort h ..) _
  · exact h

theorem canonical_packetData (n b) : MemoryCanonical (packetData n b s) := by
  unfold packetData; split
  · exact h
  · dsimp only; split
    · exact h
    · exact canonical_peerDelivery (canonical_modPort h ..) ..

theorem canonical_chunkArrives (n b) : MemoryCanonical (chunkArrives n b s) := by
  unfold chunkArrives; split
  · exact h
  · split
    · split
      · split
        · exact canonical_takeChunk (canonical_modPort h ..) ..
        · exact h
      · exact h
    · split
      · split
        · exact canonical_takeChunk h ..
        · exact h
      · exact h

theorem canonical_limitArrives (b) : MemoryCanonical (limitArrives b s) := by
  unfold limitArrives; split
  · exact canonical_takeLimit h ..
  · exact h

theorem canonical_takeBeat (n b) : MemoryCanonical (takeBeat n b s) := by
  grind [takeBeat, canonical_peerRequest, canonical_unboundBeat, canonical_packetHead, canonical_packetData,
    canonical_chunkArrives, canonical_limitArrives]

theorem canonical_execBeat : CanonicalNext (execBeat s) := by
  unfold execBeat; split
  · dsimp only; split
    · trivial
    · exact canonical_sendHeld (canonical_modPort h ..)
  · dsimp only; split
    · trivial
    · split
      · trivial
      · split
        · exact h
        · split
          · split <;> exact h
          · exact canonical_takeBeat (canonical_modPort h ..) ..

theorem canonical_modTime (f) : MemoryCanonical (modTime f s) := h

theorem canonical_timeMessage (name) {f} (hf : ∀ s, MemoryCanonical s → MemoryCanonical (f s)) :
    CanonicalNext (timeMessage name f s) := by
  unfold timeMessage; split
  · exact hf s h
  · trivial

theorem canonical_execSync : CanonicalNext (execSync s) := by
  unfold execSync; refine canonical_timeMessage h _ fun s h => ?_
  split <;> exact h

theorem canonical_execPtpInterval : CanonicalNext (execPtpInterval s) := by
  fun_cases execPtpInterval s <;> grind [canonical_emit, canonical_modTime, canonicalNext_next, canonicalNext_fault,
    canonical_foldl]

theorem canonical_execPdelayReq : CanonicalNext (execPdelayReq s) :=
  canonical_timeMessage h _ fun _ hs => canonical_emit hs _

theorem canonical_execPdelayResp : CanonicalNext (execPdelayResp s) :=
  canonical_timeMessage h _ fun _ hs => canonical_modTime hs _

/-! ## Partitions -/

theorem canonical_createPartition (p c) : MemoryCanonical (createPartition p c s) := by
  grind [createPartition, wf_zeroSlice, memoryCanonical_iff]

theorem canonical_execPartitionCreate : CanonicalNext (execPartitionCreate s) := by
  unfold execPartitionCreate; dsimp only; split
  · exact canonical_createPartition h ..
  · trivial

theorem canonical_execPartitionDestroy : CanonicalNext (execPartitionDestroy s) := by
  grind [execPartitionDestroy, canonical_resetPartition, wf_sealSlice, canonicalNext_next, canonicalNext_fault,
    memoryCanonical_iff, canonicalTiles_mapVals]

theorem canonical_execSensorReading : CanonicalNext (execSensorReading s) := h

theorem canonical_execTemperatureLimit : CanonicalNext (execTemperatureLimit s) := by
  unfold execTemperatureLimit; dsimp only; split
  · exact canonical_foldl h _ fun _ _ hs => canonical_resetPartition hs _
  · trivial

theorem canonical_checkHealth : MemoryCanonical (checkHealth s) := by
  unfold checkHealth; split
  · exact h
  · split <;> exact h

theorem canonical_noteHealth : MemoryCanonical (noteHealth s) := by
  grind [noteHealth, memoryCanonical_iff]

theorem canonical_unplace (t) : MemoryCanonical (unplace t s) :=
  canonical_foldl (canonical_modDie h ..) _ fun _ _ hs => canonical_foldl hs _ fun _ _ hs =>
    canonical_enterPool (canonical_modPart hs ..) _

theorem canonical_execTileCheck : CanonicalNext (execTileCheck s) := by
  grind [execTileCheck, canonical_modTile, wf_poisonBlock, canonical_modArr, canonical_endTiller, canonical_killThread,
    canonical_checkHealth, wf_memError, canonical_unplace, canonicalNext_next, canonicalNext_fault, memoryCanonical_iff,
    canonical_foldl]

theorem canonical_loadBytes (p pages k k1 l) : MemoryCanonical (loadBytes p pages k k1 l s) := by
  fun_induction loadBytes p pages k k1 l s <;> grind [canonical_homeWrite]

theorem canonical_execImageLoad : CanonicalNext (execImageLoad s) := by
  grind [execImageLoad, canonical_modPart, canonical_emit, canonical_install, canonical_loadBytes, canonicalNext_next,
    canonicalNext_fault, canonical_foldl]

theorem canonical_execImageUnload : CanonicalNext (execImageUnload s) := by
  unfold execImageUnload; split
  · split
    · trivial
    · split
      · trivial
      · exact canonical_uninstall (canonical_modPart h ..) ..

/-! ## Debugging -/

theorem canonical_modRegs (p f) : MemoryCanonical (modRegs p f s) := h

theorem canonical_execDbgatt : CanonicalNext (execDbgatt s) := h

theorem canonical_execDbgstop : CanonicalNext (execDbgstop s) := by
  unfold execDbgstop; split
  · exact h
  · exact canonical_foldl h _ fun _ _ hs => canonical_interrupt hs ..

theorem canonical_execDbgres : CanonicalNext (execDbgres s) := by
  unfold execDbgres; split
  · exact h
  · exact canonical_foldl h _ fun _ _ hs => canonical_resume hs _

theorem canonical_execDbgdataRead : CanonicalNext (execDbgdataRead s) := by
  unfold execDbgdataRead; split <;> exact h

theorem canonical_execDbgdataWrite : CanonicalNext (execDbgdataWrite s) := by
  unfold execDbgdataWrite; dsimp only; split
  · exact h
  · exact canonical_modRegs (canonical_frozenWrite h ..) ..

/-! ## Security -/

theorem canonical_afterReset : MemoryCanonical (afterReset s) :=
  ⟨h.1, rfl, canonicalTiles_mapVals h.2.2 (f := fun _ t => { arr := { bad := t.arr.bad } }) fun _ _ _ => rfl⟩

theorem canonical_recovery : MemoryCanonical (recovery s) := h

theorem canonical_createPlan (l) {r} (hr : createPlan l s = some r) : MemoryCanonical r := by
  fun_induction createPlan l s <;> grind [canonical_createPartition]

theorem canonical_testTiles : MemoryCanonical (testTiles s) := by
  grind [testTiles, canonical_modTile, memoryCanonical_iff, canonical_foldl]

theorem canonical_openModule (b) : MemoryCanonical (openModule b s) := canonical_checkHealth h ..

theorem canonical_loadPlan (b) : MemoryCanonical (loadPlan b s) := by
  unfold loadPlan; split
  · split
    · exact canonical_recovery h
    · dsimp only; split
      · exact h
      next hr => exact canonical_openModule (canonical_createPlan (by exact h) _ hr) _
  · exact canonical_recovery h

theorem canonical_bringUp (b) : MemoryCanonical (bringUp b s) := by
  unfold bringUp; split
  · exact h
  · dsimp only; split
    · exact h
    · exact canonical_loadPlan (canonical_testTiles (by exact h)) _

theorem canonical_execModuleReset : CanonicalNext (execModuleReset s) := by
  grind [execModuleReset, canonical_afterReset, canonical_recovery, canonical_bringUp, canonicalNext_next,
    memoryCanonical_iff]

theorem canonical_answer (name kind bytes) {f} (hf : ∀ s, MemoryCanonical s → MemoryCanonical (f s)) :
    CanonicalNext (answer name kind bytes f s) := by
  unfold answer; split
  · exact canonical_emit (hf s h) _
  · trivial

theorem canonical_execGetVersion : CanonicalNext (execGetVersion s) := canonical_answer h _ _ _ fun _ hs => hs

theorem canonical_execGetCapabilities : CanonicalNext (execGetCapabilities s) :=
  canonical_answer h _ _ _ fun _ hs => hs

theorem canonical_execNegotiateAlgorithms : CanonicalNext (execNegotiateAlgorithms s) :=
  canonical_answer h _ _ _ fun _ hs => hs

theorem canonical_execGetDigests : CanonicalNext (execGetDigests s) := canonical_answer h _ _ _ fun _ hs => hs

theorem canonical_execGetCertificate : CanonicalNext (execGetCertificate s) :=
  canonical_answer h _ _ _ fun _ hs => hs

theorem canonical_attested : MemoryCanonical (attested s) := by
  unfold attested; split <;> exact h

theorem canonical_execChallenge : CanonicalNext (execChallenge s) :=
  canonical_answer h _ _ _ fun _ hs => canonical_attested hs

theorem canonical_execGetMeasurements : CanonicalNext (execGetMeasurements s) := by
  grind [execGetMeasurements, canonical_answer, canonical_attested, canonicalNext_fault]

theorem canonical_execKeyExchange : CanonicalNext (execKeyExchange s) := by
  grind [execKeyExchange, canonical_modPort, canonical_answer, memoryCanonical_iff]

theorem canonical_execLockInterface : CanonicalNext (execLockInterface s) := by
  unfold execLockInterface; refine canonical_fromHost h _ fun s h => ?_
  split <;> exact h

theorem canonical_keyStream (vf) : MemoryCanonical (keyStream vf s) := h

theorem canonical_execStartInterface : CanonicalNext (execStartInterface s) := by
  unfold execStartInterface; refine canonical_fromHost h _ fun s h => ?_
  split <;> exact h

theorem canonical_execStopInterface : CanonicalNext (execStopInterface s) :=
  canonical_fromHost h _ fun _ hs => canonical_resetPartition (canonical_setTdisp hs ..) _

theorem canonical_configChanged (p) : MemoryCanonical (configChanged p s) := by
  unfold configChanged; dsimp only; split
  · exact h
  · exact canonical_resetPartition (canonical_foldl h _ fun _ _ hs => canonical_setTdisp hs ..) _

/-! ## The host's registers -/

theorem canonical_flqResume (p) : MemoryCanonical (flqResume p s) :=
  canonical_settleBatches (canonical_flqFlush h ..) ..

theorem canonical_partAccess (pg off v) : CanonicalNext (partAccess pg off v s) := by
  unfold partAccess; split
  · trivial
  · split
    · dsimp only; split
      · exact canonical_configChanged (canonical_flqResume (canonical_modRegs h ..) _) _
      · exact canonical_flqResume (canonical_modRegs h ..) _
    · dsimp only; split
      · exact canonical_configChanged (canonical_modRegs h ..) _
      · exact h

theorem canonical_queueAccess (vf off v) : CanonicalNext (queueAccess vf off v s) := by
  unfold queueAccess; split
  · split
    · exact h
    · split
      · trivial
      · split
        · exact h
        · split
          · split
            · exact canonical_configChanged (canonical_modQueue h ..) _
            · exact h
          · split <;> exact h

theorem canonical_execRegisterWrite : CanonicalNext (execRegisterWrite s) := by
  grind [execRegisterWrite, canonical_emit, canonical_fromHost, canonical_partAccess, canonical_queueAccess,
    canonicalNext_next, canonicalNext_fault]

theorem canonical_execFlqhead : CanonicalNext (execFlqhead s) := canonical_flqResume (canonical_modRegs h ..) ..

theorem canonical_execRechead : CanonicalNext (execRechead s) := by
  unfold execRechead; dsimp only; split <;> exact h

/-! ## The meaning of each instruction -/

/-- Every instruction and every event keeps the memories canonical. -/
theorem canonical_exec (i) : CanonicalNext (exec i s) := by
  cases i <;> simp only [exec]
  case add | sub | mul | mulh | mulhu | and | or | xor | andn | shl | shr | sar | min | max | minu | maxu | rol | ror
      | clz | popc | sextw | zextw | sel | addi | andi | ori | xori | shli | shri | sari | muli | lui | addpc
    => exact canonical_alu h ..
  case vaddI32 | vsubI32 | vmulI32 | vminI32 | vmaxI32 | vmulh | vand | vor | vxor | vandn | vshl | vshr | vsar
      | vminu | vmaxu | vadds | vsubs | vmulhu => exact canonical_vI2 h ..
  case vrsum | vrmax | vrmin | vscan | vscmx | vperm | vbcast | vrot | vzip | vunzip | vmov | vgbc
    => exact canonical_vPerm h ..
  case vfmaF32 | vfmaBf16 | vfmaF16 | vfmsF32 | vfmsBf16 | vfmsF16 | vfnmaF32 | vfnmaBf16 | vfnmaF16 | vfnmsF32
      | vfnmsBf16 | vfnmsF16 => exact canonical_vFused h ..
  case vcmpEq | vcmpNe | vcmpLt | vcmpLe | vcmpGt | vcmpGe | vcmpUn | vcmpOr | vcmpLtu | vcmpLeu | vcmpGtu | vcmpGeu
    => exact canonical_vCmp h ..
  case vcvtBf16F32 | vcvtF16F32 | vcvtF32Bf16 | vcvtF32F16 | vcvtI32F32 | vcvtF32I32 | vcvtBf16F16 | vcvtF16Bf16
    => exact canonical_vCvt h ..
  case ldB | ldH | ldW | ldD | lduB | lduH | lduW => exact canonical_loadWord h ..
  case vadd | vsub | vmul | vmin | vmax | vcpsgn | vdiv => exact canonical_vF2 h ..
  case cmpEq | cmpNe | cmpLt | cmpLe | cmpLtu | cmpLeu => exact canonical_cmpWord h ..
  case cmpiEq | cmpiNe | cmpiLt | cmpiLe | cmpiLtu | cmpiLeu => exact canonical_cmpiWord h ..
  case vsacc | vsel | vlim | vunpk4 | vunpk8 | vzps => exact canonical_vWord h ..
  case ldc | ldt | lfill | stc | stt | sfill => exact canonical_copyWord h ..
  case pand | por | pxor | pandn | pnot => exact canonical_predWord h ..
  case vrcp | vrsq | vexp2 | vlog2 | vtanh => exact canonical_vTrans h ..
  case div | divu | rem | remu => exact canonical_divWord h ..
  case tagLook | tagSet | tagClr | tagClrAll => exact canonical_tagWord h ..
  case stB | stH | stW | stD => exact canonical_storeWord h ..
  case vabs | vneg | vrint | vsqrt => exact canonical_vF1 h ..
  case vabsI32 | vnegI32 | vclz | vpopc => exact canonical_vI1 h ..
  case addiCompact | nop | yield => exact canonical_doneC h ..
  case mlnt | mcfg | mzp => exact canonical_mWord h ..
  case br | call => exact canonical_branchWord h ..
  case pbr | pbrr => exact canonical_target h ..
  case fldW | fldD => exact canonical_farLoad h ..
  case fstW | fstD => exact canonical_farStore h ..
  case famoW | famoD => exact canonical_farAtomic h ..
  case vld | vldh => exact canonical_vLoad h ..
  case vst | vsth => exact canonical_vStore h ..
  case lnop | snop => exact canonical_copyNop h ..
  case aflush | aclose => exact canonical_listWord_ h ..
  case retire => exact canonical_execRetire h
  case ebrk => exact canonical_execEbrk h
  case trig => exact canonical_execTrig h ..
  case join => exact canonical_execJoin h ..
  case bar => exact canonical_execBar h ..
  case bara => exact canonical_execBara h ..
  case barw => exact canonical_execBarw h ..
  case give => exact canonical_execGive h ..
  case take => exact canonical_execTake h ..
  case hndDef => exact canonical_execHndDef h ..
  case hndRelay => exact canonical_execHndRelay h ..
  case hndQry => exact canonical_execHndQry h ..
  case hndDrop => exact canonical_execHndDrop h ..
  case pageReq => exact canonical_execPageReq h ..
  case migrate => exact canonical_execMigrate h ..
  case monArm => exact canonical_execMonArm h ..
  case monRef => exact canonical_execMonRef h ..
  case monRd => exact canonical_execMonRd h ..
  case monOff => exact canonical_execMonOff h ..
  case nodePost => exact canonical_execNodePost h ..
  case nodeDone => exact canonical_execNodeDone h ..
  case frzRd => exact canonical_execFrzRd h ..
  case frzWr => exact canonical_execFrzWr h ..
  case frzRes => exact canonical_execFrzRes h ..
  case frzKill => exact canonical_execFrzKill h ..
  case frzArr => exact canonical_execFrzArr h ..
  case frzEsc => exact canonical_execFrzEsc h ..
  case fenceC => exact canonical_execFenceC h ..
  case fenceS => exact canonical_execFenceS h ..
  case enq => exact canonical_execEnq h ..
  case fork => exact canonical_execFork h ..
  case srr => exact canonical_execSrr h ..
  case srw => exact canonical_execSrw h ..
  case trap => exact canonical_execTrap h ..
  case vnop => exact canonical_execVnop h
  case vgath => exact canonical_execVgath h ..
  case vscat => exact canonical_execVscat h ..
  case vrecv => exact canonical_execVrecv h ..
  case vpass => exact canonical_execVpass h ..
  case mnop => exact canonical_execMnop h
  case mgo => exact canonical_execMgo h ..
  case mwait => exact canonical_execMwait h ..
  case mclr => exact canonical_execMclr h ..
  case memit => exact canonical_execMemit h ..
  case mtest => exact canonical_execMtest h ..
  case mrd => exact canonical_execMrd h ..
  case kwait => exact canonical_execKwait h ..
  case anop => exact canonical_execAnop h
  case aopen => exact canonical_execAopen h ..
  case apush => exact canonical_execApush h ..
  case fnop => exact canonical_execFnop h
  case fsend => exact canonical_execFsend h ..
  case frecv => exact canonical_execFrecv h ..
  case fbind => exact canonical_execFbind h ..
  case funbind => exact canonical_execFunbind h ..
  case flowDef => exact canonical_execFlowDef h ..
  case flowDel => exact canonical_execFlowDel h ..
  case flowStat => exact canonical_execFlowStat h ..
  case collLoad => exact canonical_execCollLoad h ..
  case collRun => exact canonical_execCollRun h ..
  case collWait => exact canonical_execCollWait h ..
  case collAbort => exact canonical_execCollAbort h ..
  case blockCall => exact canonical_execBlockCall h
  case resultLanding => exact canonical_execResultLanding h
  case tokenRelease => exact canonical_execTokenRelease h
  case stallWatchdog => exact canonical_execStallWatchdog h
  case phaseCompletion => exact canonical_execPhaseCompletion h
  case farRequest => exact canonical_execFarRequest h
  case farReply => exact canonical_execFarReply h
  case freeze => exact canonical_execFreeze h
  case nestStep => exact canonical_execNestStep h
  case selfTest => exact canonical_execSelfTest h
  case relayoutBlock => exact canonical_execRelayoutBlock h
  case transferSlot => exact canonical_execTransferSlot h
  case copyCompletion => exact canonical_execCopyCompletion h
  case packetLookup => exact canonical_execPacketLookup h
  case delivery => exact canonical_execDelivery h
  case translationCompletion => exact canonical_execTranslationCompletion h
  case atsInvalidation => exact canonical_execAtsInvalidation h
  case invalidationCompletion => exact canonical_execInvalidationCompletion h
  case batchTimer => exact canonical_execBatchTimer h
  case prgResponse => exact canonical_execPrgResponse h
  case migrationCommand => exact canonical_execMigrationCommand h
  case migack => exact canonical_execMigack h
  case framepush => exact canonical_execFramepush h
  case ppatwr => exact canonical_execPpatwr h
  case registerWrite => exact canonical_execRegisterWrite h
  case beat => exact canonical_execBeat h
  case chunk => exact canonical_execChunk h
  case ringLimit => exact canonical_execRingLimit h
  case opStart => exact canonical_execOpStart h
  case opCompletion => exact canonical_execOpCompletion h
  case done => exact canonical_execDone h
  case abortNotice => exact canonical_execAbortNotice h
  case absent => exact canonical_execAbsent h
  case present => exact canonical_execPresent h
  case collectiveTimeout => exact canonical_execCollectiveTimeout h
  case arrive => exact canonical_execArrive h
  case launchTimeout => exact canonical_execLaunchTimeout h
  case fail => exact canonical_execFail h
  case replicate => exact canonical_execReplicate h
  case keepAlive => exact canonical_execKeepAlive h
  case memberLost => exact canonical_execMemberLost h
  case sync => exact canonical_execSync h
  case pdelayReq => exact canonical_execPdelayReq h
  case newKeyPair => exact canonical_execNewKeyPair h
  case preempt => exact canonical_execPreempt h
  case contextSave => exact canonical_execContextSave h
  case restore => exact canonical_execRestore h
  case savepush => exact canonical_execSavepush h
  case drainEnd => exact canonical_execDrainEnd h
  case qtail => exact canonical_execQtail h
  case qctl => exact canonical_execQctl h
  case launch => exact canonical_execLaunch h
  case queueFence => exact canonical_execQueueFence h
  case wait => exact canonical_execWait h
  case launchCompletion => exact canonical_execLaunchCompletion h
  case placement => exact canonical_execPlacement h
  case sensorReading => exact canonical_execSensorReading h
  case debugStop => exact canonical_execDebugStop h
  case twordRead => exact canonical_execTwordRead h
  case dbgatt => exact canonical_execDbgatt h
  case dbgstop => exact canonical_execDbgstop h
  case dbgres => exact canonical_execDbgres h
  case dbgdataRead => exact canonical_execDbgdataRead h
  case dbgdataWrite => exact canonical_execDbgdataWrite h
  case moduleReset => exact canonical_execModuleReset h
  case getVersion => exact canonical_execGetVersion h
  case getCapabilities => exact canonical_execGetCapabilities h
  case negotiateAlgorithms => exact canonical_execNegotiateAlgorithms h
  case getDigests => exact canonical_execGetDigests h
  case getCertificate => exact canonical_execGetCertificate h
  case challenge => exact canonical_execChallenge h
  case getMeasurements => exact canonical_execGetMeasurements h
  case keyExchange => exact canonical_execKeyExchange h
  case lockInterface => exact canonical_execLockInterface h
  case startInterface => exact canonical_execStartInterface h
  case stopInterface => exact canonical_execStopInterface h
  case partitionCreate => exact canonical_execPartitionCreate h
  case partitionDestroy => exact canonical_execPartitionDestroy h
  case tileCheck => exact canonical_execTileCheck h
  case temperatureLimit => exact canonical_execTemperatureLimit h
  case imageLoad => exact canonical_execImageLoad h
  case imageUnload => exact canonical_execImageUnload h
  case rowResponse => exact canonical_execRowResponse h
  case hostWindowAccess => exact canonical_execHostWindowAccess h
  case flqhead => exact canonical_execFlqhead h
  case rechead => exact canonical_execRechead h
  case pageRequestEnable => exact canonical_execPageRequestEnable h
  case portLost => exact canonical_sendHeld h ..
  case trainingComplete => exact canonical_execTrainingComplete h
  case keepAliveInterval => exact canonical_execKeepAliveInterval h
  case ptpInterval => exact canonical_execPtpInterval h
  case pdelayResp => exact canonical_execPdelayResp h

/-! ## The turns of a network cycle -/

theorem canonical_focus (tid st) : MemoryCanonical (focus tid st s) := h

theorem canonical_runWord (tid st) : CanonicalNext (runWord tid st s) := by
  unfold runWord; split
  · exact canonical_illegalAt (canonical_focus h ..) _
  · exact canonical_exec (canonical_focus h ..) _

theorem canonical_withArg (a b c) : MemoryCanonical (withArg a b c s) := h

theorem canonical_reachIssue (tid st) : CanonicalNext (reachIssue tid st s) := by
  grind [reachIssue, canonical_exec, canonical_runWord, canonical_withArg]

theorem canonical_leaveStopped (tl st) : MemoryCanonical (leaveStopped tl st s) := by
  unfold leaveStopped; split
  · split
    · exact h
    · exact canonical_freeEngine h ..
  · exact h

theorem canonical_classifyHeads (tl st) : MemoryCanonical (classifyHeads tl st s) := by
  grind [classifyHeads, canonical_setHead, canonical_foldl]

theorem canonical_landSaved (tid st k) : MemoryCanonical (landSaved tid st k s) := by
  fun_induction landSaved tid st k s <;> grind [canonical_exec, canonical_withArg, canonicalNext_next]

theorem canonical_takeCalls (tl st k) : CanonicalNext (takeCalls tl st k s) := by
  fun_induction takeCalls tl st k s <;> grind [canonical_exec, canonical_withArg, canonical_landSaved, canonicalNext_next]

theorem canonical_blockSlot (tl st) : CanonicalNext (blockSlot tl st s) :=
  canonical_takeCalls (canonical_classifyHeads (canonical_leaveStopped h ..) ..) ..

theorem canonical_wordSlot (tl st) : CanonicalNext (wordSlot tl st s) := by
  unfold wordSlot; split
  · split
    · exact canonical_reachIssue h ..
    · exact h
  · exact h

theorem canonical_blockSlotQ (tid st) : CanonicalNext (blockSlotQ tid st s) := by
  unfold blockSlotQ; split
  · exact h
  · dsimp only; split
    · exact canonical_exec (canonical_withArg (canonical_setHead h ..) ..) _
    · exact h

theorem canonical_wordSlotQ (tid st) : CanonicalNext (wordSlotQ tid st s) := by
  unfold wordSlotQ; split
  · exact canonical_reachIssue h ..
  · exact h

theorem canonical_moveSlot (key) {r} (hr : moveSlot s key = some r) : MemoryCanonical r := by
  grind [moveSlot, canonical_exec, canonical_withArg, canonicalNext_next]

theorem canonical_streamerSlot (q) : CanonicalNext (streamerSlot q s) := by
  unfold streamerSlot
  extract_lets x stay ks order move
  have hstay {r} (hr : stay = some r) : MemoryCanonical r.1 := by
    simp only [stay] at hr
    split at hr
    · cases hr
    · obtain ⟨s1, h1, rfl⟩ := Option.map_eq_some_iff.mp hr
      exact canonical_moveSlot h _ h1
  have hmove {r} (hr : move = some r) : MemoryCanonical r.1 := by
    simp only [move] at hr
    cases hs : stay with
    | some y => rw [hs] at hr; cases hr; exact hstay hs
    | none =>
      rw [hs] at hr
      obtain ⟨k, -, hk⟩ := List.exists_of_findSome?_eq_some hr
      obtain ⟨s1, h1, rfl⟩ := Option.map_eq_some_iff.mp hk
      exact canonical_moveSlot h _ h1
  clear_value move
  split
  · exact hmove rfl
  · split <;> exact h

theorem canonical_readyFor (tid) : MemoryCanonical (readyFor tid s) := by
  unfold readyFor; split <;> exact h

theorem canonical_passedOver (tid) : MemoryCanonical (passedOver tid s) := by
  grind [passedOver, canonical_setHead]

theorem canonical_ctlSlot (tl ctx) : CanonicalNext (ctlSlot tl ctx s) := by
  unfold ctlSlot; split
  · dsimp only; split
    · exact h
    · split
      · exact h
      · exact canonical_passedOver h _
  · dsimp only; split
    · exact h
    · split
      · exact h
      · exact canonical_reachIssue (canonical_readyFor h _) ..

theorem canonical_setPhase (ph) : MemoryCanonical (setPhase ph s) := h

theorem canonical_moreSlots (l) : MemoryCanonical (moreSlots l s) := by
  unfold moreSlots; split <;> exact h

theorem canonical_mayRun (i a b c) {r} (hr : mayRun i a b c s = some r) : MemoryCanonical r := by
  grind [mayRun, canonical_exec, canonical_withArg, canonicalNext_next]

theorem canonical_writeRows (q k) : MemoryCanonical (writeRows q k s) := by
  induction k generalizing s with
  | zero => exact h
  | succ fuel ih =>
    unfold writeRows
    dsimp only; split
    next s1 hr =>
      obtain ⟨e, -, he⟩ := List.exists_of_findSome?_eq_some hr
      obtain ⟨i, -, hi⟩ := List.exists_of_findSome?_eq_some he
      have hrow := canonical_mayRun h .rowResponse e.1 i 0 (r := s1)
      exact ih (by grind)
    next => exact h

theorem canonical_deliverAll (tl k) : MemoryCanonical (deliverAll tl k s) := by
  induction k generalizing s with
  | zero => exact h
  | succ fuel ih =>
    unfold deliverAll; split
    next s1 hr =>
      obtain ⟨i, -, hi⟩ := List.exists_of_findSome?_eq_some hr
      split at hi
      · exact ih (canonical_mayRun h _ _ _ _ hi)
      · cases hi
    next => exact h

theorem canonical_runSlot (x) : CanonicalNext (runSlot x s) := by
  cases x with
  | order tl => exact canonical_moreSlots h _
  | nest tl =>
    have h1 := canonical_getD h fun t => canonical_mayRun h .selfTest tl 0 0 (r := t)
    exact canonical_getD h1 fun t => canonical_mayRun h1 .nestStep tl 0 0
  | updates tl => exact canonical_loneUpdates h tl
  | rows q => exact canonical_writeRows h q _
  | deliver tl => exact canonical_deliverAll h tl _
  | block tl st => exact canonical_blockSlot h tl st
  | word tl st => exact canonical_wordSlot h tl st
  | blockQ tid st => exact canonical_blockSlotQ h tid st
  | wordQ tid st => exact canonical_wordSlotQ h tid st
  | ctl tl ctx => exact canonical_ctlSlot h tl ctx
  | streamer q => exact canonical_streamerSlot h q

theorem canonical_firstNext (l) {r} (hr : firstNext s l = some r) : MemoryCanonical r := by
  fun_induction firstNext s l <;> grind [canonical_exec, canonical_withArg, canonicalNext_next]

theorem canonical_tick : MemoryCanonical (tick s) := by
  grind [tick, canonical_shiftAll, canonical_drainResult, canonical_scanAll, canonical_bury, canonical_checkHealth,
    canonical_noteHealth, wf_tickTile, memoryCanonical_iff, canonicalTiles_mapVals, canonical_foldl]

theorem canonical_landStep : CanonicalNext (landStep s) := by
  unfold landStep; split
  · dsimp only; split
    · exact canonical_exec (by exact h) _
    · trivial
  · split
    · exact canonical_exec (canonical_withArg h ..) _
    · exact h

theorem canonical_oneMove : CanonicalNext (oneMove s) := by
  grind [oneMove, canonical_setPhase, canonical_runSlot, canonical_firstNext, canonical_tick, canonical_landStep,
    canonicalNext_next]

end

/-- Settles O59: a step is one move of the module, and every move keeps the memories canonical. -/
theorem stepKeepsMemories : Obligations.StepKeepsMemories := by
  unfold Obligations.StepKeepsMemories
  intro s t h hstep
  have hmove : CanonicalNext (step s) := canonical_oneMove h
  rwa [hstep] at hmove

end Sys2Proof.Laws
end

section
/-!
PROOFS. A save that is refused while a collective run of a member holds a fault (O51; 19 R419, R442; 24 R495). Every member
goes on after the refusal, and one that holds a fault takes it instead. Where that member replays, the fault is its divergence,
and a record of it (kind 7) follows that of the refusal (kind 4) in the fault log. So FLQTAIL advances by two, and not by one as
the statement has it.
-/
namespace Sys2Proof.Laws

open Sys2Proof.Machine Sys2Proof.Safety Sys2Proof.Claims

/-- The run of flow 5 that member 0 of team 0 takes part in, whose timer has reached its limit of 1 µs (17 R402). -/
def overdueRun : Coll := { open_ := true, timerNs := 2000 }

/-- The same run, which holds its timeout, since its participant is frozen (17 R402; 19 R419). -/
def faultHoldingRun : Coll :=
  { overdueRun with timerNs := 0, timerOff := true, heldFault := some { code := 9, engine := 6, defer := true, async := true, lo := 5 } }

/-- A replaying thread that has come to rest for the pre-emption of its team. -/
def restingReplay : Thread := { frz := some { taken := 1, closed := true }, replay := { mode := 2 } }

/-- A module in which team 0, of one replaying member, is asked to be pre-empted and has come to rest. Its partition has a fault
log with room for 64 records and an empty save list, and `c` is the run of its flow 5. -/
def restingTeam (c : Coll) : State :=
  { threads := [(0, restingReplay)], teams := [(0, { members := [0], live := [0], preempt := true })],
    parts := [(0, { regs := { flqsize := 64 }, colls := [(5, c)] })], arg := { a := 0, b := 5 } }

/-- The fault comes to be held as R402 says: COLLECTIVE_TIMEOUT finds the participant frozen. -/
theorem collectiveTimeout_holdsFault : exec .collectiveTimeout (restingTeam overdueRun) = .next (restingTeam faultHoldingRun) :=
  rfl

theorem liveOf_restingTeam (c : Coll) : liveOf (restingTeam c) 0 = [0] := rfl

theorem savable_restingTeam (c : Coll) : savable (restingTeam c) 0 = true := rfl

theorem flqRoom_restingTeam (c : Coll) : flqRoom (restingTeam c) 0 = true := by
  simp [flqRoom, part, look, restingTeam]

/-- With an empty save list the save is refused with reason 1 (19 R442). -/
theorem contextSave_restingTeam (c : Coll) : exec .contextSave (restingTeam c) = .next (refuseSave 0 1 0 (restingTeam c)) := rfl

/-- The refusal of the save and the divergence of the member each take a place in the fault log. -/
theorem flqtail_refuseSave_heldFault : (part (refuseSave 0 1 0 (restingTeam faultHoldingRun)) 0).regs.flqtail = 2 := by
  decide +kernel

/-- A refusal as the statement has it takes one place in a fault log that has room. -/
theorem flqtail_of_saveRefused {k reason va : Nat} {ms : List Nat} {s t : State} (h : SaveRefused k ms reason va s t)
    (hroom : flqRoom s (team s k).part = true) :
    (part t (team s k).part).regs.flqtail = (part s (team s k).part).regs.flqtail + 1 := by
  obtain ⟨-, -, -, hrecord, -⟩ := h
  exact (hrecord hroom).1

/-- Refutes O51: of the clauses on CONTEXT_SAVE the one for an empty save list fails where a run of a replaying member holds a
fault, which the member takes as it goes on (19 R442), so that it diverges and is recorded as well (24 R495). -/
theorem not_partitionEvents : ¬ Obligations.PartitionEvents := by
  unfold Obligations.PartitionEvents
  rintro ⟨-, -, -, -, -, -, -, -, -, -, -, hsave, -⟩
  obtain ⟨-, -, hempty⟩ := hsave (restingTeam faultHoldingRun) 0 0 _ _ [0] rfl rfl rfl rfl rfl rfl
    (liveOf_restingTeam _).symm (List.cons_ne_nil _ _)
    (fun m hm => List.mem_singleton.mp hm ▸ savable_restingTeam _) rfl rfl
  obtain ⟨t, hrun, hrefused⟩ := hempty rfl
  rw [contextSave_restingTeam] at hrun
  cases hrun
  have htail := flqtail_of_saveRefused hrefused (flqRoom_restingTeam _)
  exact absurd (flqtail_refuseSave_heldFault.symm.trans htail) (by decide)

end Sys2Proof.Laws
end

section
/-!
PROOFS. The tag words (O21; 08 R206). Each of them is one C word that gives g[d] a result and its thread a table, so the frame
is proved once for all of them, and each clause then says which result and which table its word has.
-/
namespace Sys2Proof.Laws

open Sys2Proof.Machine Sys2Proof.Safety Sys2Proof.Claims

/-! ## A result that lands after the issue of its word -/

section
variable (now k d : Nat) (v : Word) (t : Thread)

theorem gOf_landsIn (n : Nat) : gOf (landsIn now k d v t) n = if n = d then (if d = 0 then 0 else v) else gOf t n :=
  gOf_setG n d v t

theorem pOf_landsIn (n : Nat) : pOf (landsIn now k d v t) n = pOf t n := pOf_congr (setG_cp d v t) n

theorem tOf_landsIn (n : Nat) : tOf (landsIn now k d v t) n = tOf t n := tOf_congr (setG_ct d v t) n

theorem landsIn_pc : (landsIn now k d v t).c.pc = t.c.pc := setG_pc d v t

/-- Of a thread a landing result changes the C registers and their interlock alone. -/
theorem landsIn_eq : landsIn now k d v t =
    { t with c := (landsIn now k d v t).c, gReady := (landsIn now k d v t).gReady } := by
  unfold landsIn setG; split <;> rfl

end

/-! ## One frame for the tag words -/

/-- The state after a tag word has completed. -/
def tagDone (d : Nat) (f : Thread → Word × SMap (BitVec 32)) (s : State) : State :=
  wordDone 2 (fun t => landsIn s.clock.now 2 d (f t).1 { t with tags := (f t).2 }) s

theorem tagWord_next {s : State} (ho : occupied s s.cur = true) (happ : isTiller s.cur = false) (d : Nat)
    (f : Thread → Word × SMap (BitVec 32)) : tagWord d f s = .next (tagDone d f s) := by
  simp only [tagWord, appOnly, ho, happ, Bool.not_true, Bool.false_eq_true, if_false]
  exact doneC_next ho 2 _

section
variable {s : State} {f : Thread → Word × SMap (BitVec 32)} {v : Word} {m : SMap (BitVec 32)}
  (ho : occupied s s.cur = true) (hf : f (issuedThread 2 (thr s s.cur)) = (v, m))
include ho hf

theorem thr_tagDone (d : Nat) : thr (tagDone d f s) s.cur =
    landsIn s.clock.now 2 d v { issuedThread 2 (thr s s.cur) with tags := m } := by
  rw [tagDone, thr_wordDone ho, hf]

theorem pcBy_tagDone (d : Nat) : PcBy 2 s (tagDone d f s) := by
  rw [PcBy, thr_tagDone ho hf, landsIn_pc, pc_issuedThread]

theorem gWritten_tagDone (d : Nat) : GWritten d v s (tagDone d f s) := by
  rw [GWritten, thr_tagDone ho hf, gOf_landsIn, if_pos rfl]

theorem tags_tagDone (d : Nat) : (thr (tagDone d f s) s.cur).tags = m := by
  rw [thr_tagDone ho hf, landsIn_eq]

theorem tagFrame_tagDone (d : Nat) : TagFrame d s (tagDone d f s) := by
  have hg : GKeep [d] (thr s s.cur) (thr (tagDone d f s) s.cur) := fun n hn => by
    rw [thr_tagDone ho hf, gOf_landsIn, if_neg (by simpa using hn)]; rfl
  have hp : PKeep [] (thr s s.cur) (thr (tagDone d f s) s.cur) := fun n _ => by
    rw [thr_tagDone ho hf, pOf_landsIn]; rfl
  have ht : TKeep [] (thr s s.cur) (thr (tagDone d f s) s.cur) := fun n _ => by
    rw [thr_tagDone ho hf, tOf_landsIn]; rfl
  refine ⟨hg, hp, ht, ?_⟩
  rw [thr_tagDone ho hf, landsIn_eq]
  exact ⟨⟨fun _ => rfl, fun _ => rfl⟩, fun _ _ _ => rfl, fun _ _ => rfl, ⟨rfl, rfl, rfl, rfl⟩, ⟨rfl, rfl, rfl, rfl⟩,
    rfl, rfl, rfl, rfl, rfl, rfl, rfl, ⟨rfl, rfl, rfl⟩, ⟨rfl, rfl⟩, outside_wordDone 2 _ s⟩

end

/-- A tag word that leaves its table has the frame of a C word that writes one register. -/
theorem cFrame_of_tagFrame {d : Nat} {s t : State} (h : TagFrame d s t) (htags : (thr t s.cur).tags = (thr s s.cur).tags) :
    CFrame [d] [] [] s t := by
  obtain ⟨hg, hp, ht, hv, hacc, hk, hspecial, hstreams, hfly, hwin, hshadow, hnest, hcopies, hrx, hmq, hfreeze, hfar, hout⟩ := h
  exact ⟨hg, hp, ht, ⟨hv, hacc, hk, hspecial, hstreams, ⟨hfly, htags, hwin, hshadow, hnest, hcopies, hrx, hmq⟩, hfreeze, hfar⟩,
    hout⟩

/-! ## What each tag word gives (08 R206) -/

theorem minusOne_eq_status : minusOne = status 1 := by decide

theorem neg_two_eq_status : neg 2 = status 2 := by decide

theorem tagResult_of_find {t : Thread} {k : Nat} {x : BitVec 32} (h : find t.tags k = some x) :
    tagResult t k = x.zeroExtend 64 := by simp [tagResult, h]

theorem tagResult_of_find_none {t : Thread} {k : Nat} (h : find t.tags k = none) : tagResult t k = status 1 := by
  simp [tagResult, h, minusOne_eq_status]

theorem tagSetting_of_find {t : Thread} {k : Nat} {old : BitVec 32} (h : find t.tags k = some old) (x : BitVec 32) :
    tagSetting t k x = (old.zeroExtend 64, put k x t.tags) := by simp [tagSetting, h]

theorem tagSetting_of_room {t : Thread} {k : Nat} (h : find t.tags k = none) (hroom : t.tags.length < 256) (x : BitVec 32) :
    tagSetting t k x = (status 1, put k x t.tags) := by simp [tagSetting, h, hroom, minusOne_eq_status]

theorem tagSetting_of_full {t : Thread} {k : Nat} (h : find t.tags k = none) (hfull : 256 ≤ t.tags.length) (x : BitVec 32) :
    tagSetting t k x = (status 2, t.tags) := by
  simp [tagSetting, h, Nat.not_lt.mpr hfull, neg_two_eq_status]

theorem find_del {α : Type} (k j : Nat) (m : SMap α) : find (del k m) j = if j = k then none else find m j := by
  split
  next h => rw [h, find_del_same]
  next h => exact find_del_ne h m

/-- A removal of a key that the table does not hold changes no entry. -/
theorem find_del_of_find_none {α : Type} {k : Nat} {m : SMap α} (h : find m k = none) (j : Nat) :
    find (del k m) j = find m j := by
  rw [find_del]; split
  next hj => rw [hj, h]
  next => rfl

section
variable {s : State} (ho : occupied s s.cur = true) (happ : isTiller s.cur = false)
  {i : Instr} {d : Nat} {f : Thread → Word × SMap (BitVec 32)} {v : Word} {m : SMap (BitVec 32)}
  (hi : exec i s = tagWord d f s) (hf : f (issuedThread 2 (thr s s.cur)) = (v, m))
include ho happ hi hf

/-- A tag word of an application context completes with the result and the table that it makes of the thread. -/
theorem tagWord_completes :
    ∃ t, exec i s = .next t ∧ PcBy 2 s t ∧ GWritten d v s t ∧ TagFrame d s t ∧ (thr t s.cur).tags = m :=
  ⟨tagDone d f s, hi.trans (tagWord_next ho happ d f), pcBy_tagDone ho hf d, gWritten_tagDone ho hf d,
    tagFrame_tagDone ho hf d, tags_tagDone ho hf d⟩

/-- The same, with the table after it given by what each key finds there. -/
theorem tagWord_completes_find {g : Nat → Option (BitVec 32)} (hm : ∀ k, find m k = g k) :
    ∃ t, exec i s = .next t ∧ PcBy 2 s t ∧ GWritten d v s t ∧ TagFrame d s t ∧ ∀ k, find (thr t s.cur).tags k = g k := by
  obtain ⟨t, hnext, hpc, hg, hframe, htags⟩ := tagWord_completes ho happ hi hf
  exact ⟨t, hnext, hpc, hg, hframe, htags ▸ hm⟩

/-- A tag word that leaves the table only writes its register. -/
theorem tagWord_writesG (hm : m = (thr s s.cur).tags) : WritesG i 2 d v s := by
  obtain ⟨t, hnext, hpc, hg, hframe, htags⟩ := tagWord_completes ho happ hi hf
  exact ⟨t, hnext, hg, hpc, cFrame_of_tagFrame hframe (htags.trans hm)⟩

end

/-- Settles O21: of each tag word the result and the table are those of R206, and its frame is that of all of them. -/
theorem tagWords : Obligations.TagWords := by
  unfold Obligations.TagWords
  intro s ho happ
  refine ⟨fun d a x hit => ⟨?_, ?_, fun b => ?_⟩, fun d a miss => ⟨?_, ?_, fun b => ⟨fun room => ?_, fun full => ?_⟩⟩, fun d => ?_⟩
  · -- TAG.LOOK of a key that an entry has
    exact tagWord_writesG ho happ rfl (Prod.ext (tagResult_of_find hit) rfl) rfl
  · -- TAG.CLR of it
    exact tagWord_completes_find ho happ rfl (Prod.ext (tagResult_of_find hit) rfl) fun k => find_del _ k _
  · -- TAG.SET of it
    exact tagWord_completes_find ho happ rfl (tagSetting_of_find hit _) fun k => find_put _ k _ _
  · -- TAG.LOOK of a key that no entry has
    exact tagWord_writesG ho happ rfl (Prod.ext (tagResult_of_find_none miss) rfl) rfl
  · -- TAG.CLR of it
    exact tagWord_completes_find ho happ rfl (Prod.ext (tagResult_of_find_none miss) rfl) (find_del_of_find_none miss)
  · -- TAG.SET of it, while the table has room
    exact tagWord_completes_find ho happ rfl (tagSetting_of_room miss room _) fun k => find_put _ k _ _
  · -- TAG.SET of it, once the table is full
    exact tagWord_writesG ho happ rfl (tagSetting_of_full miss full _) rfl
  · -- TAG.CLR of every entry
    exact tagWord_completes ho happ rfl rfl

end Sys2Proof.Laws
end

section
/-!
PROOFS. A flush of a window with elements at two addresses (O37; 08 R213, R215). The statement has the call of every word that
goes on with its list hold `base`. For AOPEN that is the base which it reads (R211). AFLUSH and ACLOSE read none, and there
`ends` puts no condition on `base`: the statement asks the call to hold every number at once. The call of AFLUSH holds 0.
-/
namespace Sys2Proof.Laws

open Sys2Proof.Machine Sys2Proof.Safety Sys2Proof.Claims

/-- A call whose next word stands at halfword 2 of 6. -/
def flushCall : Call := { len := 6, mpc := 2 }

/-- An open FP32 window at 4096 that lists a value for each of its first two elements. -/
def twoListed : Window := { isOpen := true, base := 4096, list := [(4096, 1), (4100, 2)] }

/-- A module whose thread 0 is at a word of its A stream with that window. -/
def flushing : State := { strm := 5, threads := [(0, { eng := [(5, { call := some flushCall })], win := twoListed })] }

theorem tokenFree_flushing : TokenFree flushing {} := ⟨by decide, by decide, nofun, nofun⟩

/-- The first cycle of AFLUSH performs the update at 4096, and its call goes on to that at 4100 with base 0. -/
theorem aflush_flushing : ∃ t d, exec (.aflush {}) flushing = .next t ∧ (thr t 0).win.doing = [(4100, [2])] ∧
    (engOf (thr t 0) 5).call = some d ∧ d.held = true ∧ d.base = 0 :=
  ⟨_, _, rfl, rfl, rfl, rfl, rfl⟩

/-- Refutes O37: where elements at two addresses are listed, the clause on words that go on holds for AFLUSH with `base` 1 as with
any other number, and asks the call to hold it. The call holds 0. -/
theorem not_scatterWords : ¬ Obligations.ScatterWords := by
  unfold Obligations.ScatterWords
  intro h
  obtain ⟨hissue, -⟩ := h flushing {} flushCall twoListed rfl rfl rfl rfl
  obtain ⟨hends, -⟩ := hissue rfl tokenFree_flushing rfl rfl
  obtain ⟨-, hperform⟩ := hends (.aflush {}) 1 _ rfl nofun
  obtain ⟨t, hnext, -, -, -, -, -, -, -, hgoesOn⟩ := hperform 4096 1 [(4100, 2)] rfl (by decide) rfl
  obtain ⟨⟨d, hcall, -, hbase, -⟩, -⟩ := hgoesOn ⟨(4100, 2), List.mem_singleton.mpr rfl, by decide⟩
  obtain ⟨t', d', hnext', -, hcall', -, hbase'⟩ := aflush_flushing
  obtain rfl : t = t' := Host.Outcome.next.inj (hnext.symm.trans hnext')
  obtain rfl : d = d' := Option.some.inj (hcall.symm.trans hcall')
  exact absurd (hbase.symm.trans hbase') (by decide)

end Sys2Proof.Laws
end
